-- ==== Sys2Proof/Word.lean ====
section
/-!
DEFINITION. Words, byte strings and the plain containers every other file uses.

Bit vectors stand for what the spec treats as bits (registers, fields of messages, FP32 words, masks).
Counts, sizes and instants are natural numbers, signed quantities are integers.
-/
namespace Sys2Proof

/-- One byte. -/
abbrev Byte := BitVec 8
/-- A byte string, first byte first. -/
abbrev Bytes := List (BitVec 8)
/-- A 16-bit word. -/
abbrev U16 := BitVec 16
/-- A 32-bit word. -/
abbrev U32 := BitVec 32
/-- A 64-bit word. -/
abbrev U64 := BitVec 64
/-- The 32 bits of an IEEE 754 binary32 number (R176). -/
abbrev Fp := BitVec 32
/-- An instant or a length in units of 1/65,536 ns: the T80 value `T64 * 65536 + fraction` (R6). -/
abbrev Fine := Nat
/-- A quality word (R11). -/
abbrev Quality := BitVec 16
/-- Things kept by number. A number that is absent stands for the reset value, which the reader names. -/
abbrev Table (α : Type) := List (Nat × α)

end Sys2Proof
end

