-- ==== Sys2Proof/Syntax/Types.lean ====
section
/-!
DEFINITION. The operands of the commands: what a host command's header and descriptor hold, the frames and
messages that reach the block, and the items that a pair and a cascade exchange.
-/
namespace Sys2Proof

/-- The two ways a mailbox command reaches the Gaffer (R26). -/
inductive Path where
  | pcie
  | moe
  deriving DecidableEq, Repr

/-- The header of a mailbox command (R49), less OPCODE and LENGTH, with the mailbox and path it came by. -/
structure CmdHead where
  mb : Fin 16
  path : Path := .pcie
  tag : U16
  flags : U32 := 0
  rsv : U32 := 0
  deriving DecidableEq, Repr

/-- How host memory meets an access of the device: it answers, it stays silent, or it ends the access with an unsupported-request
or completer-abort status (R52). -/
inductive HostAnswer where
  | answers | silent | aborts
  deriving DecidableEq, Repr

/-- The buffer descriptor (R51). `host` is no field of it: it says how host memory will meet the accesses to the buffer. -/
structure BufDesc where
  addr : U64
  len : U32
  kind : U16
  rsv : U16 := 0
  host : HostAnswer := .answers
  deriving DecidableEq, Repr

/-- The envelope of a staging command (R72); the records are kept as the bytes that were sent. -/
structure Envelope where
  txn : U32
  rsv : U32 := 0
  records : Bytes
  deriving DecidableEq, Repr

/-- The payload of CONV_SETPOINT without its KIND (R286). -/
structure SetPointArgs where
  conv : Byte
  qty : Byte
  apply : Byte
  value : U32
  event : Byte
  rsv : BitVec 24 := 0
  slope : U32
  tApply : U64
  deriving DecidableEq, Repr

/-- The payload of TRACE_CONFIGURE without its OP (R293). -/
structure TraceArgs where
  nCh : Byte
  div : U16
  pre : U32
  trig : Byte
  trigArg : Byte
  rsv : U16 := 0
  thresh : U32
  nodes : List U32
  deriving DecidableEq, Repr

/-- The two PTP domains. -/
inductive Dom where
  | a
  | b
  deriving DecidableEq, Repr

/-- The other domain. -/
def Dom.other : Dom → Dom
  | .a => .b
  | .b => .a

/-- The object number of a domain's DOMAIN record, and its code. -/
def Dom.num : Dom → Nat
  | .a => 0
  | .b => 1

/-- The flags of an IEC 61850 quality, as R129 names them. -/
structure IecQual where
  validity : BitVec 2 := 0
  overflow : Bool := false
  outOfRange : Bool := false
  badReference : Bool := false
  oscillatory : Bool := false
  failure : Bool := false
  oldData : Bool := false
  inconsistent : Bool := false
  inaccurate : Bool := false
  substituted : Bool := false
  test : Bool := false
  operatorBlocked : Bool := false
  derived : Bool := false
  deriving DecidableEq, Repr

/-- One ASDU of a sampled-value frame (R119). -/
structure SvAsdu where
  smpCnt : Nat
  vals : List U32
  quals : List IecQual
  deriving DecidableEq, Repr

/-- A sampled-value frame at the SV ingest stamping point (R119, R125). -/
structure SvFrame where
  port : Fin 16
  dst : BitVec 48
  src : BitVec 48
  appid : U16
  vid : Option (BitVec 12)
  svid : Bytes
  sim : Bool := false
  noAsdu : Nat
  dataLen : Nat
  confRev : U32
  smpSynch : Byte
  gmId : Option U64 := none
  asdus : List SvAsdu
  deriving DecidableEq, Repr

/-- One entry of a GOOSE dataset (R196, R349, R362). -/
inductive GooseVal where
  | bool (b : Bool)
  | f32 (w : Fp)
  | i32 (w : U32)
  | qual (q : IecQual)
  | utc (t : Nat) (notSync : Bool)
  deriving DecidableEq, Repr

/-- A received GOOSE frame (R349); `tal` is timeAllowedToLive in ms. -/
structure GooseFrame where
  port : Fin 16
  dst : BitVec 48
  appid : U16
  gocbRef : Bytes
  tal : Nat
  stNum : U32
  sqNum : U32
  confRev : U32
  ndsCom : Bool := false
  sim : Bool := false
  tNotSync : Bool := false
  entries : List GooseVal
  deriving DecidableEq, Repr

/-- The PTP messages of the peer-to-peer profiles (R93), and those of the delay request-response mechanism. -/
inductive PtpKind where
  | sync
  | followUp
  | announce
  | pdelayReq
  | pdelayResp
  | pdelayRespFollowUp
  | delayReqResp
  deriving DecidableEq, Repr

/-- The data set that an Announce carries and by which masters are ranked (R85, R93). -/
structure PtpClock where
  prio1 : Byte := 128
  clockClass : Byte := 248
  accuracy : Byte := 254
  variance : U16 := 0xFFFF
  prio2 : Byte := 128
  gmId : U64 := 0
  steps : U16 := 0
  deriving DecidableEq, Repr

/-- A PTP message (R93). `origin` is the time stamp in its body, `corr` its correctionField in 2^-16 ns, `inacc` the
totalTimeInaccuracy of its C37.238 TLV in ns, `tlvOk` whether that TLV is there and good, `tx` the egress stamp of a sent message. -/
structure PtpMsg where
  port : Fin 16
  domainNumber : Byte
  kind : PtpKind
  twoStep : Bool := false
  seq : U16
  src : U64
  corr : Int := 0
  origin : Fine := 0
  clock : PtpClock := { }
  tlvOk : Bool := true
  inacc : Nat := 0
  tx : Fine := 0
  deriving DecidableEq, Repr

/-- An IRIG-B frame as decoded from the ball (R103). `utc` is the time of day it names, in ns since the epoch. -/
structure IrigFrame where
  format : Fin 8
  utcOfYear : Nat
  year : Nat
  leapPending : Bool := false
  leapNegative : Bool := false
  worseThan1us : Bool := false
  inverted : Bool := false
  deriving DecidableEq, Repr

/-- An IEEE 802.1Q tag. -/
structure VlanTag where
  pcp : BitVec 3
  vid : BitVec 12
  deriving DecidableEq, Repr

/-- What an Ethernet frame carries, as far as the switch core tells frames apart (R367, R368, R380, R381). `moe`, `mgmtIp` and
`c37Cmd` are addressed to the device's own IP address; `lldp` carries the wake time that its exchange agrees, in ns. The forms that
end in `Own` are sent by the block itself. -/
inductive EthBody where
  | sv
  | goose
  | ptp (domainNumber : Byte) (event : Bool)
  | moe (src : BitVec 128) (udpPort : U16) (mailbox : Byte)
  | mgmtIp
  | lldp (tw : Nat)
  | pause (quanta : U16)
  | c37Cmd
  | supervision
  | other
  | ptpOwn (m : PtpMsg)
  | gooseOwn (cb : Nat) (stNum sqNum : U32)
  | c37Own (stream : Nat)
  | moeOwn (mb : Nat)
  | telemetryOwn (dseq : U32)
  deriving DecidableEq, Repr

/-- An Ethernet frame. `len` counts from the destination address through the FCS; `red` is a PRP trailer or
HSR tag with its sequence number (R383); `fcsOk` says whether the FCS is good. -/
structure EthFrame where
  dst : BitVec 48
  src : BitVec 48
  tag : Option VlanTag := none
  body : EthBody := .other
  len : Nat
  red : Option U16 := none
  fcsOk : Bool := true
  deriving DecidableEq, Repr

/-- One received block of a JESD204C link (R138 to R141): per physical lane whether its sync header is valid; where `emb`
says that an extended multiblock ends with it, per lane whether the marker decodes and whether it decodes after inversion;
whether the CRC-12 is good; and the samples of each converter with their over-range bits. -/
structure JesdBlock where
  headersOk : List Bool
  emb : Bool := false
  markers : List Bool
  inverted : List Bool
  skewOk : Bool := true
  crcOk : Bool := true
  lemcEdge : Bool := false
  samples : List (List U16)
  overrange : List (List Bool)
  deriving DecidableEq, Repr

/-- A FIRE frame of the cascade ring (R434). -/
structure FireFrame where
  group : Fin 8
  origin : Fin 4
  armSeq : U32
  tFire : Fine
  deriving DecidableEq, Repr

/-- A STATUS frame of a valve hub (R304). -/
structure HubStatus where
  ver : Byte := 1
  crcOk : Bool := true
  src : Fin 8
  ka : Bool := false
  hold : Bool := false
  localBlock : Bool := false
  blocked : Bool := false
  other : Bool := false
  bcycle : Nat
  uid : U32
  body : List (U16 × Byte)
  deriving DecidableEq, Repr

/-- An EVENT frame of a valve hub (R304, R305). -/
structure HubEvent where
  crcOk : Bool := true
  src : Fin 8
  arbId : U16
  bcycle : Nat
  uid : U32
  ecode : Byte
  sm : Byte
  tOfs : U32
  data : U64
  deriving DecidableEq, Repr

/-- A JOIN_REQ or CLAIM_REQ of a valve hub (R304, R305). `m` is the time of R314 in bit times. -/
structure HubRequest where
  crcOk : Bool := true
  src : Fin 8
  uid : U32
  resid : Nat
  bcycle : Nat
  txLag : Nat
  nSm : Nat
  chain : Bool
  m : Nat
  deriving DecidableEq, Repr

/-- A heartbeat frame (R417). -/
structure HbFrame where
  crcOk : Bool := true
  side : Bool
  preferred : Bool
  state : Fin 7
  cmdOk : Bool
  arbLost : Bool
  revAck : Bool
  reqTransfer : Bool
  ctime : U32
  epoch : Nat
  deriving DecidableEq, Repr

/-- An ARB frame (R418); `cmd` 0 NONE, 1 GRANT, 2 REVOKE, 3 TRANSFER, 4 CANCEL. -/
structure ArbFrame where
  crcOk : Bool := true
  cmd : Fin 5
  role : Fin 3
  epoch : Nat
  atCycle : Nat
  deriving DecidableEq, Repr

/-- The persistent part of an instance's state (R179, R425): its timers, bits and words by number. -/
structure FState where
  ints : Table Int := []
  bits : Table Bool := []
  words : Table U32 := []
  deriving DecidableEq, Repr

/-- The ramp and target of one set-point quantity (R284, R285). -/
structure Ramp where
  active : Bool := false
  held : Bool := false
  ref : Fp := 0
  target : Fp := 0
  slope : Fp := 0
  deriving DecidableEq, Repr

/-- The converter state of R291. -/
structure ConvState where
  xiD : Fp := 0
  xiQ : Fp := 0
  xiC : List Fp := [0, 0, 0]
  r1 : List Fp := [0, 0, 0]
  r2 : List Fp := [0, 0, 0]
  xiOuterD : Fp := 0
  xiOuterQ : Fp := 0
  xiW : Fp := 0
  idRef : Fp := 0
  iqRef : Fp := 0
  icirDc : Fp := 0
  icirH : List Fp := [0, 0, 0]
  aV : List Fp := [0, 0, 0]
  ramps : Table Ramp := []
  cause : BitVec 12 := 0
  inserted : Table (List Nat) := []
  tableStarted : Table Bool := []
  deriving DecidableEq, Repr

/-- The state an edge, timer or counter instruction owns (R345). -/
structure Owned where
  count : Nat := 0
  prev : Bool := false
  running : Bool := false
  deriving DecidableEq, Repr

/-- The retained state of a logic task (R340). -/
structure Retained where
  outBits : Table Bool := []
  outWords : Table U32 := []
  retBits : Table Bool := []
  retWords : Table U32 := []
  owned : Table Owned := []
  deriving DecidableEq, Repr

/-- The numbers of one GOOSE control block that a pair mirrors (R425). -/
structure GooseNums where
  stNum : U32 := 0
  sqNum : U32 := 0
  sent : List GooseVal := []
  deriving DecidableEq, Repr

/-- The lane state that a pair mirrors (R425). -/
structure LaneMirror where
  mstate : Fin 5
  released : Bool
  allSel : Bool
  selected : Byte
  reach : Fin 8
  spareOwner : List Byte
  joined : Byte
  deriving DecidableEq, Repr

/-- The identity item of a pair (R425). -/
structure PairIdentity where
  fwVer : U32 := 0
  configDigest : U32 := 0
  inputDigest : U32 := 0
  placeDigest : U32 := 0
  state : Fin 7 := 0
  arbLost : Bool := false
  inhibit : Bool := false
  knownEpoch : Nat := 0
  deriving DecidableEq, Repr

/-- One mirrored item (R425). -/
inductive MirrorItem where
  | inst (n : Nat) (st : FState) (sweep : Bool)
  | converter (c : Fin 2) (st : ConvState)
  | logic (task : Fin 8) (st : Retained)
  | numbers (seq : U32) (goose : Table GooseNums)
  | lane (l : Fin 24) (st : LaneMirror)
  | identity (p : PairIdentity)
  deriving DecidableEq, Repr

/-- One configuration record as committed (R72): type, object and body. -/
structure Rec where
  rtype : Nat
  obj : Nat
  body : Bytes
  deriving DecidableEq, Repr

/-- Where the copies of an instance run and the figures it was placed with (R245, R249 to R253, R266). -/
structure Machine.PlacedInst where
  device : Nat := 0
  primary : Nat := 255
  twin : Nat := 255
  spare : Nat := 255
  lofs : Nat := 0
  ftype : Nat := 0
  single : Bool := false
  cost : Nat := 0
  local_ : Nat := 0
  parts : Nat := 0
  stage : Nat := 0
  release : Nat := 0
  finish : Nat := 0
  finishTwin : Nat := 0
  pinned : Bool := false
  moved : Bool := false
  roleTaken : Bool := false
  isNew : Bool := true
  deriving DecidableEq, Repr

/-- A placement (R245 to R266): the instances, the static order of each engine (by 64 times the device plus the engine), the ring
depths, T_MIN, the bound of R249, and FREE_ENGINES. -/
structure Machine.Placement where
  insts : Table Machine.PlacedInst := []
  orders : Table (List Nat) := []
  rings : Table Nat := []
  tMin : Nat := 208333
  bound : Nat := 145833
  free : Nat := 0
  digest : U32 := 0
  inputDigest : U32 := 0
  proven : Bool := false
  deriving DecidableEq, Repr

/-- A cascade CONFIG frame (R435): a device's bank with the keys of the records that the commit changes, or the effect tick that the
master names for a generation. -/
inductive CasConfig where
  | bank (gen : U32) (recs : List Rec) (features : BitVec 128) (place : Machine.Placement) (changed : List (Nat × Nat))
  | effect (gen : U32) (tick : Nat × Nat)
  deriving DecidableEq, Repr

/-- A cascade STATUS frame (R434); `written` is the generation whose commit marker the device reports, `retired` its retired
engines (R246). -/
structure CasStatus where
  src : Fin 4
  tSent : Fine
  rate : Nat
  timeSync : Bool
  configDigest : U32
  gen : U32
  fwVer : U32
  hops : Fin 4 := 0
  clockwise : Bool := true
  written : Option U32 := none
  retired : U64 := 0
  deriving DecidableEq, Repr

/-- The receivers whose lock RECEIVER_LOCK reports (R299, R424, R488). -/
inductive Receiver where
  | valve (lane : Fin 24)
  | mirror (n : Fin 2)
  | cascade (n : Fin 4)
  deriving DecidableEq, Repr

/-- The ways the PCIe function is reset or held (R450, R478). -/
inductive PcieEvent where
  | hotReset
  | linkDown
  | flr
  | perstLow (lowNs : Nat)
  | perstHigh
  deriving DecidableEq, Repr

/-- A bank of the store (R459). -/
inductive BankKind where
  | config
  | cal
  deriving DecidableEq, Repr

/-- An uncorrectable or corrected SRAM word (R28, R467): region 0 to 7 in the order of R28, unit and word as
EV_ECC names them, and the object a reader of the word would meet (an event's SEQ, a task, a frame, a channel). -/
structure EccHit where
  region : Fin 8
  unit : U16
  word : U32
  obj : Nat
  corrected : Bool
  deriving DecidableEq, Repr

/-- A mailbox-over-Ethernet command datagram (R71). -/
structure MoeDatagram where
  port : Fin 16
  src : BitVec 128
  udpPort : U16
  magic : U16
  version : Byte
  typ : Byte
  mailbox : Byte
  rsv : Byte
  count : U16
  seq : U32
  rsv2 : U32
  batch : Bytes
  deriving DecidableEq, Repr

end Sys2Proof
end

