-- ==== Sys2Proof/Syntax.lean ====
section
/-!
DEFINITION. The commands of the block: one constructor per row of spec/opcode_table.json.

The first operand of every command, `dt`, is the number of cycles of the 1 GHz time counter (R81) that pass before the
command (log entry 1). A row that is a host command carries the header of R49 in `h`; the fields after it are the
payload of the command, in the order of its layout.
-/
namespace Sys2Proof

/-- A command of the block. -/
inductive Instr where
  -- host commands (R62 to R79)
  | hello (dt : Nat) (h : CmdHead) (drv : BitVec 128) (maj min : U16) (rsv : U32)
  | featuresCommit (dt : Nat) (h : CmdHead) (req : BitVec 128)
  | modeSet (dt : Nat) (h : CmdHead) (mode mflags : Byte) (rsv : U16)
  | statusGet (dt : Nat) (h : CmdHead)
  | configBegin (dt : Nat) (h : CmdHead) (baseGen tflags : U32)
  | configRecord (dt : Nat) (h : CmdHead) (env : Envelope)
  | configCommit (dt : Nat) (h : CmdHead) (txn rsv : U32)
  | configAbort (dt : Nat) (h : CmdHead) (txn rsv : U32)
  | instanceCreate (dt : Nat) (h : CmdHead) (env : Envelope)
  | instanceDelete (dt : Nat) (h : CmdHead) (env : Envelope)
  | settingsWrite (dt : Nat) (h : CmdHead) (env : Envelope)
  | settingsRead (dt : Nat) (h : CmdHead) (inst : U16) (source rsv : Byte) (buf : BufDesc)
  | place (dt : Nat) (h : CmdHead) (txn pflags : U32)
  | placementGet (dt : Nat) (h : CmdHead) (source select : Byte) (first count rsv : U16) (buf : BufDesc)
  | streamSubscribe (dt : Nat) (h : CmdHead) (env : Envelope)
  | streamUnsubscribe (dt : Nat) (h : CmdHead) (env : Envelope)
  | acqConfigure (dt : Nat) (h : CmdHead) (env : Envelope)
  | armCont (dt : Nat) (h : CmdHead) (group : Byte) (rsv : U16) (tArm : U64) (buf : Option BufDesc)
  | armSingle (dt : Nat) (h : CmdHead) (group : Byte) (rsv : U16) (tArm : U64) (buf : Option BufDesc)
  | disarm (dt : Nat) (h : CmdHead) (group : Byte) (rsv : U16) (tArm : U64) (buf : Option BufDesc)
  | force (dt : Nat) (h : CmdHead) (group : Byte) (rsv : U16) (tArm : U64) (buf : Option BufDesc)
  | skewMeasure (dt : Nat) (h : CmdHead) (group : Byte) (rsv : U16) (tArm : U64) (buf : Option BufDesc)
  | acqArmEffect (dt : Nat) (group : Fin 8)
  | segmentRead (dt : Nat) (h : CmdHead) (group seg : U16) (rflags : U32) (buf : BufDesc)
  | convConfigure (dt : Nat) (h : CmdHead) (env : Envelope)
  | setPoint (dt : Nat) (h : CmdHead) (a : SetPointArgs)
  | deblock (dt : Nat) (h : CmdHead) (a : SetPointArgs)
  | block (dt : Nat) (h : CmdHead) (a : SetPointArgs)
  | setpointEffect (dt : Nat) (conv : Fin 2) (qty : Fin 8)
  | deblockEffect (dt : Nat) (conv : Fin 2)
  | compTableWrite (dt : Nat) (h : CmdHead) (env : Envelope)
  | traceArm (dt : Nat) (h : CmdHead) (a : TraceArgs)
  | traceDisarm (dt : Nat) (h : CmdHead) (a : TraceArgs)
  | traceForce (dt : Nat) (h : CmdHead) (a : TraceArgs)
  | traceRead (dt : Nat) (h : CmdHead) (first count : U32) (chMask rflags : U16) (rsv : U32) (buf : BufDesc)
  | valveConfigure (dt : Nat) (h : CmdHead) (env : Envelope)
  | valveSleep (dt : Nat) (h : CmdHead) (lanes rsv : U32)
  | valveWake (dt : Nat) (h : CmdHead) (lanes : U32) (wId wIdMask : U16) (wData wDataMask : U32)
  | logicLoad (dt : Nat) (h : CmdHead) (env : Envelope)
  | logicRun (dt : Nat) (h : CmdHead) (tasks start : Byte) (rsv : U16)
  | logicStop (dt : Nat) (h : CmdHead) (tasks start : Byte) (rsv : U16)
  | portConfigure (dt : Nat) (h : CmdHead) (env : Envelope)
  | switchConfigure (dt : Nat) (h : CmdHead) (env : Envelope)
  | timeConfigure (dt : Nat) (h : CmdHead) (env : Envelope)
  | timeIncrementWrite (dt : Nat) (h : CmdHead) (domain : Byte) (rsv : BitVec 56) (inc : U64)
  | timeStep (dt : Nat) (h : CmdHead) (domain smode : Byte) (rsv : BitVec 48) (value : U64) (frac : U16) (rsv2 : BitVec 48)
  | incrementTakeEffect (dt : Nat) (dom : Dom)
  | eventAck (dt : Nat) (h : CmdHead) (ackSeq aflags : U32) (buf : BufDesc)
  | recordList (dt : Nat) (h : CmdHead) (first : U32) (kinds rsv : Byte) (count : U16) (buf : BufDesc)
  | recordRead (dt : Nat) (h : CmdHead) (record : U32) (format file : Byte) (rdflags : U16) (offset : U64) (buf : BufDesc)
  | pairConfigure (dt : Nat) (h : CmdHead) (env : Envelope)
  | transferNow (dt : Nat) (h : CmdHead) (rsv : BitVec 24)
  | setInhibit (dt : Nat) (h : CmdHead) (rsv : BitVec 24)
  | clearInhibit (dt : Nat) (h : CmdHead) (rsv : BitVec 24)
  | calWrite (dt : Nat) (h : CmdHead) (nItems cflags : U16) (rsv : U32) (entries : Bytes)
  | calRead (dt : Nat) (h : CmdHead) (item : U16) (obj : U16) (rsv : U32) (buf : BufDesc)
  | fwWrite (dt : Nat) (h : CmdHead) (rsv : BitVec 24) (offset : U32) (buf : BufDesc) (img : Bytes)
  | fwVerify (dt : Nat) (h : CmdHead) (rsv : BitVec 24) (offset : U32) (buf : BufDesc)
  | fwActivate (dt : Nat) (h : CmdHead) (rsv : BitVec 24) (offset : U32) (buf : BufDesc)
  | fwConfirm (dt : Nat) (h : CmdHead) (rsv : BitVec 24) (offset : U32) (buf : BufDesc)
  | fwErase (dt : Nat) (h : CmdHead) (rsv : BitVec 24) (offset : U32) (buf : BufDesc)
  -- BAR0 accesses (R42 to R48, R106)
  | mbxDoorbell (dt : Nat) (mb : Fin 16) (value : U32)
  | commandHalfWrite (dt : Nat) (mb : Fin 16) (offset : Fin 4096) (data : Bytes)
  | mbxRespCons (dt : Nat) (mb : Fin 16) (value : U32)
  | mbxDropcnt (dt : Nat) (mb : Fin 16)
  | devIrqStatus (dt : Nat) (value : U32)
  | devIrqMask (dt : Nat) (value : U32)
  | tmuSnap (dt : Nat) (value : U32)
  | tmuTsqOvf (dt : Nat) (value : U32)
  | tmuTsqStat (dt : Nat) (port : Fin 16)
  | registerWriteOther (dt : Nat) (addr : BitVec 18) (width : Nat) (value : U64)
  -- Gaffer (R48 to R79, R452 to R463)
  | doorbellPass (dt : Nat)
  | moeDatagramRx (dt : Nat) (d : MoeDatagram)
  | hostAccessTimeout (dt : Nat) (tag : U16)
  | txnIdleTimeout (dt : Nat)
  | bankMarkerWritten (dt : Nat) (kind : BankKind)
  | flashOpComplete (dt : Nat) (crypto : Bool)
  | configApply (dt : Nat)
  | modeTakeEffect (dt : Nat)
  | bootResetTimer (dt : Nat)
  | porstN (dt : Nat) (lowNs : Nat)
  | sysrstN (dt : Nat) (lowNs : Nat)
  | resetRelease (dt : Nat) (selfTestOk : Bool)
  | internalPor (dt : Nat)
  | pcieFunctionReset (dt : Nat) (ev : PcieEvent)
  | fwLoaded (dt : Nat) (cryptoA cryptoB : Bool)
  | bootComplete (dt : Nat)
  | lockstepMismatch (dt : Nat)
  | gafferEccError (dt : Nat) (word : U32)
  | devAliveTick (dt : Nat)
  -- power (R439 to R448)
  | railMonitorSample (dt : Nat) (levels : List Nat)
  | pwrWarn (dt : Nat) (level : Bool)
  | warnDwellExpiry (dt : Nat)
  | shedDwellExpiry (dt : Nat)
  | recoverHoldExpiry (dt : Nat)
  -- time (R80 to R118)
  | ptpMessageRx (dt : Nat) (m : PtpMsg)
  | domainRefTimeout (dt : Nat) (dom : Dom)
  | holdoverLimitExpiry (dt : Nat) (dom : Dom)
  | worktimeSwitch (dt : Nat)
  | revertHoldExpiry (dt : Nat)
  | ppsEdge (dt : Nat) (highNs lowNs : Nat) (rising : Bool)
  | ppsTimeout (dt : Nat)
  | irigFrame (dt : Nat) (f : IrigFrame)
  | leapSecond (dt : Nat) (dom : Dom)
  | tsqDrain (dt : Nat)
  | launchDue (dt : Nat) (port : Fin 16) (q : Fin 2)
  | launchTolExpiry (dt : Nat) (port : Fin 16) (q : Fin 2)
  | pulseEdge (dt : Nat) (out : Fin 2)
  | latticeTick (dt : Nat)
  | streamAgeingSweep (dt : Nat)
  | fastCycle (dt : Nat)
  | trackerLockTimer (dt : Nat) (trk : Fin 8)
  | coastLimitExpiry (dt : Nat) (trk : Fin 8)
  | marverFiring (dt : Nat)
  -- sampled values (R119 to R137)
  | svFrameRx (dt : Nat) (f : SvFrame)
  | svTickFreeze (dt : Nat) (stream : Fin 512)
  | streamLoss (dt : Nat) (stream : Fin 512)
  -- acquisition (R138 to R171)
  | jesdBlockRx (dt : Nat) (link : Fin 4) (b : JesdBlock)
  | sysrefEdge (dt : Nat)
  | sysrefTimeout (dt : Nat) (link : Fin 4)
  | acqOutput (dt : Nat) (ch : Fin 32)
  | groupRearm (dt : Nat) (g : Fin 8)
  | trigInEdge (dt : Nat) (ball : Fin 4) (rising : Bool)
  | cascadeFireRx (dt : Nat) (f : FireFrame)
  | cascadeTriggerHold (dt : Nat) (g : Fin 8)
  | lehrSkewMeasure (dt : Nat) (link : Fin 4) (phase : U32)
  | skewcalStale (dt : Nat) (link : Fin 4)
  -- engines, Gather, publication (R172 to R244)
  | executionComplete (dt : Nat) (eng : Fin 64) (inst : Fin 1024) (rerun : Bool) (upset : U32)
  | gatherPass (dt : Nat)
  | gooseRepeat (dt : Nat) (cb : Fin 64)
  | c37PubWaitExpiry (dt : Nat) (st : Fin 8)
  | c37CommandRx (dt : Nat) (idcode : U16) (cmd : U16)
  -- logic and field I/O (R331 to R364)
  | logicWatchdog (dt : Nat)
  | gooseSubRx (dt : Nat) (f : GooseFrame)
  | gooseSubExpire (dt : Nat) (n : Fin 128)
  | fieldSupervisionTick (dt : Nat) (biA biB diS boFb boLs : U32)
  | inputFilterExpiry (dt : Nat) (ch : Fin 88)
  | discrepancyLatch (dt : Nat) (n : Fin 32)
  | boReadbackTimeout (dt : Nat) (n : Fin 32)
  | boTestPulse (dt : Nat) (n : Fin 32)
  -- switch (R365 to R388)
  | ethFrameRx (dt : Nat) (port : Fin 16) (f : EthFrame)
  | portTransmitSelect (dt : Nat) (port : Fin 16)
  | pauseExpiry (dt : Nat) (port : Fin 16)
  | residueTimeout (dt : Nat) (port : Fin 16)
  | portLinkChange (dt : Nat) (port : Fin 16) (up inverted : Bool)
  | macAgeingSweep (dt : Nat)
  | culletAudit (dt : Nat) (stray : List (Fin 32768))
  | lpiIdleExpiry (dt : Nat) (port : Fin 16)
  | downshiftTimer (dt : Nat) (port : Fin 16)
  | lifeCheck (dt : Nat) (pair : Fin 8)
  -- valve fabric (R297 to R330)
  | valveStatusRx (dt : Nat) (lane : Fin 24) (f : HubStatus)
  | valveEventRx (dt : Nat) (lane : Fin 24) (f : HubEvent)
  | joinReq (dt : Nat) (lane : Fin 24) (f : HubRequest)
  | claimReq (dt : Nat) (lane : Fin 24) (f : HubRequest)
  | joinLost (dt : Nat) (lane : Fin 24) (pos : Fin 8)
  | tSleepExpiry (dt : Nat) (lane : Fin 24)
  | laneWakeDone (dt : Nat) (lane : Fin 24)
  | valveWakeBall (dt : Nat) (high : Bool)
  | laneRxSignal (dt : Nat) (lane : Fin 24)
  | keepawakeLimit (dt : Nat) (lane : Fin 24)
  -- pair, arbiter, cascade (R413 to R438)
  | arbHbRx (dt : Nat) (link : Fin 2) (f : HbFrame)
  | arbDecide (dt : Nat)
  | arbFrameRx (dt : Nat) (f : ArbFrame)
  | arbLost (dt : Nat)
  | mirrorFrameRx (dt : Nat) (crcOk : Bool) (lane : Fin 2) (items : List MirrorItem)
  | mirrorLoss (dt : Nat)
  | selDelayExpiry (dt : Nat)
  | pairRevertHold (dt : Nat)
  | transferPredrive (dt : Nat)
  | transferAt (dt : Nat)
  | cascadeStatusRx (dt : Nat) (f : CasStatus)
  | cascadeArmRx (dt : Nat) (seq : U32) (group : Byte) (op : Byte) (tArm : U64)
  | cascadeConfigRx (dt : Nat) (f : CasConfig)
  | cascadeDeviceLost (dt : Nat) (dev : Fin 4)
  -- events, records, telemetry (R389 to R412)
  | eventRingBatch (dt : Nat)
  | eventRingRetry (dt : Nat)
  | telemetryMs (dt : Nat)
  | statusBlockSecond (dt : Nat) (lpiRx : U16)
  | drecEnd (dt : Nat) (n : Fin 8)
  | recordEventCopyEnd (dt : Nat) (n : Fin 8)
  | recordWriterSlice (dt : Nat)
  -- Lehr, JTAG and the rest (R28, R464 to R493)
  | lehrSramScrub (dt : Nat) (hits : List EccHit)
  | lehrDdrScrub (dt : Nat)
  | lehrFlashMaintenance (dt : Nat)
  | lehrTelemetry (dt : Nat) (temps : List Int)
  | jtagInstruction (dt : Nat) (ir : BitVec 4)
  | receiverLock (dt : Nat) (rx : Receiver) (lock inverted : Bool)
  | protectedWindow (dt : Nat) (port : Fin 16) (w : Fin 8)
  | lpiWake (dt : Nat) (port : Fin 16)
  | lldpTransmit (dt : Nat) (port : Fin 16)
  | ptpTransmitInterval (dt : Nat) (port : Fin 16) (dom : Dom) (kind : PtpKind)
  | workOffsetBleed (dt : Nat)
  | placeComplete (dt : Nat)
  deriving DecidableEq, Repr

end Sys2Proof
end

