-- ==== Sys2Proof/Decode.lean ====
section
/-!
DEFINITION. Reading a command from a word. The opcode table gives no bits to any of its rows, so no word spells a command.
-/
namespace Sys2Proof

/-- The command that a word of the opcode table's bits spells: none. -/
def decodeTableWord (_nbits _w : Nat) : Option Instr := none

end Sys2Proof
end

