-- ==== Sys2Proof/Config.lean ====
section
/-!
DEFINITION. Free values: what the spec leaves open. None of these constants has a body, so no statement can rest on a
value of one. The `Nat` argument, where there is one, is the State's counter of free values (log entry 19).
-/
namespace Sys2Proof.Config

/-- Sine, cosine, arctangent of a ratio, exponential and natural logarithm of the engines' library routines, whose last
bits the spec leaves open (R176: within 2 ulp). Angles in radians. -/
opaque fsin : Fp → Fp
@[inherit_doc fsin] opaque fcos : Fp → Fp
@[inherit_doc fsin] opaque fatan2 : Fp → Fp → Fp
@[inherit_doc fsin] opaque fexp : Fp → Fp
@[inherit_doc fsin] opaque flog : Fp → Fp

/-- The sum of a list in the fixed tree order of R176, whose shape the spec does not give. -/
opaque treeSum : List Fp → Fp

/-- Bytes whose CRC-32C is STATE_DIGEST (R179): the layout of an instance's state is the firmware build's. -/
opaque stateBytes : FState → Bytes
/-- Bytes of a placement and of its input whose CRC-32C are PLACE_DIGEST and INPUT_DIGEST (R247). -/
opaque placeBytes : List (List Nat) → Bytes
@[inherit_doc placeBytes] opaque inputBytes : List Rec → Nat → Nat → List (List Nat) → Bytes
/-- The device of a cascade on which an input is received, by KIND and number (R254): the spec does not say how it is known. -/
opaque inputHome : Nat → Nat → Nat

/-- The increment correction of the Gaffer servo for an offset (in 2^-16 ns), its integral term and LOOP_BW (R84). -/
opaque servo : Int → Int → Nat → Int
/-- One update of a tracker's loop from its three inputs, state words and settings: angle, frequency, ROCOF, amplitude,
frequency error, angle error in degrees and integrator (R111, R112). -/
opaque pll : List Fp → List U32 → Bytes → List U32

/-- A byte of a host buffer after a TIMEOUT (R52). -/
opaque hostByte : Nat → Nat → Byte
/-- Bytes of a COMTRADE file whose text the standard, and not the spec, lays out (R411). -/
opaque comtrade : Nat → Nat → Bytes → Bytes
/-- A value of an instance that the spec does not state (the logarithm of zero, a quotient by zero). -/
opaque unstated : Nat → Nat → Fp
/-- Prefetches of an engine issued and discarded by the present second (R203, R204). -/
opaque prefetches : Nat → Nat → Nat × Nat
/-- The sum that a trace node, a mean or a product of the converter shows where the order of operations is open. -/
opaque convValue : Nat → Nat → Fp
/-- The engine time an execution takes, at most its declared cost (R175, R210). -/
opaque execNs : Nat → Nat → Nat
/-- DELAY of a span of the cascade as measured at ring formation, in 2^-16 ns (R436). -/
opaque spanDelay : Nat → Nat
/-- The state a re-run leaves when a word it read was changed by a soft error (R184). -/
opaque upsetWord : Nat → U32
/-- The Ethernet address that ARP or NDP finds for an IP address (R401). -/
opaque resolve : BitVec 128 → BitVec 48
/-- PCP of the tag that a frame received untagged leaves with, by class; sequence number of a frame whose proxy table is full. -/
opaque egressPcp : Nat → BitVec 3
@[inherit_doc egressPcp] opaque redSeq : Nat → U16

end Sys2Proof.Config
end

