-- ==== Sys2Proof/Machine/Bits.lean ====
section
/-!
DEFINITION. Reading and writing numbers in byte strings, tables keyed by number, sparse memories, and integer helpers.
-/
namespace Sys2Proof

/-- The unsigned number whose little-endian bytes are `b` (R14). -/
def leNat : Bytes → Nat
  | [] => 0
  | x :: xs => x.toNat + 256 * leNat xs

/-- The `n` bytes at offset `off`; bytes past the end read 0. -/
def Bytes.slice (b : Bytes) (off n : Nat) : Bytes :=
  let t := (b.drop off).take n
  t ++ List.replicate (n - t.length) 0

/-- The unsigned little-endian field of `n` bytes at offset `off`. -/
def Bytes.le (b : Bytes) (off n : Nat) : Nat := leNat (Bytes.slice b off n)

/-- An unsigned byte, 16-bit, 32-bit or 64-bit field. -/
def Bytes.u8 (b : Bytes) (off : Nat) : Nat := Bytes.le b off 1
@[inherit_doc Bytes.u8] def Bytes.u16 (b : Bytes) (off : Nat) : Nat := Bytes.le b off 2
@[inherit_doc Bytes.u8] def Bytes.u32 (b : Bytes) (off : Nat) : Nat := Bytes.le b off 4
@[inherit_doc Bytes.u8] def Bytes.u64 (b : Bytes) (off : Nat) : Nat := Bytes.le b off 8

/-- An unsigned value of `bits` bits read as two's complement. -/
def toSigned (bits n : Nat) : Int := if n < 2 ^ (bits - 1) then (n : Int) else (n : Int) - 2 ^ bits

/-- A signed field of `n` bytes. -/
def Bytes.sle (b : Bytes) (off n : Nat) : Int := toSigned (8 * n) (Bytes.le b off n)

/-- A field of `n` bytes as an FP32 word (offset of 4 bytes). -/
def Bytes.fp (b : Bytes) (off : Nat) : Fp := BitVec.ofNat 32 (Bytes.u32 b off)

/-- `n` as `w` little-endian bytes, modulo `2^(8 w)` (R14). -/
def leBytes : Nat → Nat → Bytes
  | 0, _ => []
  | w + 1, n => BitVec.ofNat 8 n :: leBytes w (n / 256)

/-- `z` as `w` little-endian bytes in two's complement. -/
def sleBytes (w : Nat) (z : Int) : Bytes := leBytes w (z.emod (2 ^ (8 * w))).toNat

/-- `n` zero bytes. -/
def zeros (n : Nat) : Bytes := List.replicate n 0

/-- The bytes of a list of (width, value) fields, one after another. -/
def packLe (fs : List (Nat × Nat)) : Bytes := fs.flatMap fun f => leBytes f.1 f.2

/-- Pads a byte string with zeros to a multiple of `k`. -/
def padTo (k : Nat) (b : Bytes) : Bytes := b ++ zeros ((k - b.length % k) % k)

/-- Bit `i` of a number. -/
def bitOf (n i : Nat) : Bool := n.testBit i

/-- The number whose set bits are the positions where `p` holds, below `n`. -/
def maskOf (n : Nat) (p : Nat → Bool) : Nat :=
  (List.range n).foldl (fun a i => if p i then a + 2 ^ i else a) 0

/-- 1 for true, 0 for false. -/
def b2n (b : Bool) : Nat := if b then 1 else 0

/-- A counter that saturates at `2^bits - 1`. -/
def satAdd (bits n k : Nat) : Nat := min (n + k) (2 ^ bits - 1)

/-- Ceiling division. -/
def ceilDiv (a b : Nat) : Nat := (a + b - 1) / b

/-- Rounds an integer quotient to the nearest integer, ties to even, for a positive divisor. -/
def roundDivEven (a : Int) (b : Nat) : Int :=
  let q := a.fdiv b
  let r := a - q * b
  if 2 * r < b then q else if 2 * r > b then q + 1 else if q % 2 = 0 then q else q + 1

/-- Rounds an integer quotient to the nearest integer, ties away from zero. -/
def roundDivAway (a : Int) (b : Nat) : Int :=
  if 0 ≤ a then ((2 * a + b) / (2 * b)) else -((2 * (-a) + b) / (2 * b))

/-- Bounds an integer to a range. -/
def clampInt (lo hi x : Int) : Int := if x < lo then lo else if hi < x then hi else x

/-! ### Tables -/

/-- The entry of a table under a number, or the reset value `d` where it has none. -/
def Table.get {α : Type} (d : α) (t : Table α) (k : Nat) : α :=
  match t with
  | [] => d
  | (j, v) :: r => if j = k then v else Table.get d r k

/-- The entry of a table under a number, if it has one. -/
def Table.find? {α : Type} (t : Table α) (k : Nat) : Option α :=
  match t with
  | [] => none
  | (j, v) :: r => if j = k then some v else Table.find? r k

/-- Writes the entry of a table under a number, keeping rising order of a table that rises. -/
def Table.put {α : Type} (t : Table α) (k : Nat) (v : α) : Table α :=
  match t with
  | [] => [(k, v)]
  | (j, w) :: r => if k < j then (k, v) :: (j, w) :: r else if k = j then (k, v) :: r else (j, w) :: Table.put r k v

/-- Removes the entry of a table under a number. -/
def Table.erase {α : Type} (t : Table α) (k : Nat) : Table α := t.filter fun e => e.1 != k

/-- Applies `f` to the entry under `k`. -/
def Table.modify {α : Type} (d : α) (t : Table α) (k : Nat) (f : α → α) : Table α :=
  Table.put t k (f (Table.get d t k))

/-- The numbers of a table's entries. -/
def Table.keys {α : Type} (t : Table α) : List Nat := t.map (·.1)

/-- The entries of a table. -/
def Table.vals {α : Type} (t : Table α) : List α := t.map (·.2)

/-! ### Sorting -/

/-- Inserts before the first element that must come after. -/
def insertBy {α : Type} (le : α → α → Bool) (x : α) : List α → List α
  | [] => [x]
  | y :: ys => if le x y then x :: y :: ys else y :: insertBy le x ys

/-- Sorts by `le`, keeping the order of equals. -/
def sortBy {α : Type} (le : α → α → Bool) : List α → List α
  | [] => []
  | x :: xs => insertBy le x (sortBy le xs)

/-! ### Sparse memories -/

/-- A memory: rising addresses, no entry equal to what an unlisted address reads as. -/
abbrev Mem := List (Nat × BitVec 8)

/-- Reads one byte; an unlisted address reads `d`. -/
def Mem.read (d : Byte) (m : Mem) (a : Nat) : Byte :=
  match m with
  | [] => d
  | (j, v) :: r => if j = a then v else if a < j then d else Mem.read d r a

/-- Writes one byte, keeping the canonical form. -/
def Mem.write (d : Byte) (m : Mem) (a : Nat) (x : Byte) : Mem :=
  match m with
  | [] => if x = d then [] else [(a, x)]
  | (j, v) :: r =>
    if a < j then (if x = d then (j, v) :: r else (a, x) :: (j, v) :: r)
    else if a = j then (if x = d then r else (a, x) :: r)
    else (j, v) :: Mem.write d r a x

/-- Every address of `m` lies above `lo`, they rise, and no entry holds `d`. -/
def Mem.wfFrom (d : Byte) (lo : Nat) : Mem → Bool
  | [] => true
  | (j, v) :: r => decide (lo ≤ j) && (v != d) && Mem.wfFrom d (j + 1) r

/-- The canonical form of a memory whose unlisted addresses read `d`. -/
def Mem.wf (d : Byte) (m : Mem) : Bool := Mem.wfFrom d 0 m

/-- Writes bytes from address `a` up. -/
def Mem.writeBytes (d : Byte) (m : Mem) (a : Nat) : Bytes → Mem
  | [] => m
  | x :: xs => Mem.writeBytes d (Mem.write d m a x) (a + 1) xs

/-- The `n` bytes from address `a` up. -/
def Mem.readBytes (d : Byte) (m : Mem) (a n : Nat) : Bytes := (List.range n).map fun i => Mem.read d m (a + i)

/-- The number of bytes of `m` that differ from `d` in `[a, a+n)` is 0. -/
def Mem.erasedAt (m : Mem) (a n : Nat) : Bool := m.all fun c => decide (c.1 < a ∨ a + n ≤ c.1)

/-- Sets `n` bytes from `a` to what unlisted addresses read. -/
def Mem.eraseRange (m : Mem) (a n : Nat) : Mem := m.filter fun c => decide (c.1 < a ∨ a + n ≤ c.1)

end Sys2Proof
end

