-- ==== Sys2Proof/Machine/State/Converter.lean ====
section
/-!
DEFINITION. State of the converter control engine (R267 to R296) and of the valve fabric controller (R297 to R330).
-/
namespace Sys2Proof.Machine

/-- A set-point or a DEBLOCK waiting to take effect (R286): quantity, target, slope, the outer cycle or matrix boundary from
which it takes effect, the converter event it waits for, whether it is held while the converter is blocked, its operation. -/
structure PendSet where
  qty : Nat := 0
  target : Fp := 0
  slope : Fp := 0
  at_ : Fine := 0
  event : Option Nat := none
  op : Nat := 0
  deriving DecidableEq, Repr

/-- Values latched or computed in the last fast cycle that traces, outer loops and checks read (R272 to R276, R292). -/
structure ConvMeas where
  /-- The eleven quantities of CONV_MEAS in engineering units, their latch ages in ns and whether each is bad. -/
  raw : List Fp := List.replicate 11 0
  age : List Int := List.replicate 11 0
  bad : List Bool := List.replicate 11 true
  q : Quality := 0
  idq : List Fp := [0, 0, 0, 0, 0, 0, 0, 0]
  pq : List Fp := [0, 0, 0, 0]
  iac : List Fp := [0, 0, 0]
  icir : List Fp := [0, 0, 0]
  uref : List Fp := [0, 0, 0, 0, 0, 0]
  nArm : List Nat := [0, 0, 0, 0, 0, 0]
  nav : List Nat := [0, 0, 0, 0, 0, 0]
  usum : List Fp := [0, 0, 0, 0, 0, 0]
  warm : List Fp := [0, 0, 0, 0, 0, 0]
  swaps : List Nat := [0, 0, 0, 0, 0, 0]
  switchings : List Nat := [0, 0, 0, 0, 0, 0]
  wsum : Fp := 0
  outer : List Fp := [0, 0]
  tab : List Fp := [0, 0, 0, 0]
  thc : U32 := 0
  deriving DecidableEq, Repr

/-- One converter: the state of R291 and what the model keeps beside it. -/
structure Conv where
  st : ConvState := { cause := 0x800 }
  meas : ConvMeas := { }
  /-- Sums over the fast cycles of the current outer cycle, and the means of the last one: P, Q, UDC, VAC and the three
  envelope quantities of R282. -/
  sums : List Fp := List.replicate 7 0
  count : Nat := 0
  means : List Fp := List.replicate 7 0
  pend : List PendSet := []
  /-- A DEBLOCK accepted. -/
  deblock : Option PendSet := none
  /-- The cycle before its boundary has run with released loops. -/
  released : Bool := false
  /-- Basic cycle of the first BLOCK slot since the latch was last clear. -/
  slotSince : Option Nat := none
  /-- References follow their measured values until the first outer cycle after a deblock (R285). -/
  track : Bool := true
  /-- Instant of the last deblock. -/
  openAt : Fine := 0
  /-- Quantities whose ramp started in the present outer cycle (R284). -/
  fresh : List Nat := []
  /-- Consecutive fast cycles in which a measurement was bad (R287). -/
  measBad : Nat := 0
  ovBypass : List Nat := [0, 0, 0, 0, 0, 0]
  blockedAlarm : Bool := false
  deriving DecidableEq, Repr

/-- The last report of a sub-module (R278, R304). -/
structure SmReport where
  vcode : Nat := 0
  smstat : Byte := 0
  cycle : Nat × Nat := (0, 0)
  deriving DecidableEq, Repr

/-- A compensation table as it runs: fade factor, and the bound crossed while it is faded (R282). -/
structure CompRun where
  k : Fp := 0x3F800000
  faded : Option Nat := none
  deriving DecidableEq, Repr

/-- The states of the trace set (R295). -/
inductive TraceState where
  | idle
  | armed
  | post
  | held
  deriving DecidableEq, Repr

/-- The trace set (R293 to R295): samples newest first, each the start of its fast cycle and the channel values. -/
structure Trace where
  state : TraceState := .idle
  args : Option TraceArgs := none
  /-- The mailbox that armed the set. -/
  owner : Nat := 0
  /-- Fast cycle of arming. -/
  armedAt : Nat := 0
  samples : List (Nat × List Fp) := []
  /-- Samples written since arming or since the trigger. -/
  preValid : Nat := 0
  postLeft : Nat := 0
  loss : Nat := 0
  /-- A trigger seen and not yet sampled; a RESAMPLE firing of this fast cycle. -/
  fired : Bool := false
  resample : Bool := false
  /-- Stopped by shedding or SAFE_HOLD while armed (R294). -/
  stopped : Bool := false
  deriving DecidableEq, Repr

/-- The converter control engine. -/
structure ConvEngine where
  convs : Table Conv := []
  /-- Sub-module reports under lane × 4096 + position × 128 + sub-module. -/
  reports : Table SmReport := []
  tables : Table CompRun := []
  trace : Trace := { }
  lateReport : Nat := 0
  /-- Converter, valve and Marver records of a commit that wait for this matrix boundary (R77), as the whole of each type. -/
  newRecs : Option (Fine × List Rec) := none
  /-- An uncorrectable word of the converter store that a reader will meet (R28). -/
  bad : Bool := false
  deriving DecidableEq, Repr

/-- The states of a lane (R321), in the order of their codes in R330. -/
inductive LaneState where
  | awake
  | announce
  | asleep
  | waking
  | off
  deriving DecidableEq, Repr

/-- The code of a lane state (R330). -/
def LaneState.code : LaneState → Nat
  | .awake => 0
  | .announce => 1
  | .asleep => 2
  | .waking => 3
  | .off => 4

/-- A hub position of a lane (R304, R314, R316). -/
structure HubPos where
  uid : Option U32 := none
  /-- The uid of an accepted request whose first STATUS is awaited. -/
  accepted : Option U32 := none
  delay : Option Nat := none
  nSm : Nat := 0
  chain : Bool := false
  lastStatus : Option (Nat × Nat) := none
  kaAt : Option Fine := none
  hold : Bool := false
  localBlock : Bool := false
  other : Bool := false
  /-- HUB_ID and HUB_DATA the hub was given (R322). -/
  hubId : U16 := 0
  hubData : U32 := 0
  /-- It has joined at some time (R322), and is in the lane's selection (R323). -/
  known : Bool := false
  selected : Bool := false
  deriving DecidableEq, Repr

/-- A JOIN_ACK or CLAIM_ACK waiting for its master window (R314). -/
structure PendAck where
  claim : Bool
  pos : Nat
  uid : U32
  result : Nat
  slot : Nat
  delay : Nat
  hubId : U16
  hubData : U32
  deriving DecidableEq, Repr

/-- A valve lane. -/
structure Lane where
  state : LaneState := .off
  since : Fine := 0
  /-- CS frames are sent from this instant (R321). -/
  resume : Fine := 0
  /-- Instant at which a keep-alive was last seen. -/
  keep : Fine := 0
  released : Bool := false
  releasedAt : Fine := 0
  pendRelease : Bool := false
  allSel : Bool := true
  reach : Nat := 7
  wake : Option (U16 × U16 × U32 × U32) := none
  wakeUntil : Fine := 0
  hubs : Table HubPos := []
  spares : List Nat := [0xFF, 0xFF]
  acks : List PendAck := []
  /-- Basic cycles of CS sent with SLEEP in the current announcement. -/
  announced : Nat := 0
  locked : Bool := false
  polRev : Bool := false
  keepAwakeFrom : Option Fine := none
  ignoredSignal : Nat := 0
  crcErr : Nat := 0
  deferOwn : Nat := 0
  deferHub : Nat := 0
  arbDrop : Nat := 0
  joinNak : Nat := 0
  lateReport : Nat := 0
  /-- Sources whose deferral has been told in this second (R310). -/
  deferTold : List Nat := []
  deferSec : Nat := 0
  deriving DecidableEq, Repr

/-- The valve fabric. -/
structure Valve where
  lanes : Table Lane := []
  /-- VALVE_WAKE ball: level and the instant it rose. -/
  ball : Bool := false
  ballAt : Option Fine := none
  deriving DecidableEq, Repr

end Sys2Proof.Machine
end

