-- ==== Sys2Proof/Machine/State/Engine.lean ====
section
/-!
DEFINITION. State of the protection engines, the Gather and publication (R172 to R202).
-/
namespace Sys2Proof.Machine

/-- A result record (R186): the parts' VALUES one after another, nine words a part. -/
structure ResultRec where
  inst : Nat
  ftype : Nat
  pclass : Nat
  quality : Quality
  tick : Nat × Nat
  tDecide : Fine
  exec : Nat := 0
  parts : Nat := 1
  digest : U32
  outbits : U32
  values : List U32
  deriving DecidableEq, Repr

/-- A record in a landing slot (R181): engine, the tick executed, landing instant, whether it is a re-run and whether memory it
read had an uncorrectable error. -/
structure Landed where
  eng : Nat
  k : Nat × Nat
  rec_ : ResultRec
  at_ : Fine
  rerun : Bool := false
  ecc : Bool := false
  deriving DecidableEq, Repr

/-- The roles of R191: which engine holds the primary, twin and spare role of an instance. -/
structure Roles where
  primary : Nat := 255
  twin : Nat := 255
  spare : Nat := 255
  deriving DecidableEq, Repr

/-- One tick of a paired instance that is not decided (R184, R189): the records processed, and where the tick diverged its
cause (1 to 3), the limit for the spare's record, whether the spare has run, and its record. -/
structure Duel where
  tick : Nat × Nat
  prim : Option Landed := none
  twin : Option Landed := none
  cause : Nat := 0
  limit : Fine := 0
  ran : Bool := false
  spare : Option Landed := none
  deriving DecidableEq, Repr

/-- The spare in place of a role engine that lost a vote (R191): whether it is the primary's role, the first tick, and the
tick from which the loser has its role again. -/
structure Stand where
  primary : Bool
  first : Nat × Nat
  until_ : Option (Nat × Nat) := none
  /-- The role is the spare's until a placement (R193). -/
  perm : Bool := false
  deriving DecidableEq, Repr

/-- An instance as the engines and the Gather hold it (R179 to R193). The copies of an instance compute the same, so its
state is kept once; a copy that a soft error changed shows it in its record. -/
structure Inst where
  /-- State after the ticks executed last, newest first: the checkpoints (R179). -/
  hist : List ((Nat × Nat) × FState) := []
  /-- First tick of the current run; none while the instance does not run. -/
  start : Option (Nat × Nat) := none
  /-- Results carry INVALID until a whole window lies at or after this tick (R188, R192). -/
  restarted : Option (Nat × Nat) := none
  /-- Per engine, the last tick it executed. -/
  done : Table (Nat × Nat) := []
  /-- The digest agreed at the last tick that matched (R180). -/
  digest : Option ((Nat × Nat) × U32) := none
  stopped : Bool := false
  /-- Instants of outcomes 3 and 4 within 60 s. -/
  outcomes : List Fine := []
  roles : Roles := { }
  stand : Option Stand := none
  /-- A role engine was retired and no spare can take the role: it publishes substitutes from this tick until a
  placement (R193). -/
  dead : Option (Nat × Nat) := none
  duels : List Duel := []
  /-- Settings with the tick from which they hold, newest first (R78). -/
  settings : List ((Nat × Nat) × Table U32) := []
  /-- Settings committed that wait for a re-run to end. -/
  pendSettings : Option (Table U32) := none
  /-- The last tick decided. -/
  decided : Option (Nat × Nat) := none
  deriving DecidableEq, Repr

/-- An engine (R193, R204). -/
structure Engine where
  retired : Bool := false
  /-- The tick in which it was retired. -/
  lastTick : Nat × Nat := (0, 0)
  lostAt : List Fine := []
  eccAt : List Fine := []
  executions : Nat := 0
  busyNs : Nat := 0
  peakNs : Nat := 0
  tickNs : Nat := 0
  reruns : Nat := 0
  votesLost : Nat := 0
  eccCorr : Nat := 0
  eccUncorr : Nat := 0
  lateRecords : Nat := 0
  /-- An uncorrectable word that the next execution meets (R28). -/
  bad : Bool := false
  deriving DecidableEq, Repr

/-- The tracker values of the tick input image (R177). -/
structure TrkImage where
  angle : U32 := 0
  freq : Fp := 0
  rocof : Fp := 0
  ampl : Fp := 0
  state : Nat := 0
  q : Quality := 1
  deriving DecidableEq, Repr

/-- The tick input image (R177). -/
structure Image where
  tick : Nat × Nat := (0, 0)
  t : Fine := 0
  goose : Table (U32 × Quality) := []
  /-- Dual binary inputs, single inputs and logic flags, as masks. -/
  bi : Nat := 0
  si : Nat := 0
  flags : Nat := 0
  trk : Table TrkImage := []
  results : Table ResultRec := []
  deriving DecidableEq, Repr

/-- A GOOSE control block (R199). `t` is in ns of working time, values as last sent and as at the last state change. -/
structure GooseCb where
  stNum : U32 := 0
  sqNum : U32 := 0
  t : Fine := 0
  vals : List GooseVal := []
  sent : List GooseVal := []
  syncLost : Bool := false
  next : Option Fine := none
  interval : Nat := 0
  running : Bool := false
  deriving DecidableEq, Repr

/-- A data frame being collected (R200): reporting tick and instant, when its first block came, and the blocks by instance. -/
structure C37Frame where
  tick : Nat × Nat
  t : Fine
  firstAt : Fine
  blocks : Table ResultRec := []
  deriving DecidableEq, Repr

/-- A C37.118.2 stream (R200, R202). -/
structure C37 where
  on : Bool := false
  frames : List C37Frame := []
  /-- The last reporting instant sent. -/
  last : Option (Nat × Nat) := none
  changedAt : Option Fine := none
  ignored : Nat := 0
  deriving DecidableEq, Repr

/-- The engines, the Gather and publication. -/
structure Engines where
  engines : Table Engine := []
  insts : Table Inst := []
  landed : List Landed := []
  images : List Image := []
  results : Table ResultRec := []
  goose : Table GooseCb := []
  c37 : Table C37 := []
  /-- Clusters and instances with an uncorrectable word that the next execution or load there meets (R28, R180). -/
  badCluster : List (Nat × Nat) := []
  deriving DecidableEq, Repr

end Sys2Proof.Machine
end

