-- ==== Sys2Proof/Machine/State/Event.lean ====
section
/-!
DEFINITION. State of the event system, telemetry and the record store (R389 to R412).
-/
namespace Sys2Proof.Machine

/-- Event classes (R389), in the order of their codes. -/
inductive EClass where
  | alarm
  | trip
  | state
  | log
  deriving DecidableEq, Repr

/-- The code of a class in ECLASS. -/
def EClass.code : EClass → Nat
  | .alarm => 0
  | .trip => 1
  | .state => 2
  | .log => 3

/-- An event as a block raises it: code, class, whether it clears, source, instant and 12 payload bytes (R389, R392).
`oneShot` tells an alarm of a single occurrence (O) from one that is cleared (C). -/
structure Ev where
  code : Nat
  cls : EClass
  clear : Bool := false
  oneShot : Bool := true
  src : Nat
  t : Fine
  payload : Bytes := []
  deriving DecidableEq, Repr

/-- An entry of the event queue (R389, R397). `origin` is the ORIGIN byte. -/
structure QEntry where
  seq : U32
  ev : Ev
  origin : Nat
  /-- Instant at which the entry was queued. -/
  at_ : Fine
  acked : Bool := false
  written : Bool := false
  sent : Bool := false
  /-- The entry has been written to the PCIe event ring. -/
  ringed : Bool := false
  deriving DecidableEq, Repr

/-- A token bucket of LOG events (R394), with its count of limited events and their first and last T. -/
structure Bucket where
  /-- Tokens in units of 2^-16 * 10^-9 of a token, and the instant they were counted at. -/
  tokens : Nat
  at_ : Fine
  count : Nat := 0
  first : Fine := 0
  last : Fine := 0
  deriving DecidableEq, Repr

/-- An entry of the alarm table (R396). `raised` lists the sources raised and not cleared. -/
structure Alarm where
  code : Nat
  src : Nat
  raised : List Nat := []
  /-- The entry takes the occurrences of several sources (SOURCE 0xFFFF). -/
  multi : Bool := false
  unack : Bool := false
  count : Nat := 0
  first : Nat := 0
  last : Nat := 0
  /-- Occurrences counted while the queue was full, with their first and last T (R395). -/
  lost : Nat := 0
  lostFirst : Fine := 0
  lostLast : Fine := 0
  deriving DecidableEq, Repr

/-- What the queue owes after an overflow (R395). -/
structure Overflow where
  lost : Nat
  first : Fine
  last : Fine
  /-- EV_EVENT_OVF has been queued; the summaries follow. -/
  told : Bool := false
  deriving DecidableEq, Repr

/-- The event system. -/
structure EventSys where
  /-- Events raised by the command in progress and not yet handed to the capture unit; empty between commands. -/
  raised : List Ev := []
  queue : List QEntry := []
  nextSeq : U32 := 1
  overflow : Option Overflow := none
  lost : Nat := 0
  buckets : Table Bucket := []
  /-- Per block: events in its FIFO, as at the instant `fifoAt` (R393). -/
  fifo : Table Nat := []
  fifoAt : Fine := 0
  alarms : List Alarm := []
  -- PCIe event ring (R400)
  prod : U32 := 0
  lastAck : U32 := 0
  /-- The last batch failed at this instant and is to be written again. -/
  retry : Option Fine := none
  -- telemetry (R401, R402)
  dseq : U32 := 0
  /-- TRACE items waiting: ITYPE, body, instant produced. -/
  items : List (Nat × Bytes × Fine) := []
  /-- Items lost per ITYPE: count, first, last. -/
  lostItems : Table (Nat × Nat × Nat) := []
  /-- Millisecond in which telemetry was last sent, and second in which status blocks were last produced. -/
  telMs : Option Nat := none
  statusSec : Option Nat := none
  deriving DecidableEq, Repr

/-- A row of a disturbance record (R410): its tick, digital bits, and per analogue channel the history entry, once it is there. -/
structure DrecRow where
  tick : Nat × Nat
  digs : Nat
  anas : List (Option (Int × Quality))
  deriving DecidableEq, Repr

/-- A record in DDR (R405 to R411). -/
structure Record where
  num : Nat
  archive : Bool
  source : Nat
  /-- 0 writing, 1 complete, 2 truncated. -/
  state : Nat := 0
  protect : Bool := false
  tTrig : Fine
  trigCh : Nat := 0
  cfgGen : U32 := 0
  /-- The DREC record and the lattice rate at the trigger, and per analogue channel KIND and SCALE. -/
  cfg : Bytes := []
  rate : Nat := 0
  kinds : List (Nat × Fp) := []
  rows : List DrecRow := []
  events : List Bytes := []
  /-- The buffer of a segment archive, and how much of it has been copied. -/
  data : Bytes := []
  copied : Nat := 0
  utc : Int := 37
  tmq : Nat := 0
  /-- The span whose events are copied, and whether the writer still copies them. -/
  spanFrom : Fine := 0
  endAt : Fine := 0
  copying : Bool := true
  deriving DecidableEq, Repr

/-- A disturbance recorder (R406). -/
structure Recorder where
  /-- Pre-trigger rows, newest first. -/
  ring : List DrecRow := []
  /-- The record that takes rows and its first trigger. -/
  openRec : Option (Nat × Fine) := none
  ignored : Nat := 0
  deriving DecidableEq, Repr

/-- The record store. -/
structure RecordStore where
  /-- DDR is fitted on the carrier, and its size in MB. -/
  ddr : Bool := true
  ddrMb : Nat := 65536
  records : List Record := []
  nextNum : Nat := 1
  missed : Nat := 0
  overwritten : Nat := 0
  recorders : Table Recorder := []
  /-- Fires of acquisition groups that recorders have yet to look at (R406). -/
  fires : List (Nat × Fine) := []
  /-- Segments waiting to be archived: group and segment; the record that the first is being copied into. -/
  archiveQ : List (Nat × Nat) := []
  archiving : Option Nat := none
  deriving DecidableEq, Repr

end Sys2Proof.Machine
end

