-- ==== Sys2Proof/Machine/State/Host.lean ====
section
/-!
DEFINITION. State of the Gaffer and of the mailbox interface (R39 to R79): commands as parsed, operations in flight,
completions, mailboxes, the configuration transaction and the placement.
-/
namespace Sys2Proof.Machine

/-- The operating modes (R30). -/
inductive Mode where
  | boot
  | commission
  | service
  | standby
  | test
  | safeHold
  deriving DecidableEq, Repr

/-- The code of a mode in DEV_MODE (R30). -/
def Mode.code : Mode → Nat
  | .boot => 1
  | .commission => 2
  | .service => 3
  | .standby => 4
  | .test => 5
  | .safeHold => 6

/-- The mode of a code. -/
def Mode.ofCode : Nat → Option Mode
  | 1 => some .boot
  | 2 => some .commission
  | 3 => some .service
  | 4 => some .standby
  | 5 => some .test
  | 6 => some .safeHold
  | _ => none

/-- The result codes (R60), in the order of their codes. -/
inductive Result where
  | ok
  | busy
  | badOpcode
  | badLength
  | badField
  | wrongMode
  | notNegotiated
  | noResource
  | placementRefused
  | authFail
  | timeout
  deriving DecidableEq, Repr

/-- The code of a result (R60). -/
def Result.code : Result → Nat
  | .ok => 0
  | .busy => 1
  | .badOpcode => 2
  | .badLength => 3
  | .badField => 4
  | .wrongMode => 5
  | .notNegotiated => 6
  | .noResource => 7
  | .placementRefused => 8
  | .authFail => 9
  | .timeout => 10

/-- A mailbox command after its opcode and length have been read (R49, R65). -/
inductive HostCmd where
  | hello (drv : BitVec 128) (maj min : U16) (rsv : U32)
  | featuresCommit (req : BitVec 128)
  | modeSet (mode mflags : Byte) (rsv : U16)
  | statusGet
  | configBegin (baseGen tflags : U32)
  | staging (opcode : Nat) (env : Envelope)
  | configCommit (txn rsv : U32)
  | configAbort (txn rsv : U32)
  | settingsRead (inst : U16) (source rsv : Byte) (buf : BufDesc)
  | place (txn pflags : U32)
  | placementGet (source select : Byte) (first count rsv : U16) (buf : BufDesc)
  | acqArm (op : Byte) (group : Byte) (rsv : U16) (tArm : U64) (buf : Option BufDesc)
  | segmentRead (group seg : U16) (rflags : U32) (buf : BufDesc)
  | convSetpoint (kind : Byte) (a : SetPointArgs)
  | traceConfigure (op : Byte) (a : TraceArgs)
  | traceRead (first count : U32) (chMask rflags : U16) (rsv : U32) (buf : BufDesc)
  | valveSleep (lanes rsv : U32)
  | valveWake (lanes : U32) (wId wIdMask : U16) (wData wDataMask : U32)
  | logicRun (tasks start : Byte) (rsv : U16)
  | logicStop (tasks start : Byte) (rsv : U16)
  | timeIncrementWrite (domain : Byte) (rsv : BitVec 56) (inc : U64)
  | timeStep (domain smode : Byte) (rsv : BitVec 48) (value : U64) (frac : U16) (rsv2 : BitVec 48)
  | eventAck (ackSeq aflags : U32) (buf : BufDesc)
  | recordList (first : U32) (kinds rsv : Byte) (count : U16) (buf : BufDesc)
  | recordRead (record : U32) (format file : Byte) (rdflags : U16) (offset : U64) (buf : BufDesc)
  | pairRevert (op : Byte) (rsv : BitVec 24)
  | calWrite (nItems cflags : U16) (rsv : U32) (entries : Bytes)
  | calRead (item obj : U16) (rsv : U32) (buf : BufDesc)
  | fwUpdate (op : Byte) (rsv : BitVec 24) (offset : U32) (buf : BufDesc) (img : Bytes)
  | badLength (opcode need : Nat)
  | unknown (opcode : Nat)
  deriving DecidableEq, Repr

/-- What an operation in flight waits for. -/
inductive Wait where
  /-- Its turn to start (R58). -/
  | turn
  /-- A mode taking effect (R66). -/
  | mode
  /-- The commit of a configuration bank and its effect tick (R77). -/
  | commit
  /-- A calibration bank and its effect tick (R465). -/
  | cal
  /-- A background placement with its outcome, the placement it made and whether it is a dry run (R265). -/
  | placing (r : Result) (detail : Nat) (data : Bytes) (p : Option Placement) (dry : Bool)
  /-- An increment or a step taking effect (R87). -/
  | increment (dom : Dom)
  /-- The arm instant of a group (R170). -/
  | arm (group : Nat)
  /-- The forced segment of SKEW_MEASURE (R163). -/
  | skew (group : Nat)
  /-- A flash write, erase or verification (R457). -/
  | flash
  /-- A host-memory access begun at this working time (R52). -/
  | host (since : Fine)
  /-- The matrix boundary at which a DEBLOCK is decided (R289). -/
  | deblock (conv : Nat)
  /-- The outer cycle of effect of a set-point (R286). -/
  | setpoint (conv qty : Nat)
  /-- A matrix boundary at which lanes are released or selected (R328, R329). -/
  | valve (wake : Bool) (lanes : Nat)
  /-- The starts or ends of logic cycles (R363, R364). -/
  | logic (tasks : Nat) (run : Bool)
  /-- A response of the partner or the arbiter (R430). -/
  | pair
  deriving DecidableEq, Repr

/-- A completion entry (R55), with the NOTIFY bit of its command and the data an MOE completion carries with it (R71). -/
structure Completion where
  tag : U16
  opcode : Nat
  result : Nat
  cflags : Nat
  detail : Nat
  data : Bytes
  tDone : Nat
  notify : Bool
  extra : Bytes := []
  /-- The reset of R66 or R457 begins 100 µs after the entry is written. -/
  boot : Bool := false
  deriving DecidableEq, Repr

/-- An operation in flight (R53). -/
structure Op where
  seq : Nat
  h : CmdHead
  cmd : HostCmd
  wait : Wait := .turn
  started : Bool := false
  /-- Its completion, decided but not yet written: it waits behind an earlier operation on the same object (R58). -/
  outcome : Option Completion := none
  moeSeq : U32 := 0
  moeSrc : BitVec 128 := 0
  /-- Working time at which the command was parsed. -/
  at_ : Fine := 0
  deriving DecidableEq, Repr

/-- A mailbox: its doorbell block, command half and response ring (R46, R47, R55 to R57, R71). -/
structure Mailbox where
  busy : Bool := false
  bytes : Nat := 0
  half : Mem := []
  ring : Table Completion := []
  prod : U32 := 0
  cons : U32 := 0
  held : List Completion := []
  badbell : Nat := 0
  dropwr : Nat := 0
  kept : List Completion := []
  deriving DecidableEq, Repr

/-- A record staged in a transaction: `body` is none for a delete (R72). -/
structure Staged where
  rtype : Nat
  obj : Nat
  body : Option Bytes
  deriving DecidableEq, Repr

/-- The open configuration transaction (R74 to R76). -/
structure Txn where
  id : U32
  mb : Fin 16
  path : Path
  base : U32
  fromEmpty : Bool
  staged : List Staged := []
  placed : Option Placement := none
  last : Fine := 0
  committing : Bool := false
  deriving DecidableEq, Repr

/-- A commit whose bank is being written or waits to apply (R77). -/
structure Commit where
  recs : List Rec
  place : Placement
  gen : U32
  features : BitVec 128
  changed : List (Nat × Nat)
  /-- Working time of the commit marker, once written. -/
  marker : Option Fine := none
  txn : Option U32
  /-- Start of the effect tick, once it is known (R77, R435). -/
  effect : Option Fine := none
  /-- A bank of a cascade member, received from the master (R435). -/
  cascade : Bool := false
  /-- A master waits until every member has reported its marker (R435). -/
  master : Bool := false
  deriving DecidableEq, Repr

/-- The causes of SAFE_HOLD (R43). -/
inductive SafeCause where
  | none
  | power
  | modeSet
  | lockstep
  | gafferEcc
  | selfTest
  | noImage
  deriving DecidableEq, Repr

/-- The code of a cause in DEV_STATUS.SAFE_CAUSE (R43). -/
def SafeCause.code : SafeCause → Nat
  | .none => 0
  | .power => 1
  | .modeSet => 2
  | .lockstep => 3
  | .gafferEcc => 4
  | .selfTest => 5
  | .noImage => 6

/-- The rank of a cause where several coincide (R495). -/
def SafeCause.rank : SafeCause → Nat
  | .gafferEcc => 4
  | .lockstep => 3
  | .power => 2
  | .modeSet => 1
  | _ => 0

/-- Who asked for the mode that is pending (R36). -/
inductive ModeBy where
  | safe (c : SafeCause)
  | arbiter
  | host
  | recover
  | boot
  deriving DecidableEq, Repr

/-- A mode change accepted and not yet in effect (R34). -/
structure PendMode where
  mode : Mode
  by_ : ModeBy
  at_ : Fine
  /-- The tick is set when the arbiter gives a role (R417: CANDIDATE). -/
  waits : Bool := false
  deriving DecidableEq, Repr

/-- The Gaffer. -/
structure Gaffer where
  mode : Mode := .boot
  pend : Option PendMode := none
  /-- T64 of the tick at which the mode took effect (R66). -/
  since : Nat := 0
  prevMode : Mode := .commission
  powerDriven : Bool := false
  safeCause : SafeCause := .none
  /-- The ROM serves the mailbox in its own SAFE_HOLD (R453). -/
  romHold : Bool := false
  fwReady : Bool := false
  image : Bool := false
  fwVer : U32 := 0
  alive : U32 := 0
  irqStatus : BitVec 18 := 0
  irqMask : BitVec 18 := 0x3FFFF
  /-- The MSI-X table of R42, by byte offset; reset contents 0 (log entry 10). -/
  msix : Mem := []
  committed : BitVec 128 := 0
  session : Bool := false
  ops : List Op := []
  opSeq : Nat := 0
  txn : Option Txn := none
  /-- Transactions aborted for idleness, with the instant of their last command (R76). -/
  txnTimedOut : List (U32 × Fine) := []
  nextTxn : U32 := 1
  commit : Option Commit := none
  /-- The placement of the last dry run, until it is read (R265). -/
  dryRun : Option Placement := none
  bootAt : Option Fine := none
  lastRead : U32 := 0
  deriving DecidableEq, Repr

end Sys2Proof.Machine
end

