-- ==== Sys2Proof/Machine/State/Ingest.lean ====
section
/-!
DEFINITION. State of SV ingest (R119 to R137) and of the acquisition block (R138 to R171).
-/
namespace Sys2Proof.Machine

/-- The states of a stream table entry (R126), in the order of their codes in R136. -/
inductive StrState where
  | unseen
  | acquiring
  | valid
  | lost
  | confMismatch
  deriving DecidableEq, Repr

/-- The code of a stream state (R136). -/
def StrState.code : StrState → Nat
  | .unseen => 0
  | .acquiring => 1
  | .valid => 2
  | .lost => 3
  | .confMismatch => 4

/-- An entry of a history ring (R124): tick, count after POLARITY, quality. -/
structure Sample where
  tick : Nat × Nat
  value : Int
  q : Quality
  deriving DecidableEq, Repr

/-- A sample received and not yet frozen: second, smpCnt and, per channel index, value and quality. -/
structure RxSample where
  sec : Nat
  cnt : Nat
  vals : List (Int × Quality)
  deriving DecidableEq, Repr

/-- An entry of the stream table (R126, R136). -/
structure Stream where
  state : StrState := .unseen
  src : Option (BitVec 48) := none
  port : Nat := 0
  /-- confRev in use; 0 stands for the CONFREV of the record. -/
  confRev : Nat := 0
  candidate : Option Nat := none
  /-- confRev and last smpCnt of the frame that counts as first (R127). -/
  first : Option (Nat × Nat) := none
  rx : List RxSample := []
  /-- Consecutive ticks frozen without a sample in time (R126), and consecutive substituted ticks (R132). -/
  lostTicks : Nat := 0
  substTicks : Nat := 0
  /-- The last tick frozen: second and tick. -/
  frozen : Option (Nat × Nat) := none
  /-- Ticks beyond the last that are frozen already. -/
  ahead : List (Nat × Nat) := []
  sim : Bool := false
  /-- The next entry to VALID is told with cause 4 (R127). -/
  tell4 : Bool := false
  lastArrival : Fine := 0
  lastCnt : Nat := 0
  frames : Nat := 0
  missing : Nat := 0
  tooLate : Nat := 0
  duplicate : Nat := 0
  late : Nat := 0
  formatErr : Nat := 0
  portErr : Nat := 0
  srcConflict : Nat := 0
  simDiscard : Nat := 0
  confRevErr : Nat := 0
  deriving DecidableEq, Repr

/-- SV ingest: the stream table and one history ring per SV channel, newest entry first. -/
structure SvIngest where
  streams : Table Stream := []
  rings : Table (List Sample) := []
  deriving DecidableEq, Repr

/-- The states of a JESD204C link (R140). -/
inductive LinkState where
  | down
  | shLock
  | embLock
  | data
  deriving DecidableEq, Repr

/-- A JESD204C link (R140 to R143, R164). Per physical lane: run of good sync headers, the last 64 headers, runs of good
and bad markers, run of markers good only after inversion, inversion in force. -/
structure Link where
  state : LinkState := .down
  goodHdr : List Nat := [0, 0, 0, 0]
  lastHdr : List (List Bool) := [[], [], [], []]
  goodEmb : List Nat := [0, 0, 0, 0]
  badEmb : List Nat := [0, 0, 0, 0]
  invEmb : List Nat := [0, 0, 0, 0]
  polRev : List Bool := [false, false, false, false]
  crcErr : Nat := 0
  sysrefErr : Nat := 0
  /-- Stamps of the valid SYSREF edges without a break, newest first, at most 17. -/
  edges : List Fine := []
  /-- The last edge, measured or extrapolated. -/
  lastEdge : Option Fine := none
  goodEdges : Nat := 0
  /-- SKEWCAL of R143 is in force. -/
  extrap : Bool := true
  /-- The last measured length of 16 SYSREF periods; 0 before one has been measured. -/
  span : Nat := 0
  /-- Number of the next input sample, counted from the extended multiblock of the edge `base`. -/
  base : Fine := 0
  n : Nat := 0
  /-- Last Lehr measurement of the link: phase in 2^-16 ns and instant; whether it has become older than 60 s. -/
  lehr : Option (Int × Fine) := none
  stale : Bool := false
  deriving DecidableEq, Repr

/-- One channel output (R144 to R149): instant, INT32 value in Q16 counts, quality. -/
structure AqOut where
  t : Fine
  x : Int
  q : Quality
  deriving DecidableEq, Repr

/-- An acquisition channel: filter chain, outputs waiting for their store instant, recent outputs (newest first) and
detector states (R144 to R150). -/
structure Chan where
  /-- Last values of the moving sum, newest first. -/
  delay : List Int := []
  /-- Per quality flag, the inputs since one last carried it. -/
  qAges : Table Nat := []
  integ : List Int := []
  comb : List Int := []
  phase : Nat := 0
  /-- Outputs that still carry SETTLE, and a change that starts it: from this input instant, with its cause. -/
  settle : Nat := 0
  pendSettle : Option (Fine × Nat) := none
  envSettle : Nat := 0
  /-- Inputs since the link entered DATA, until the SETTLE of that entry has started (R149). -/
  sinceData : Option Nat := none
  /-- A filter change clears the chain at the first input at or after this instant (R146). -/
  clearAt : Option Fine := none
  /-- Outputs with the instants at which they are stored, oldest first; outputs stored, newest first. -/
  waiting : List (Fine × AqOut) := []
  recent : List AqOut := []
  outCount : Nat := 0
  -- peak detector
  pkN : Nat := 0
  pkMax : Int := 0
  pkMin : Int := 0
  pkTMax : Fine := 0
  pkTMin : Fine := 0
  pkQ : Quality := 0
  -- RMS detector
  rmsN : Nat := 0
  rmsSum : Nat := 0
  rmsQ : Quality := 0
  rms : Option (Fp × Fine × Quality) := none
  env : Int := 0
  envQ : Quality := 0
  /-- Lehr phase of the link at the last CAL_WRITE of the channel (R164). -/
  calPhase : Option Int := none
  deriving DecidableEq, Repr

/-- A trigger (R151): its PRIMED bits, the last values of its source, newest first, and a crossing that waits for one more
output (R165): whether rising, and the bound crossed. -/
structure Trig where
  up : Bool := false
  down : Bool := false
  hist : List AqOut := []
  pend : Option (Bool × Int) := none
  deriving DecidableEq, Repr

/-- The states of a group (R157). -/
inductive GrpState where
  | idle
  | parison
  | post
  | rearm
  | full
  deriving DecidableEq, Repr

/-- The arm modes of R157. -/
inductive ArmMode where
  | none
  | cont
  | single
  deriving DecidableEq, Repr

/-- Measurements of one channel of a segment (R162). -/
structure SegMeas where
  mqual : Quality := 0
  base : Int := 0
  ampl : Int := 0
  peak : Int := 0
  peakIndex : Nat := 0
  rise : Fp := 0
  period : Fp := 0
  arrival : Option Fine := none
  deriving DecidableEq, Repr

/-- The states of a segment. -/
inductive SegState where
  | free
  | open_
  | closed
  deriving DecidableEq, Repr

/-- A segment (R156, R158, R171): samples per channel, oldest first. -/
structure Segment where
  state : SegState := .free
  seq : Nat := 0
  tTrig : Fine := 0
  cause : Nat := 0
  originCd : Nat := 0
  causeMask : Nat := 0
  chans : List Nat := []
  retrig : Nat := 0
  preValid : Nat := 0
  post : Nat := 0
  tFirst : Fine := 0
  qual : Quality := 0
  tOut : Nat := 0
  /-- Values of each channel, and the OR of the quality words of each block of 64 samples (R156). -/
  data : Table (List Int) := []
  blockQ : Table (List Quality) := []
  meas : Table SegMeas := []
  measured : Bool := false
  /-- Archived to DDR so far, and being copied. -/
  copying : Bool := false
  /-- FLOC_TW instances that still have to execute on it (R240). -/
  waits : List Nat := []
  closedAt : Fine := 0
  deriving DecidableEq, Repr

/-- A fire of a group: stamp, trigger, device and mask of triggers with that stamp (R154, R168). -/
structure Fire where
  t : Fine
  cause : Nat
  origin : Nat := 0
  mask : Nat := 0
  deriving DecidableEq, Repr

/-- A channel group (R155 to R168). -/
structure Group where
  state : GrpState := .idle
  mode : ArmMode := .none
  /-- Arm mode before shedding or SAFE_HOLD (R161). -/
  shedMode : ArmMode := .none
  cur : Option Nat := none
  /-- Outputs since the segment was taken, per channel, newest first. -/
  ring : Table (List AqOut) := []
  /-- The deciding fire, once there is one. -/
  fire : Option Fire := none
  retrig : Nat := 0
  latched : Option Fire := none
  /-- End of the 300 ns window of R168. -/
  hold : Option Fine := none
  /-- A DISARM received in POST. -/
  disarm : Bool := false
  /-- Cascade operations that wait for their instant: OP, instant, sequence number (R167). -/
  pendArm : List (Nat × Fine × Nat) := []
  armSeq : Nat := 0
  seq : Nat := 0
  overwrite : Nat := 0
  missed : Nat := 0
  segs : Table Segment := []
  /-- Instant of the last post-trigger sample of the segment closed last. -/
  lastPost : Fine := 0
  /-- Operation of a skew measurement in progress (R163). -/
  skew : Option Nat := none
  /-- Geometry and channels of the segment being filled (R160). -/
  pre : Nat := 0
  post : Nat := 0
  chans : List Nat := []
  deriving DecidableEq, Repr

/-- The acquisition block. -/
structure Acq where
  links : Table Link := []
  chans : Table Chan := []
  trigs : Table Trig := []
  groups : Table Group := []
  deriving DecidableEq, Repr

end Sys2Proof.Machine
end

