-- ==== Sys2Proof/Machine/State/Logic.lean ====
section
/-!
DEFINITION. State of the logic engine, remote I/O and field I/O (R331 to R364).
-/
namespace Sys2Proof.Machine

/-- How a task starts: cold, warm, or after a change of its program with its RETAIN regions kept (R341, R348). -/
inductive StartKind where
  | cold
  | warm
  | reload
  deriving DecidableEq, Repr

/-- A logic task (R331 to R348). -/
structure Task where
  running : Bool := false
  /-- A start accepted and not yet made, and a stop accepted. -/
  pendStart : Option StartKind := none
  pendStop : Bool := false
  /-- It was stopped by shedding stage 4 and restarts on recovery (R339). -/
  shed : Bool := false
  outBits : Table Bool := []
  outWords : Table U32 := []
  localBits : Table Bool := []
  localWords : Table U32 := []
  retBits : Table Bool := []
  retWords : Table U32 := []
  /-- Edge, timer and counter state by instruction position (R345). -/
  owned : Table Owned := []
  /-- The execution is the first after a cold start (R346). -/
  firstCold : Bool := false
  /-- Frozen input image of the cycle (R333). -/
  inBits : Table Bool := []
  inWords : Table U32 := []
  flags : Nat := 0
  /-- First tick of the present cycle. -/
  cycle : Option (Nat × Nat) := none
  /-- Retained state at the cycle start (R337). -/
  retained : Retained := { }
  /-- A fault stopped the execution of this cycle at this word. -/
  faultWord : Option Nat := none
  /-- Outputs go to their safe values at the cycle end. -/
  safeDue : Bool := false
  deriving DecidableEq, Repr

/-- The states of a GOOSE subscription (R350). -/
inductive SubState where
  | idle
  | valid
  | expired
  | mismatch
  deriving DecidableEq, Repr

/-- A GOOSE subscription (R349, R350). -/
structure Sub where
  state : SubState := .idle
  last : Option (U32 × U32) := none
  expiry : Fine := 0
  notSync : Bool := false
  /-- Entries of the last accepted frame. -/
  entries : List GooseVal := []
  accepted : Nat := 0
  mismatch : Nat := 0
  repeats : Nat := 0
  simDiscard : Nat := 0
  deriving DecidableEq, Repr

/-- A ball of the field I/O under the filter of R355: level, tick since which it holds, channel state. -/
structure InBall where
  level : Bool := false
  since : Nat := 0
  state : Bool := false
  deriving DecidableEq, Repr

/-- A dual binary input (R356): first tick of a disagreement. -/
structure DualIn where
  first : Option Nat := none
  latched : Bool := false
  value : Bool := false
  deriving DecidableEq, Repr

/-- A binary output (R359, R360): what its logic output asks for, its commanded state and since when, the readbacks, the
instants since which a check has failed, the fault, a test pulse and whether the readback has followed it, the next pulse. -/
structure BinOut where
  logic : Bool := false
  cmd : Bool := false
  cmdAt : Fine := 0
  fb : Bool := false
  ls : Bool := false
  misAt : Option Fine := none
  openAt : Option Fine := none
  fault : Nat := 0
  pulseAt : Option Fine := none
  pulseOk : Bool := false
  pulseNext : Fine := 0
  deriving DecidableEq, Repr

/-- The logic engine and remote I/O. -/
structure LogicEngine where
  tasks : Table Task := []
  /-- Flags 0 to 191 as tasks write them. -/
  flags : Nat := 0
  /-- Marver firings to flags 192 to 255: flag and stamp, newest first (R353). -/
  marver : List (Nat × Fine) := []
  subs : Table Sub := []
  /-- Logic GOOSE member values by control block × 128 + member. -/
  goose : Table GooseVal := []
  /-- Tasks with an uncorrectable word of the logic and mirror region (R28). -/
  bad : List Nat := []
  deriving DecidableEq, Repr

/-- The field I/O: balls 0 to 31 are BIn_A, 32 to 63 BIn_B, 64 to 87 SIn. -/
structure FieldIo where
  balls : Table InBall := []
  duals : Table DualIn := []
  outs : Table BinOut := []
  deriving DecidableEq, Repr

end Sys2Proof.Machine
end

