-- ==== Sys2Proof/Machine/State/Network.lean ====
section
/-!
DEFINITION. State of the Ethernet ports and the switch core (R365 to R388).
-/
namespace Sys2Proof.Machine

/-- A copy of a frame in a queue of a port (R372 to R375). `id` names the frame in the buffer; `ready` is when it may start at the
earliest; `stamp` holds identifier and time base where an egress stamp is asked for (R95, R96), `rx` the ingress stamp of a PTP event
message (R94), `launch` the launch time (R99); `late` marks a copy that LT_LATE lets go late, `deferred` one counted as deferred. -/
structure QFrame where
  id : Nat
  frame : EthFrame
  cls : Nat
  cells : Nat
  arrived : Fine
  ready : Fine
  stamp : Option (U16 × Fin 3) := none
  rx : Option Fine := none
  launch : Option Fine := none
  late : Bool := false
  deferred : Bool := false
  deriving DecidableEq, Repr

/-- A token bucket in bytes times 65,536 * 10^9, and the instant it was counted at (R376). -/
structure Tokens where
  level : Int
  at_ : Fine
  deriving DecidableEq, Repr

/-- An Ethernet port. -/
structure Port where
  up : Bool := false
  /-- PHY type in use, coded as MODE (R388). -/
  mode : Nat := 0
  polRev : Bool := false
  downshifted : Bool := false
  downAt : Fine := 0
  shed : Bool := false
  queues : Table (List QFrame) := []
  launch : Table (List QFrame) := []
  deficit : Table Nat := []
  wrrNext : Nat := 0
  buckets : Table Tokens := []
  pauseUntil : Option Fine := none
  lpiTx : Bool := false
  wakeAt : Option Fine := none
  emptySince : Fine := 0
  tw : Nat := 0
  busyUntil : Fine := 0
  /-- The frame in transmission, whose cells the port still holds. -/
  sending : Option Nat := none
  deferSec : Option Nat := none
  lldpAt : Fine := 0
  rxFrames : Nat := 0
  txFrames : Nat := 0
  fcsErr : Nat := 0
  policeDrop : Nat := 0
  bufDrop : Nat := 0
  qDrop : Nat := 0
  mcLagDrop : Nat := 0
  defer_ : Nat := 0
  ctBad : Nat := 0
  pauseRx : Nat := 0
  downDrop : Nat := 0
  ddDiscard : Nat := 0
  vlanDrop : Nat := 0
  ptpDiscard : Nat := 0
  deriving DecidableEq, Repr

/-- A learned entry of the MAC table (R370, R371). -/
structure MacEntry where
  bucket : Nat
  vid : Nat
  mac : BitVec 48
  port : Nat
  sec : Nat
  deriving DecidableEq, Repr

/-- A residue copy waiting for a port (R375). -/
structure Residue where
  port : Nat
  q : QFrame
  deriving DecidableEq, Repr

/-- An entry of the duplicate table of a redundancy pair (R383). -/
structure DupEntry where
  src : BitVec 48
  seq : U16
  at_ : Fine
  deriving DecidableEq, Repr

/-- A redundancy pair (R383). -/
structure RedPair where
  dups : List DupEntry := []
  /-- Proxy nodes with their sequence counters, and nodes heard with the instant last heard. -/
  proxies : List (BitVec 48 × U16) := []
  nodes : List (BitVec 48 × Fine) := []
  lifeAt : Fine := 0
  deriving DecidableEq, Repr

/-- The switch core. -/
structure Net where
  ports : Table Port := []
  macs : List MacEntry := []
  /-- Frames in the buffer: cells, class and copies outstanding (R372). -/
  frames : Table (Nat × Nat × Nat) := []
  nextId : Nat := 0
  residue : List Residue := []
  /-- Cells that are neither FREE nor OWNED and are marked suspect (R384). -/
  suspect : List Nat := []
  cellsPeak : Nat := 0
  pairs : Table RedPair := []
  learnFull : Nat := 0
  moves : Nat := 0
  svNomatch : Nat := 0
  gooseNomatch : Nat := 0
  moeReject : Nat := 0
  culletReclaim : Nat := 0
  eccDrop : Nat := 0
  ddFull : Nat := 0
  mgmtPolice : Nat := 0
  /-- Frame numbers whose cells hold an uncorrectable word (R28). -/
  bad : List Nat := []
  deriving DecidableEq, Repr

end Sys2Proof.Machine
end

