-- ==== Sys2Proof/Machine/State/Output.lean ====
section
/-!
DEFINITION. What the block drives onto its links, lanes, vectors and pins during one command (log entry 9).
-/
namespace Sys2Proof.Machine

/-- A CS frame (R302), less TYPE, VER, LANE, HOP and CRC. -/
structure CsFrame where
  epoch : Nat
  second : Nat
  bcycle : Nat
  block : Bool
  sleep : Bool
  allSel : Bool
  reach : Nat
  tableId : U32
  deriving DecidableEq, Repr

/-- One thing driven out of the package. -/
inductive Output where
  /-- An MSI-X vector (R44). -/
  | msix (vector : Nat)
  /-- A frame whose transmission starts on an ETH port (R373), with the identifier under which its stamp was asked for. -/
  | ethTx (port : Nat) (f : EthFrame) (ident : Option U16)
  /-- A frame delivered to an internal port of the switch (R367). -/
  | toInternal (port : Nat) (f : EthFrame)
  /-- A GOOSE frame of a control block (R199, R351); `launch` is its launch time where it has one. -/
  | goose (cb : Nat) (stNum sqNum : U32) (t : Fine) (vals : List GooseVal) (test notSync : Bool) (launch : Option Fine)
  /-- A C37.118.2 data frame: reporting tick, UTC second, FRACSEC in µs, time quality, per block STAT and values (R200, R202). -/
  | c37Data (stream : Nat) (soc : Int) (fracsec tq : Nat) (blocks : List (Nat × List U32))
  /-- A CFG-2 frame (R200). -/
  | c37Cfg (stream : Nat)
  /-- An MOE completion batch (R71): mailbox, SEQ, address, entries. -/
  | moe (mb : Nat) (seq : U32) (dst : BitVec 128) (cs : List Completion)
  /-- A telemetry datagram (R401): ORIGIN, DSEQ, T_SENT and its items. -/
  | telemetry (origin : Nat) (dseq : U32) (tSent : Nat) (items : List (Nat × Bytes))
  /-- A PTP message sent on a port (R93). -/
  | ptp (m : PtpMsg)
  /-- A PRP or HSR supervision frame of a pair, for a node (R383). -/
  | supervision (pair : Nat) (node : BitVec 48)
  /-- Frames of a valve lane (R302 to R305). -/
  | cs (lane : Nat) (f : CsFrame)
  | command (lane pos epoch bcycle : Nat) (codes : List Nat)
  | table (lane : Nat) (tableId : U32) (owners : List Nat)
  | ack (lane : Nat) (a : PendAck)
  | wake (lane : Nat) (w : U16 × U16 × U32 × U32)
  /-- A heartbeat or an ARB frame (R417, R418). -/
  | hb (f : HbFrame)
  | arb (side : Bool) (f : ArbFrame)
  /-- Items sent on the mirror lanes (R425). -/
  | mirror (items : List MirrorItem)
  /-- Cascade frames (R434). -/
  | casStatus (f : CasStatus)
  | casFire (f : FireFrame)
  | casArm (seq : Nat) (group : Nat) (op : Nat) (tArm : Nat)
  | casConfig (dev : Nat) (f : CasConfig)
  /-- A rising edge of a pulse output (R105). -/
  | pulse (out : Nat) (t : Fine)
  /-- The egress stamp of a frame that asked for one and is no PTP event message (R98). -/
  | egressStamp (port : Nat) (s : Fine) (ident : U16)
  deriving DecidableEq, Repr

end Sys2Proof.Machine
end

