-- ==== Sys2Proof/Machine/State/Pair.lean ====
section
/-!
DEFINITION. State of the redundant pair, the arbiter function and the cascade (R413 to R438).
-/
namespace Sys2Proof.Machine

/-- The role a module holds (R418). -/
inductive Role where
  | none
  | active
  | standby
  deriving DecidableEq, Repr

/-- The pair logic of a module (R417, R422 to R430). -/
structure PairMod where
  role : Role := .none
  /-- Epoch of the last GRANT or TRANSFER. -/
  epoch : Nat := 0
  knownEpoch : Nat := 0
  arbLost : Bool := false
  arbLostAt : Fine := 0
  /-- Instant of the last valid ARB frame and of the last valid mirror frame. -/
  arbAt : Fine := 0
  mirAt : Fine := 0
  /-- Consecutive fast cycles in which a valid mirror frame arrived (R423), and the last such cycle. -/
  mirRun : Nat := 0
  mirCycle : Nat := 0
  /-- Partner identity as last received. -/
  partner : Option PairIdentity := none
  /-- Instances received in a sweep since STANDBY was entered. -/
  swept : List Nat := []
  inhibit : Bool := false
  readySince : Option Fine := none
  reqTransfer : Bool := false
  /-- HBs that still carry REV_ACK. -/
  revAck : Nat := 0
  /-- A transfer announced: epoch and instant of AT. -/
  transfer : Option (Nat × Fine) := none
  predriven : Bool := false
  /-- Basic cycle from which a granted role acts, before the mode follows (R427). -/
  activeFrom : Option Fine := none
  /-- Basic cycle at which a demotion takes place. -/
  demoteAt : Option Fine := none
  /-- CAUSE of the change of role that is under way. -/
  cause : Nat := 0
  /-- The request for the role came from PAIR_REVERT. -/
  byRevert : Bool := false
  /-- Mirrored items not yet applied. -/
  insts : Table FState := []
  converters : Table ConvState := []
  logic : Table Retained := []
  lanes : Table LaneMirror := []
  lastSeq : U32 := 0
  mirrorLock : List Bool := [false, false]
  /-- Instance states and event SEQ as last sent. -/
  sent : Table FState := []
  seqSent : U32 := 0
  badFrames : Nat := 0
  deriving DecidableEq, Repr

/-- A module as the arbiter sees it (R419, R420). -/
structure ArbSide where
  last : Option HbFrame := none
  /-- E_X: expected end of reception of the next HB. -/
  expect : Option Fine := none
  /-- End of reception of the last valid HB since the last decision. -/
  heardAt : Option Fine := none
  misses : Nat := 0
  /-- HBs seen since the announcement of a transfer, and those with REV_ACK. -/
  sinceAnn : Nat := 0
  acks : Nat := 0
  deriving DecidableEq, Repr

/-- The arbiter function (R415, R419 to R421, R428). -/
structure Arbiter where
  /-- Epoch of the active role, and the highest one issued or heard of. -/
  epoch : Nat := 1
  issued : Nat := 1
  startAt : Fine := 0
  holder : Option Bool := none
  a : ArbSide := { }
  b : ArbSide := { }
  transfer : Option (Nat × Fine) := none
  selA : Bool := false
  selB : Bool := false
  /-- The selection to assert and the instant of it (R428). -/
  selDue : Option (Bool × Fine) := none
  badFrames : Nat := 0
  deriving DecidableEq, Repr

/-- A device of the cascade as this device sees it (R434 to R437). -/
structure CasDev where
  last : Option CasStatus := none
  seenAt : Fine := 0
  offset : Int := 0
  lost : Bool := false
  deriving DecidableEq, Repr

/-- The cascade ring. -/
structure Cascade where
  devs : Table CasDev := []
  formed : Bool := false
  lock : List Bool := [false, false, false, false]
  /-- A member has written the bank of this generation and waits for the effect tick. -/
  written : Option U32 := none
  /-- A bank received while PWR_WARN holds writes back (R463). -/
  held : Option Commit := none
  deriving DecidableEq, Repr

end Sys2Proof.Machine
end

