-- ==== Sys2Proof/Machine/State/Power.lean ====
section
/-!
DEFINITION. State of the rails and shedding (R439 to R448), the store (R454 to R466) and the Lehr (R467 to R469), of the
part itself and of its pins.
-/
namespace Sys2Proof.Machine

/-- A rail monitor (R441, R442): level in mV, runs of samples beyond each threshold and on the safe side. -/
structure Rail where
  level : Nat
  runs : List Nat := [0, 0, 0, 0]
  safe : Nat := 0
  band : Nat := 0
  /-- The band 3 in force came from the overvoltage stop. -/
  overV : Bool := false
  since1 : Option Fine := none
  since2 : Option Fine := none
  -- telemetry of R469
  sum : Nat := 0
  n : Nat := 0
  min : Nat := 0
  deriving DecidableEq, Repr

/-- Power and shedding. -/
structure Power where
  rails : List Rail := [750, 850, 900, 1200, 1100, 1800, 3300].map fun n => { level := n, min := n }
  warn : Bool := false
  warnSeen : Bool := false
  stage : Nat := 0
  /-- Per stage, the monitor that holds it: a rail number or 0xFF for PWR_WARN (R446). -/
  holders : Table Nat := []
  /-- The target as last formed, and the instant since which it has stood below the stage without a rise (R446). -/
  target : Nat := 0
  below : Option Fine := none
  internalReset : Bool := false
  deriving DecidableEq, Repr

/-- What a slot of the store holds (R459, R462). -/
inductive Slot (α : Type) where
  | erased
  | interrupted (gen : Nat)
  | valid (gen : U32) (body : α)
  deriving DecidableEq, Repr

/-- The body of a configuration bank (R460). -/
structure CfgBank where
  recs : List Rec
  features : BitVec 128
  place : Placement
  deriving DecidableEq, Repr

/-- A calibration item (R464). -/
structure CalItem where
  item : Nat
  obj : Nat
  data : Bytes
  deriving DecidableEq, Repr

/-- A calibration bank being written (R461, R465): items, tag of its operation if a CAL_WRITE caused it. -/
structure CalCommit where
  items : List CalItem
  gen : U32
  op : Option Nat
  marker : Option Fine := none
  deriving DecidableEq, Repr

/-- A flash operation of FW_UPDATE in progress (R457). -/
inductive FwJob where
  | write (offset : Nat) (data : Bytes)
  | verify
  | erase
  deriving DecidableEq, Repr

/-- The nonvolatile store. -/
structure Store where
  /-- Bytes of the image slots A and B; an address not listed is erased and reads 0xFF. -/
  slotA : Mem := []
  slotB : Mem := []
  active : Bool := false
  trial : Bool := false
  /-- The reset now in progress is the one that ACTIVATE caused (R458). -/
  activateReset : Bool := false
  secVer : U32 := 0
  /-- The OTP security counter (R456, R457); kept by every reset. -/
  otpSec : U32 := 0
  verified : Bool := false
  job : Option FwJob := none
  cfg0 : Slot CfgBank := .erased
  cfg1 : Slot CfgBank := .erased
  cfgUse : Option Bool := none
  cal0 : Slot (List CalItem) := .erased
  cal1 : Slot (List CalItem) := .erased
  calUse : Option Bool := none
  items : List CalItem := []
  calGen : U32 := 0
  calCommit : Option CalCommit := none
  /-- A leap-second write held back by PWR_WARN (R463). -/
  leapOwed : Bool := false
  deriving DecidableEq, Repr

/-- The Lehr and the error counters of the SRAM regions (R28, R467 to R469). -/
structure Lehr where
  corrected : Table Nat := []
  uncorrected : Table Nat := []
  scrubPos : Nat := 0
  scrubFrom : Fine := 0
  scrubMs : Nat := 0
  ddrPos : Nat := 0
  eraseCounts : Table Nat := []
  temps : List Int := [0, 0, 0]
  /-- Hottest main-die sample since the last item, and the second in which the last item was built (R469). -/
  tempMax : Option Int := none
  itemSec : Option Nat := none
  deriving DecidableEq, Repr

/-- The latched boot straps (R43, R477). -/
structure Straps where
  redunRole : BitVec 2 := 0
  masterEn : Bool := false
  cascadeId : BitVec 2 := 0
  bootSrc : BitVec 2 := 0
  /-- TEST_EN (R477). -/
  testEn : Bool := false
  deriving DecidableEq, Repr

/-- The part and its pins. -/
structure Part where
  /-- True for XG64-L-I, false for XG64-F-I (R2). -/
  reduced : Bool := false
  serial : U64 := 0
  balls : Straps := { }
  straps : Straps := { }
  inReset : Bool := true
  /-- The reset in force is, or includes, one of PORST_N or the internal reset of R447; SYSRST_N is low. -/
  porLow : Bool := true
  sysLow : Bool := false
  perstLow : Bool := false
  pcieUp : Bool := false
  /-- The boot of R452 has reached this step: 0 none, 1 ROM, 2 firmware running, 3 complete. -/
  bootStep : Nat := 0
  selfTestOk : Bool := true
  jtagIr : BitVec 4 := 0xF
  /-- TRIG_IN balls with the instants of their last edges (R152). -/
  trigIn : List Bool := [false, false, false, false]
  trigAt : List Fine := [0, 0, 0, 0]
  deriving DecidableEq, Repr

end Sys2Proof.Machine
end

