-- ==== Sys2Proof/Machine/State/Time.lean ====
section
/-!
DEFINITION. State of the time unit, the lattice, the angle trackers and the Marver (R80 to R118).
-/
namespace Sys2Proof.Machine

/-- The states of a domain (R85), in the order of their codes in TMU_STATUS. -/
inductive DomState where
  | free
  | acquiring
  | locked
  | holdover
  deriving DecidableEq, Repr

/-- One domain clock with its servo (R81 to R86). `count` is the domain's time in 2^-32 ns. -/
structure Domain where
  count : Nat := 0
  inc : Nat := 0x100000000
  /-- A new increment and the domain time from which it takes effect (R82). -/
  pend : Option (Nat × Nat) := none
  state : DomState := .free
  /-- Consecutive offsets within LOCK_THR (R85). -/
  good : Nat := 0
  /-- Domain time, in 2^-32 ns, of the last valid reference. -/
  lastRef : Option Nat := none
  /-- Integral term of the Gaffer servo, in increment units. -/
  integ : Int := 0
  /-- Increments of the last 16 LOCKED intervals, newest first (R85). -/
  incs : List Nat := []
  /-- Domain time of entry to HOLDOVER. -/
  holdAt : Nat := 0
  /-- Domain time since which the domain has been LOCKED without a break. -/
  lockedAt : Nat := 0
  /-- LEAP_ADJ (R103). -/
  leapAdj : Int := 0
  /-- A leap second announced: its TAI second and whether it is negative. -/
  leap : Option (Nat × Bool) := none
  /-- The interval between references, in ns. -/
  interval : Nat := 1000000000
  -- TMU_MEAS (R106)
  measSeq : U32 := 0
  measOfs : Int := 0
  measDelay : U32 := 0
  measPort : Fin 16 := 0
  measTrx : U64 := 0
  deriving DecidableEq, Repr

/-- A peer delay measurement in progress (R93): its sequence number, the egress stamp of the request, the ingress stamp of the
response, the turnaround the responder reported, and its correction. `t2` is kept until the Follow_Up brings the other stamp. -/
structure Pdelay where
  seq : U16
  t1 : Option Fine := none
  t4 : Option Fine := none
  t2 : Option Fine := none
  turn : Option Int := none
  corr : Int := 0
  deriving DecidableEq, Repr

/-- PTP state of one port in one domain (R93). Instants are in the domain's own time. -/
structure PtpPort where
  /-- The best master heard: its data set, source, the instant and TLV inaccuracy of its last Announce. -/
  master : Option (PtpClock × U64) := none
  masterAt : Fine := 0
  inacc : Nat := 0
  pdelay : Option Pdelay := none
  delay : Nat := 0
  pdelaySeq : U16 := 0
  syncSeq : U16 := 0
  announceSeq : U16 := 0
  pdelayAt : Fine := 0
  syncAt : Fine := 0
  announceAt : Fine := 0
  /-- A two-step Sync whose Follow_Up is awaited: sequence number, source, ingress stamp, correction. -/
  pendingSync : Option (U16 × U64 × Fine × Int) := none
  deriving DecidableEq, Repr

/-- A sent PTP message whose egress stamp is awaited: identifier, domain, message. -/
structure AwaitStamp where
  ident : U16
  dom : Nat
  msg : PtpMsg
  deriving DecidableEq, Repr

/-- Residence of a two-step Sync that passes a transparent clock, awaited by its Follow_Up (R94): domain, source, sequence number,
egress port and residence time. -/
structure Residence where
  dom : Nat
  src : U64
  seq : U16
  port : Nat
  time : Int
  deriving DecidableEq, Repr

/-- A stamp held in a transmit time-stamp queue (R96): identifier, time base (0 A, 1 B, 2 working), stamp. -/
structure TxStamp where
  ident : U16
  base : Fin 3
  stamp : Fine
  deriving DecidableEq, Repr

/-- The transmit time-stamp queue of a port (R96, R97, R106). -/
structure Tsq where
  items : List TxStamp := []
  drops : Nat := 0
  deriving DecidableEq, Repr

/-- The 1PPS input (R102, R104). -/
structure PpsIn where
  lastW : Fine := 0
  lastA : Nat := 0
  lastB : Nat := 0
  seen : Bool := false
  good : Nat := 0
  valid : Bool := false
  longHigh : Nat := 0
  reversed : Bool := false
  deriving DecidableEq, Repr

/-- The IRIG-B input (R103, R104). -/
structure IrigIn where
  lastW : Fine := 0
  lastA : Nat := 0
  lastB : Nat := 0
  last : Option Nat := none
  valid : Bool := false
  inverted : Nat := 0
  reversed : Bool := false
  deriving DecidableEq, Repr

/-- A pulse output (R105): level, instant of the last rising edge produced, and Marver edges waiting. -/
structure PulseOut where
  last : Option Fine := none
  width : Nat := 0
  count : Nat := 0
  marver : List Fine := []
  deriving DecidableEq, Repr

/-- A snapshot of the three times (R106). -/
structure Snap where
  w : Fine := 0
  a : Fine := 0
  b : Fine := 0
  deriving DecidableEq, Repr

/-- The time unit and the lattice. -/
structure TimeUnit where
  domA : Domain := { }
  domB : Domain := { }
  /-- WORK_SRC: the domain that supplies working time. -/
  src : Dom := .a
  /-- WORK_OFFSET (R88), in units of 2^-16 ns times 10^-9. -/
  workOff : Int := 0
  /-- A commit changed PREFERRED and its switch is still owed (R91). -/
  owedSwitch : Bool := false
  /-- Working time at which synchronisation was last lost (R92, R202). -/
  syncLostAt : Option Fine := none
  snap : Snap := { }
  tsq : Table Tsq := []
  tsqOvf : U16 := 0
  pps : PpsIn := { }
  irig : IrigIn := { }
  pulses : Table PulseOut := []
  /-- By 2 * port + domain. -/
  ptp : Table PtpPort := []
  /-- By port: sent messages whose stamp is awaited, and the next identifier. -/
  await : Table (List AwaitStamp) := []
  ident : U16 := 0
  residence : List Residence := []
  /-- End of the last lattice tick produced and of the last fast cycle produced (R90): the least start a new one may have. -/
  tick : Option (Nat × Nat) := none
  fast : Option (Nat × Nat) := none
  /-- Lattice rate in use; 0 before a LATTICE record has taken effect (R110). -/
  rate : Nat := 0
  /-- A committed rate and the second it starts at (R108). -/
  rateNew : Option (Nat × Nat) := none
  deriving DecidableEq, Repr

/-- The states of an angle tracker (R114), in the order of their codes in R79. -/
inductive TrkState where
  | unlocked
  | locking
  | locked
  | coast
  deriving DecidableEq, Repr

/-- An angle tracker (R111 to R114). -/
structure Tracker where
  state : TrkState := .unlocked
  /-- Published angle A32, frequency, ROCOF, amplitude (R112). -/
  angle : U32 := 0
  freq : Fp := 0
  rocof : Fp := 0
  ampl : Fp := 0
  /-- Loop angle and instant it belongs to (tick or cycle). -/
  theta : U32 := 0
  thetaAt : Fine := 0
  /-- Loop integrator. -/
  integ : Fp := 0
  held : Fp := 0
  /-- Instant since which the LOCKING errors have been within limits. -/
  within : Option Fine := none
  /-- Instant of entry to COAST. -/
  since : Fine := 0
  /-- End of the last Marver window (R115). -/
  window : U32 := 0
  wStarted : Bool := false
  started : Bool := false
  deriving DecidableEq, Repr

/-- A firing computed and not yet delivered (R116). -/
structure Firing where
  event : Nat
  stamp : Fine
  cycle : Nat
  state : TrkState
  angle : U32
  deriving DecidableEq, Repr

/-- One Marver event (R117). -/
structure MarEvent where
  emode : Byte := 0
  count : Nat := 0
  firings : Nat := 0
  /-- Instant at which the committed record takes effect. -/
  from_ : Fine := 0
  deriving DecidableEq, Repr

/-- The Marver. -/
structure Marver where
  events : Table MarEvent := []
  queue : List Firing := []
  deriving DecidableEq, Repr

end Sys2Proof.Machine
end

