-- ==== Sys2Proof/Machine/State.lean ====
section
/-!
DEFINITION. The state of the block, the reasons a command stops, and the state right after reset.
-/
namespace Sys2Proof.Machine

/-- Why a command faults. -/
inductive Fault where
  /-- An event is reported of a unit that the order code does not provide (R2): engines from 32 and acquisition
  channels from 16 on XG64-L. Safe: such an event does not exist. -/
  | notProvided
  deriving DecidableEq, Repr

/-- Why a command is refused. -/
inductive Refusal where
  /-- The dispatcher, for a row that has no meaning. Safe. -/
  | notModelled (mnemonic : String)
  deriving DecidableEq, Repr

/-- The state of the block: all that the spec gives it, the queue of waiting commands, and the model's own fields. -/
structure State where
  part : Part := { }
  gaf : Gaffer := { }
  mbx : Table Mailbox := []
  cfg : List Rec := []
  cfgGen : U32 := 0
  cfgValid : Bool := false
  place : Placement := { }
  time : TimeUnit := { }
  trk : Table Tracker := []
  mar : Marver := { }
  sv : SvIngest := { }
  acq : Acq := { }
  eng : Engines := { }
  conv : ConvEngine := { }
  valve : Valve := { }
  log : LogicEngine := { }
  fio : FieldIo := { }
  net : Net := { }
  ev : EventSys := { }
  rec_ : RecordStore := { }
  pair : PairMod := { }
  arb : Arbiter := { }
  cas : Cascade := { }
  pwr : Power := { }
  store : Store := { }
  lehr : Lehr := { }
  /-- Host memory behind PCIe, as far as the block or its host wrote it: not the block's own (log entry 20). -/
  hostMem : Mem := []
  /-- What the block drove out during the last command (the model's own, log entry 9). -/
  emitted : List Output := []
  /-- Counter of free values (the model's own, log entry 19). -/
  free : Nat := 0
  /-- Commands waiting, first in, first out. -/
  pending : List Instr := []
  deriving DecidableEq, Repr

/-- The block right after reset: PORST_N is low, so everything but the one-time-programmable memory is cleared (R449). -/
def State.reset : State := { }

end Sys2Proof.Machine
end

