-- ==== Sys2Proof/Machine/Ops.lean ====
section
/-!
DEFINITION. The named operations that every family uses: time as the block reads it, the passing of time before a
command, the records in use, interrupt bits, and the wrapper that every meaning runs in.
-/
namespace Sys2Proof.Machine

/-! ### Units -/

/-- One nanosecond in units of a `Fine`. -/
def nsF : Nat := 65536
/-- One second in units of a `Fine`. -/
def secF : Nat := 1000000000 * 65536

/-! ### Records in use (R72, R75) -/

/-- The body of a record in a list of records. -/
def recIn (rs : List Rec) (rtype obj : Nat) : Option Bytes :=
  (rs.find? fun r => r.rtype == rtype && r.obj == obj).map (·.body)

/-- The body of a record of the configuration in use. -/
def State.rec? (s : State) (rtype obj : Nat) : Option Bytes := recIn s.cfg rtype obj

/-- A field of a record of the configuration in use, or `d` without the record. -/
def State.fld (s : State) (rtype obj d : Nat) (f : Bytes → Nat) : Nat := (s.rec? rtype obj).elim d f

/-- The records of one type, with their object numbers. -/
def recsOf (rs : List Rec) (rtype : Nat) : List (Nat × Bytes) :=
  (rs.filter fun r => r.rtype == rtype).map fun r => (r.obj, r.body)

/-- The records of one type in the configuration in use. -/
def State.recs (s : State) (rtype : Nat) : List (Nat × Bytes) := recsOf s.cfg rtype

/-! ### Time (R5 to R9, R81, R88, R107) -/

/-- The domain clock named. -/
def TimeUnit.dom (t : TimeUnit) : Dom → Domain
  | .a => t.domA
  | .b => t.domB

/-- Writes a domain clock. -/
def TimeUnit.setDom (t : TimeUnit) (x : Dom) (d : Domain) : TimeUnit :=
  match x with
  | .a => { t with domA := d }
  | .b => { t with domB := d }

/-- A domain's time as T80, rounded down (R6, R81). -/
def Domain.t80 (d : Domain) : Fine := d.count / 65536

/-- Working time as T80: the selected domain's time minus WORK_OFFSET (R88). -/
def TimeUnit.now (t : TimeUnit) : Fine :=
  ((((t.dom t.src).t80 : Int) * 1000000000 - t.workOff) / 1000000000).toNat

/-- Working time as T80. -/
def State.now (s : State) : Fine := s.time.now
/-- Working time as T64 (R5). -/
def State.nowNs (s : State) : Nat := s.now / nsF

/-- WORK_OFFSET in its units of 2^-16 ns (R88), rounded down. -/
def TimeUnit.offset (t : TimeUnit) : Int := t.workOff / 1000000000

/-- One domain clock after `n` counter cycles (R81). -/
def Domain.run (d : Domain) (n : Nat) : Domain := { d with count := (d.count + n * d.inc) % 2 ^ 96 }

/-- WORK_OFFSET after `n` counter cycles of bleeding at `bleed` ns/s (R89). -/
def bleedBy (off : Int) (bleed n : Nat) : Int :=
  let k : Int := (bleed * 65536 * n : Nat)
  if 0 ≤ off then max 0 (off - k) else min 0 (off + k)

/-- The time unit after `n` counter cycles. -/
def TimeUnit.run (t : TimeUnit) (bleed n : Nat) : TimeUnit :=
  { t with domA := t.domA.run n, domB := t.domB.run n, workOff := bleedBy t.workOff bleed n }

/-- BLEED of the WORKTIME record (R118). -/
def State.bleed (s : State) : Nat := s.fld 0x203 0 1000 (·.u16 2)

/-- Lets `dt` cycles of the time counter pass: the clocks run, and what the last command drove out is gone. In reset the
time unit stands (R106, R449). -/
def State.advance (dt : Nat) (s : State) : State :=
  { s with time := if s.part.inReset then s.time else s.time.run s.bleed dt, emitted := [] }

/-- The lattice rate in use; 4,800 ticks/s before a LATTICE record has taken effect (R110). -/
def State.rate (s : State) : Nat := if s.time.rate = 0 then 4800 else s.time.rate

/-- The start of tick `k` of second `sec` (R9). -/
def tickStart (rate : Nat) (k : Nat × Nat) : Fine := k.1 * secF + k.2 * secF / rate

/-- The tick that contains an instant. -/
def tickOf (rate : Nat) (t : Fine) : Nat × Nat :=
  (t / secF, ((t % secF + 1) * rate - 1) / secF)

/-- The tick after a tick. -/
def nextTick (rate : Nat) (k : Nat × Nat) : Nat × Nat := if k.2 + 1 < rate then (k.1, k.2 + 1) else (k.1 + 1, 0)

/-- The tick `n` ticks after a tick. -/
def addTicks (rate : Nat) (k : Nat × Nat) (n : Nat) : Nat × Nat :=
  (k.1 + (k.2 + n) / rate, (k.2 + n) % rate)

/-- The tick `n` ticks before a tick. -/
def subTicks (rate : Nat) (k : Nat × Nat) (n : Nat) : Nat × Nat :=
  let a := k.1 * rate + k.2 - n
  (a / rate, a % rate)

/-- The tick before a tick, if there is one. -/
def tickBefore (rate : Nat) (k : Nat × Nat) : Option (Nat × Nat) := if k.1 = 0 && k.2 = 0 then none else some (subTicks rate k 1)

/-- Ticks from `a` to `b`. -/
def tickDiff (rate : Nat) (a b : Nat × Nat) : Int :=
  ((b.1 * rate + b.2 : Nat) : Int) - ((a.1 * rate + a.2 : Nat) : Int)

/-- A tick as one number that rises with time at a fixed rate. -/
def tickNum (rate : Nat) (k : Nat × Nat) : Nat := k.1 * rate + k.2

/-- The start of the first tick that starts after an instant (R34). -/
def nextTickStart (rate : Nat) (t : Fine) : Fine := tickStart rate (nextTick rate (tickOf rate t))

/-- The present tick. -/
def State.tick (s : State) : Nat × Nat := tickOf s.rate s.now

/-- The fast cycle that contains an instant: second and number (R9). -/
def cycleOf (t : Fine) : Nat × Nat := (t / secF, t % secF / (10000 * nsF))
/-- The start of a fast cycle. -/
def cycleStart (c : Nat × Nat) : Fine := c.1 * secF + c.2 * 10000 * nsF
/-- The fast cycle after a fast cycle. -/
def nextCycle (c : Nat × Nat) : Nat × Nat := if c.2 + 1 < 100000 then (c.1, c.2 + 1) else (c.1 + 1, 0)
/-- A fast cycle as one number. -/
def cycleNum (c : Nat × Nat) : Nat := c.1 * 100000 + c.2
/-- The present fast cycle. -/
def State.cycle (s : State) : Nat × Nat := cycleOf s.now
/-- The start of the first matrix cycle, of 16 basic cycles, that starts after an instant (R306). -/
def nextMatrix (t : Fine) : Fine := (t / (160000 * nsF) + 1) * (160000 * nsF)
/-- The start of the first outer cycle that starts after an instant (R9). -/
def nextOuter (t : Fine) : Fine := (t / (50000 * nsF) + 1) * (50000 * nsF)
/-- The start of the first cycle of length `len` that starts at or after an instant. -/
def ceilTo (len t : Nat) : Nat := ceilDiv t len * len

/-- Length of a tick as the shorter of its two lengths, in ns (R249). -/
def tMin (rate : Nat) : Nat := 1000000000 / rate

/-- Whether a domain is LOCKED or in HOLDOVER. -/
def Domain.synced (d : Domain) : Bool := d.state == .locked || d.state == .holdover

/-- OFFSET_LIMIT of the WORKTIME record, in ns (R118). -/
def State.offsetLimit (s : State) : Nat := s.fld 0x203 0 10000 (·.u32 4)

/-- |WORK_OFFSET| exceeds OFFSET_LIMIT (R106). -/
def State.offsetOver (s : State) : Bool := decide ((s.offsetLimit * 65536 * 1000000000 : Nat) < s.time.workOff.natAbs)

/-- Working time is synchronised (R92). -/
def State.timeSync (s : State) : Bool := (s.time.dom s.time.src).synced && !s.offsetOver

/-- The UTC offset in use of a domain, in s (R103). -/
def State.utcOf (s : State) (d : Dom) : Int := (s.fld 0x202 d.num 37 (·.u16 10) : Int) + (s.time.dom d).leapAdj
/-- The UTC offset in use of working time: that of the domain it is taken from. -/
def State.utc (s : State) : Int := s.utcOf s.time.src

/-! ### The part and its roles -/

/-- The order code is XG64-L-I (R2). -/
def State.isL (s : State) : Bool := s.part.reduced
/-- REDUN_ROLE as latched. -/
def State.redun (s : State) : Nat := s.part.straps.redunRole.toNat
/-- CASCADE_ID as latched. -/
def State.cd (s : State) : Nat := s.part.straps.cascadeId.toNat
/-- The device is strapped as arbiter (R413). -/
def State.isArbiter (s : State) : Bool := s.redun == 3
/-- Pairing is configured: a PAIR record is in use (R431). -/
def State.paired (s : State) : Bool := (s.rec? 0xC01 0).isSome
/-- The device is a member of a cascade: a CASCADE record is in use (R438). -/
def State.cascaded (s : State) : Bool := (s.rec? 0xC02 0).isSome
/-- A bit of the committed feature set (R61). -/
def State.feat (s : State) (b : Nat) : Bool := s.gaf.committed.getLsbD b
/-- Firmware runs, and not the ROM alone (R453). -/
def State.fwRuns (s : State) : Bool := s.gaf.fwReady && !s.gaf.romHold
/-- The module holds the active role at an instant, or is unpaired (R317, R427). -/
def State.activeAt (s : State) (t : Fine) : Bool :=
  !s.paired || (s.pair.role == .active && s.pair.activeFrom.all fun a => decide (a ≤ t))
/-- The module acts as in SERVICE: it is in SERVICE and has not given up its role, or it holds a granted role and its mode has yet
to follow (R422, R427). -/
def State.serves (s : State) : Bool :=
  (s.gaf.mode == .service || (s.gaf.mode == .standby && s.paired)) && s.activeAt s.now
/-- The device is in TEST. -/
def State.inTest (s : State) : Bool := s.gaf.mode == .test

/-- A frame of the cascade ring reaches the device while one of its cascade receivers holds lock (R488). -/
def State.overRing (f : State → State) (s : State) : State := if s.cas.lock.any id then f s else s

/-! ### Output and interrupts (R44) -/

/-- Drives one thing out. -/
def State.emit (o : Output) (s : State) : State := { s with emitted := s.emitted ++ [o] }

/-- Sets a bit of DEV_IRQ_STATUS; a bit that rises while unmasked raises its vector (R44). -/
def State.setIrq (b : Nat) (s : State) : State :=
  if s.gaf.irqStatus.getLsbD b then s
  else
    let t := { s with gaf := { s.gaf with irqStatus := s.gaf.irqStatus ||| BitVec.ofNat 18 (2 ^ b) } }
    if s.gaf.irqMask.getLsbD b then t else t.emit (.msix b)

/-- ROLE of STATUS_GET (R69): 0 unpaired, 1 active, 2 standby, 3 arbiter. -/
def State.roleCode (s : State) : Nat :=
  if s.isArbiter then 3 else if !s.paired then 0
  else match s.pair.role with
    | .active => 1
    | .standby => 2
    | .none => 0

/-- The DEV_MODE register (R43). -/
def State.devMode (s : State) : Nat :=
  s.gaf.mode.code + 256 * (s.gaf.pend.elim (b2n s.gaf.bootAt.isSome) fun p => p.mode.code)

/-- The DEV_STATUS register (R43). -/
def State.devStatus (s : State) : Nat :=
  b2n s.gaf.fwReady + 2 * b2n s.gaf.image + 4 * b2n s.cfgValid + 8 * b2n s.timeSync + 16 * b2n s.paired +
  32 * b2n (s.roleCode == 1) + 256 * s.pwr.stage +
  4096 * (if s.gaf.mode == .safeHold then s.gaf.safeCause.code else 0)

/-- Sets DEV_IRQ_STATUS.STATUS when DEV_MODE or DEV_STATUS has changed since the state `s0` (R43). In reset the register
stays at its reset value. -/
def State.noteStatus (s0 s : State) : State :=
  if s.part.inReset || (s.devMode == s0.devMode && s.devStatus == s0.devStatus) then s else s.setIrq 17

end Sys2Proof.Machine
end

