-- ==== Sys2Proof/Machine/EventQueue.lean ====
section
/-!
DEFINITION. Raising, capturing and queueing of events, the alarm table and ALARM_N (R389 to R397, R403), and the wrapper
`State.run` in which every meaning runs.
-/
namespace Sys2Proof.Machine

/-- The class of an event code (R392). EV_HUB is classed by its PRIO where it is raised. -/
def evClass : Nat → EClass
  | 0x01 => .trip
  | 0x03 | 0x0A | 0x0F | 0x12 | 0x14 | 0x1A => .state
  | 0x04 | 0x05 | 0x0B | 0x0E | 0x10 | 0x11 | 0xF1 | 0xF2 => .log
  | _ => .alarm

/-- The alarms that are raised again with CLEAR when their condition ends (C of R392). -/
def evClears (c : Nat) : Bool := c == 0x08 || c == 0x0C || c == 0x16 || c == 0x17 || c == 0x18

/-- The block that hands an event to the capture unit (R393; the assignment is a reading, log entry 21). -/
def evBlock : Nat → Nat
  | 0x01 | 0x02 | 0x13 | 0x18 => 0
  | 0x03 => 1
  | 0x04 => 2
  | 0x12 => 3
  | 0x05 | 0x0E | 0x10 | 0x11 => 4
  | 0x0B | 0x14 | 0x19 => 5
  | 0x0F | 0x16 => 6
  | 0x0C | 0x0D | 0x17 => 7
  | 0x09 | 0x0A => 8
  | _ => 9

/-- An event of a code with its class, source, instant and payload fields as (width, value). -/
def mkEv (code src : Nat) (t : Fine) (fields : List (Nat × Nat)) (clear : Bool := false) : Ev :=
  { code, cls := evClass code, clear, oneShot := !evClears code, src, t, payload := packLe fields }

/-- Whether `a` must be queued before `b`: same block, same T, lower CODE and then lower SOURCE (R390). -/
def evBefore (a b : Ev) : Bool :=
  evBlock a.code == evBlock b.code && a.t == b.t &&
  (decide (a.code < b.code) || (a.code == b.code && decide (a.src < b.src)))

/-- Inserts an event among those raised together, before the first it must precede. -/
def insertEv (e : Ev) : List Ev → List Ev
  | [] => [e]
  | x :: xs => if evBefore e x then e :: x :: xs else x :: insertEv e xs

/-- Raises an event. It is captured at the end of the command (R393). -/
def State.post (e : Ev) (s : State) : State := { s with ev := { s.ev with raised := insertEv e s.ev.raised } }

/-- Raises an event when a condition holds. -/
def State.postIf (b : Bool) (e : Ev) (s : State) : State := if b then s.post e else s

/-- The ORIGIN byte (R389). -/
def State.origin (s : State) : Nat :=
  s.cd + 4 * s.redun + 16 * b2n (s.gaf.mode == .standby) + 32 * b2n (s.gaf.mode == .test)

/-! ### Alarm table (R396) -/

/-- An entry that is neither ACTIVE nor UNACK is removed. -/
def pruneAlarms (as : List Alarm) : List Alarm := as.filter fun a => a.unack || !a.raised.isEmpty

/-- One occurrence entered in an entry. -/
def Alarm.hit (a : Alarm) (e : Ev) : Alarm :=
  { a with
    raised := if e.oneShot || a.raised.contains e.src then a.raised else e.src :: a.raised
    unack := true
    count := satAdd 32 a.count 1
    first := if a.count = 0 then e.t / nsF else a.first
    last := e.t / nsF }

/-- Applies `f` to the first entry that satisfies `p`. -/
def modifyFirst {α : Type} (p : α → Bool) (f : α → α) : List α → List α
  | [] => []
  | x :: xs => if p x then f x :: xs else x :: modifyFirst p f xs

/-- Enters an alarm occurrence: in the entry of its CODE and SOURCE, in a new one while fewer than 480 are in use, and
otherwise in the entry of the code for several sources. -/
def alarmHit (e : Ev) (as : List Alarm) : List Alarm :=
  let own (a : Alarm) : Bool := !a.multi && a.code == e.code && a.src == e.src
  let all (a : Alarm) : Bool := a.multi && a.code == e.code
  if as.any own then modifyFirst own (·.hit e) as
  else if (as.filter fun a => !a.multi).length < 480 then as ++ [({ code := e.code, src := e.src } : Alarm).hit e]
  else if as.any all then modifyFirst all (·.hit e) as
  else as ++ [({ code := e.code, src := 0xFFFF, multi := true } : Alarm).hit e]

/-- Clears an alarm of a source. -/
def alarmClear (e : Ev) (as : List Alarm) : List Alarm :=
  pruneAlarms (as.map fun a => if a.code == e.code then { a with raised := a.raised.filter (· != e.src) } else a)

/-- Counts an occurrence that was lost while the queue was full (R395). -/
def alarmLost (e : Ev) (as : List Alarm) : List Alarm :=
  let own (a : Alarm) : Bool := a.code == e.code && (a.src == e.src || a.multi)
  modifyFirst own (fun a => { a with lost := a.lost + 1, lostFirst := if a.lost = 0 then e.t else a.lostFirst,
                                     lostLast := e.t }) as

/-- The alarm table after an event of class ALARM; EV_ALARM_SUM restates occurrences and is not entered. -/
def alarmEnter (e : Ev) (as : List Alarm) : List Alarm :=
  if e.cls != .alarm || e.code == 0xF0 then as
  else if e.clear then alarmClear e as else alarmHit e as

/-- ALARM_N is driven low (R403, R449). -/
def State.alarmLow (s : State) : Bool :=
  s.part.inReset || s.gaf.mode == .safeHold || !(pruneAlarms s.ev.alarms).isEmpty

/-! ### Queue (R393 to R397) -/

/-- Entries the event queue holds. -/
def queueSize : Nat := 8192

/-- AUTO_FREE of the EVENTS record (R412). -/
def State.autoFree (s : State) : Bool := s.fld 0xB01 0 0 (·.u16 0x14) % 2 == 1

/-- The record writer passes every entry at once where there is no DDR (R397). -/
def State.queueAdd (e : Ev) (s : State) : State :=
  { s with ev := { s.ev with
      queue := s.ev.queue ++ [{ seq := s.ev.nextSeq, ev := e, origin := s.origin, at_ := s.now, written := !s.rec_.ddr }]
      nextSeq := s.ev.nextSeq + 1 } }

/-- An event that finds the queue full, or comes while summaries are owed, is counted (R395). -/
def State.countLost (e : Ev) (s : State) : State :=
  let o := match s.ev.overflow with
    | none => { lost := 1, first := e.t, last := e.t, told := false }
    | some o => if o.told then o else { o with lost := o.lost + 1, last := e.t }
  { s with ev := { s.ev with
      overflow := some o
      lost := satAdd 32 s.ev.lost 1
      alarms := if e.cls == .alarm && !e.clear && e.code != 0xF0 then alarmLost e s.ev.alarms else s.ev.alarms } }

/-- Queues one owed summary while there is room: EV_EVENT_OVF, then one EV_ALARM_SUM per entry with lost occurrences in
ascending CODE and SOURCE; then nothing is owed any more. The fuel bounds the summaries. -/
def State.refill : Nat → State → State
  | 0, s => s
  | n + 1, s =>
    match s.ev.overflow with
    | none => s
    | some o =>
      if queueSize ≤ s.ev.queue.length then s
      else if !o.told then
        let e := mkEv 0x06 0 o.first [(4, o.lost), (8, o.last / nsF)]
        let s := { s with ev := { s.ev with overflow := some { o with told := true }, alarms := alarmEnter e s.ev.alarms } }
        (s.queueAdd e).refill n
      else
        let owed := s.ev.alarms.filter fun a => 0 < a.lost
        match owed.foldl (fun (m : Option Alarm) a =>
            match m with
            | none => some a
            | some b => if a.code < b.code || (a.code == b.code && a.src < b.src) then some a else some b) none with
        | none => { s with ev := { s.ev with overflow := none } }
        | some a =>
          let e := mkEv 0xF0 a.src a.lostLast
            [(2, a.code), (2, 0), (4, a.lost), (4, min ((a.lostLast - a.lostFirst) / (1000 * nsF)) 0xFFFFFFFF)]
          let s := { s with ev := { s.ev with
              alarms := s.ev.alarms.map fun (b : Alarm) =>
                if b.code == a.code && b.src == a.src && b.multi == a.multi then { b with lost := 0 } else b } }
          (s.queueAdd e).refill n

/-- Telemetry copies queue entries (R402, R412). -/
def State.telEvents (s : State) : Bool := s.fld 0xB02 0 0 (·.u16 0x14) != 0 && bitOf (s.fld 0xB02 0 0 (·.u8 0x17)) 0

/-- Counts lost items of an ITYPE for its loss marker: how many, first and last instant (R402). -/
def noteLost (itype : Nat) (ts : List Fine) (t : Table (Nat × Nat × Nat)) : Table (Nat × Nat × Nat) :=
  ts.foldl (fun t x =>
    let e := t.get (0, x / nsF, 0) itype
    t.put itype (e.1 + 1, e.2.1, x / nsF)) t

/-- Frees the entries that the host has acknowledged (or, under AUTO_FREE, telemetry has sent) and the record writer has
passed (R397), and takes in what was owed (R395). An entry freed before telemetry sent it counts as lost to telemetry (R402). -/
def State.freeEntries (s : State) : State :=
  let auto := s.autoFree
  let (gone, q) := s.ev.queue.partition fun e => e.written && (if auto then e.sent else e.acked)
  let lost := (gone.filter fun e => !e.sent).map (·.ev.t)
  State.refill 600 { s with ev := { s.ev with
    queue := q, lostItems := if s.telEvents then noteLost 1 lost s.ev.lostItems else s.ev.lostItems } }

/-- Pops `k` events from the block FIFOs, one block after another. -/
def popFifos : Nat → List (Nat × Nat) → List (Nat × Nat)
  | 0, f => f
  | k + 1, f =>
    match f.filter fun e => 0 < e.2 with
    | [] => []
    | (b, n) :: r => popFifos k (r ++ [(b, n - 1)])

/-- The FIFOs after the capture unit has taken one event every 8 ns since they were last looked at (R393). -/
def State.drainFifos (s : State) : Table Nat :=
  let k := (s.now - s.ev.fifoAt) / (8 * nsF)
  let total := s.ev.fifo.foldl (fun a e => a + e.2) 0
  if total ≤ k then [] else (popFifos k s.ev.fifo).foldl (fun t e => Table.put t e.1 e.2) []

/-- LOG_RATE and LOG_BURST of the EVENTS record (R412). -/
def State.logRate (s : State) : Nat := s.fld 0xB01 0 10 (·.u16 0x16)
@[inherit_doc State.logRate] def State.logBurst (s : State) : Nat := s.fld 0xB01 0 20 (·.u16 0x18)

/-- One unit of a token. -/
def tokenUnit : Nat := 1000000000 * 65536

/-- Takes a token for a LOG event from the bucket of its CODE and SOURCE, or counts the event (R394). -/
def State.takeToken (e : Ev) (s : State) : Bool × State :=
  let key := e.code * 65536 + e.src
  let b := s.ev.buckets.get { tokens := s.logBurst * tokenUnit, at_ := s.now } key
  let have_ := min (s.logBurst * tokenUnit) (b.tokens + (s.now - b.at_) * s.logRate)
  let b' : Bucket :=
    if tokenUnit ≤ have_ then { b with tokens := have_ - tokenUnit, at_ := s.now }
    else { b with tokens := have_, at_ := s.now, count := b.count + 1, first := if b.count = 0 then e.t else b.first,
                  last := e.t }
  (decide (tokenUnit ≤ have_), { s with ev := { s.ev with buckets := s.ev.buckets.put key b' } })

/-- The capture unit handles one event (R393 to R396). -/
def State.capture (s : State) (e : Ev) : State :=
  let fifo := s.drainFifos
  let blk := evBlock e.code
  let fill := fifo.get 0 blk
  let s := { s with ev := { s.ev with fifo, fifoAt := s.now, alarms := alarmEnter e s.ev.alarms } }
  if 64 ≤ fill then s.countLost e
  else
    let s := { s with ev := { s.ev with fifo := fifo.put blk (fill + 1) } }
    let (ok, s) := if e.cls == .log && e.code != 0xF1 && e.code != 0xF2 then s.takeToken e else (true, s)
    if !ok then s
    else if s.ev.overflow.isSome || queueSize ≤ s.ev.queue.length then s.countLost e
    else s.queueAdd e

/-- Captures every event raised by the command. Events raised before firmware runs are not captured (R404). -/
def State.flush (s : State) : State :=
  let es := s.ev.raised
  let s := { s with ev := { s.ev with raised := [] } }
  if s.fwRuns then es.foldl State.capture s else s

/-- At the start of tick 0, one EV_LOG_SUMMARY for each bucket with a count (R394). -/
def State.logSummaries (s : State) : State :=
  let due := s.ev.buckets.filter fun b => 0 < b.2.count
  let s := { s with ev := { s.ev with buckets := s.ev.buckets.map fun b => (b.1, { b.2 with count := 0 }) } }
  due.foldl (fun s b => s.post (mkEv 0xF1 (b.1 % 65536) b.2.last
    [(2, b.1 / 65536), (2, 0), (4, b.2.count), (4, min ((b.2.last - b.2.first) / (1000 * nsF)) 0xFFFFFFFF)])) s

/-- Once the instant of a loss is past, what is owed is taken in while an entry is free: an event that found its block's FIFO full
may be lost although the queue has room (R393, R395). -/
def State.takeOwed (dt : Nat) (s : State) : State := if 0 < dt && s.ev.overflow.isSome && s.fwRuns then State.refill 600 s else s

/-- What no command changes: the order code and the serial number of the part (R43), and the queue of waiting commands. -/
def State.keepFixed (s0 s : State) : State :=
  { s with part := { s.part with reduced := s0.part.reduced, serial := s0.part.serial }, pending := s0.pending }

/-- The state at the instant of a command, `dt` cycles after the last one: the time has passed and what was owed is queued. -/
def State.arrived (dt : Nat) (s : State) : State := State.takeOwed dt (State.advance dt s)

/-- What closes a command that began in state `s0`: its events are captured, what no command changes stands, and DEV_IRQ_STATUS
follows DEV_MODE and DEV_STATUS (R43, R393). -/
def State.closed (s0 s : State) : State := State.noteStatus s0 (State.keepFixed s0 (State.flush s))

/-- Runs a command: the time before it passes, its effect happens, and it is closed (log entries 1 and 9). Every meaning is one of
these. -/
def State.run (dt : Nat) (f : State → State) (s : State) : State := s.closed (f (s.arrived dt))

/-- The outcome of a command that goes on. -/
def goOn (dt : Nat) (f : State → State) (s : State) : Host.Outcome State Fault Refusal := .next (State.run dt f s)

end Sys2Proof.Machine
end

