-- ==== Sys2Proof/Machine/Flags.lean ====
section
/-!
DEFINITION. The quality word (R11 to R13) and the ways its flags are combined.
-/
namespace Sys2Proof.Machine

/-- The flags of R11. -/
def qInvalid : Quality := 0x0001
@[inherit_doc qInvalid] def qQuestionable : Quality := 0x0002
@[inherit_doc qInvalid] def qTest : Quality := 0x0004
@[inherit_doc qInvalid] def qSubst : Quality := 0x0008
@[inherit_doc qInvalid] def qHold : Quality := 0x0010
@[inherit_doc qInvalid] def qSettle : Quality := 0x0020
@[inherit_doc qInvalid] def qInterp : Quality := 0x0040
@[inherit_doc qInvalid] def qSyncLost : Quality := 0x0080
@[inherit_doc qInvalid] def qDerived : Quality := 0x0100
@[inherit_doc qInvalid] def qOverrange : Quality := 0x0200
@[inherit_doc qInvalid] def qLate : Quality := 0x0400
@[inherit_doc qInvalid] def qMissing : Quality := 0x0800
@[inherit_doc qInvalid] def qSkewcal : Quality := 0x1000

/-- A quality word has one of the flags of `f`. -/
def qHas (f q : Quality) : Bool := f &&& q != 0

/-- The flags `f` where `b` holds. -/
def qIf (b : Bool) (f : Quality) : Quality := if b then f else 0

/-- The OR of quality words (R13), less bits 13 to 15 (R12). -/
def qOr (qs : List Quality) : Quality := (qs.foldl (· ||| ·) 0) &&& 0x1FFF

/-- SYNC_LOST while working time is not synchronised (R92). -/
def State.qSync (s : State) : Quality := qIf (!s.timeSync) qSyncLost

end Sys2Proof.Machine
end

