-- ==== Sys2Proof/Machine/Fp.lean ====
section
/-!
DEFINITION. FP32 arithmetic as the engines and the converter control engine use it (R176, R268): IEEE 754 binary32, round
to nearest even, subnormal operands and results read and written as a zero of their sign, NaN results 0x7FC0_0000.
-/
namespace Sys2Proof.Fp

/-- The quiet NaN that every operation returns (R176). -/
def nan : Fp := 0x7FC00000
/-- Positive and negative infinity. -/
def inf (neg : Bool) : Fp := if neg then 0xFF800000 else 0x7F800000
/-- A zero of the sign given. -/
def zero (neg : Bool) : Fp := if neg then 0x80000000 else 0
/-- One. -/
def one : Fp := 0x3F800000

/-- The sign bit. -/
def sign (x : Fp) : Bool := x.toNat ≥ 2 ^ 31
/-- The biased exponent. -/
def expo (x : Fp) : Nat := (x.toNat / 2 ^ 23) % 256
/-- The fraction field. -/
def frac (x : Fp) : Nat := x.toNat % 2 ^ 23
/-- Whether the word is a NaN. -/
def isNan (x : Fp) : Bool := expo x = 255 ∧ frac x ≠ 0
/-- Whether the word is an infinity. -/
def isInf (x : Fp) : Bool := expo x = 255 ∧ frac x = 0
/-- Whether the word is a zero or a subnormal number, which reads as a zero of its sign (R176). -/
def isZero (x : Fp) : Bool := expo x = 0
/-- Whether the word is finite. -/
def isFinite (x : Fp) : Bool := expo x ≠ 255

/-- The significand of a finite word times `2^149`-scaled: the word's magnitude is `mag x * 2^(-150)`. -/
def mag (x : Fp) : Nat := if expo x = 0 then 0 else (2 ^ 23 + frac x) * 2 ^ expo x

/-- The value of a finite word times `2^150`. -/
def val (x : Fp) : Int := if sign x then -(mag x : Int) else mag x

/-- Rounds the positive rational `n / d` to a magnitude word: nearest even, overflow to infinity, below the least
normal number to zero. The exponent is found from the bit lengths. -/
def roundMag (n d : Nat) : Nat :=
  if n = 0 then 0 else
  -- find e with 2^e ≤ n/d < 2^(e+1)
  let e0 : Int := (Nat.log2 n : Int) - (Nat.log2 d : Int)
  let ge (e : Int) : Bool := if 0 ≤ e then decide (d * 2 ^ e.toNat ≤ n) else decide (d ≤ n * 2 ^ (-e).toNat)
  let e : Int := if ge e0 then e0 else e0 - 1
  -- significand of 24 bits: round (n/d * 2^(23-e))
  let k : Int := 23 - e
  let (p, q) := if 0 ≤ k then (n * 2 ^ k.toNat, d) else (n, d * 2 ^ (-k).toNat)
  let m := (roundDivEven (p : Int) q).toNat
  let (m, e) := if m = 2 ^ 24 then (2 ^ 23, e + 1) else (m, e)
  if e < -126 then 0
  else if 127 < e then 255 * 2 ^ 23
  else ((e + 127).toNat) * 2 ^ 23 + (m - 2 ^ 23)

/-- The word nearest to the rational `n / d` (`d > 0`); `neg0` is the sign of a zero result. -/
def ofRat (n : Int) (d : Nat) (neg0 : Bool := false) : Fp :=
  if n = 0 then zero neg0
  else if n < 0 then BitVec.ofNat 32 (2 ^ 31 + roundMag (-n).toNat d)
  else BitVec.ofNat 32 (roundMag n.toNat d)

/-- The word nearest to an integer. -/
def ofInt (n : Int) : Fp := ofRat n 1

/-- A constant `num / den` as the nearest word. -/
def ofFrac (num : Int) (den : Nat) : Fp := ofRat num den

/-- Negation: inverts the sign bit, and a NaN becomes the quiet NaN. -/
def neg (x : Fp) : Fp := if isNan x then nan else x ^^^ 0x80000000
/-- Absolute value. -/
def abs (x : Fp) : Fp := if isNan x then nan else x &&& 0x7FFFFFFF

/-- Addition. -/
def add (x y : Fp) : Fp :=
  if isNan x || isNan y then nan
  else if isInf x then (if isInf y && (sign x != sign y) then nan else x)
  else if isInf y then y
  else ofRat (val x + val y) (2 ^ 150) (if isZero x && isZero y then sign x && sign y else false)

/-- Subtraction. -/
def sub (x y : Fp) : Fp := if isNan y then nan else add x (y ^^^ 0x80000000)

/-- Multiplication. -/
def mul (x y : Fp) : Fp :=
  let s := sign x != sign y
  if isNan x || isNan y then nan
  else if isInf x || isInf y then (if isZero x || isZero y then nan else inf s)
  else ofRat (val x * val y) (2 ^ 300) s

/-- Division. -/
def div (x y : Fp) : Fp :=
  let s := sign x != sign y
  if isNan x || isNan y then nan
  else if isInf x then (if isInf y then nan else inf s)
  else if isInf y then zero s
  else if isZero y then (if isZero x then nan else inf s)
  else if isZero x then zero s
  else ofRat (if s then -(mag x : Int) else mag x) (mag y) s

/-- The fused product and sum `x y + z`, rounded once. -/
def fma (x y z : Fp) : Fp :=
  let s := sign x != sign y
  if isNan x || isNan y || isNan z then nan
  else if isInf x || isInf y then
    (if isZero x || isZero y then nan else if isInf z && (sign z != s) then nan else inf s)
  else if isInf z then z
  else
    let p := val x * val y
    let n := p + val z * 2 ^ 150
    ofRat n (2 ^ 300) (if p = 0 && isZero z then s && sign z else false)

/-- The square root. A negative number other than a zero gives NaN. -/
def sqrt (x : Fp) : Fp :=
  if isNan x then nan
  else if isZero x then x &&& 0x80000000
  else if sign x then nan
  else if isInf x then x
  else
    -- x = mag / 2^150 ; sqrt = sqrt(mag * 2^100) / 2^125 with sticky bit
    let m := mag x * 2 ^ 100
    let r := Nat.sqrt m
    let (p, q) := if r * r = m then (2 * r, 2) else (2 * r + 1, 2)
    ofRat (p : Int) (q * 2 ^ 125)

/-- Ordered comparison: the first is less than the second. False if either is a NaN. -/
def lt (x y : Fp) : Bool :=
  if isNan x || isNan y then false
  else
    let k (z : Fp) : Int := if isInf z then (if sign z then -(2 ^ 300) else 2 ^ 300) else val z
    decide (k x < k y)
/-- Ordered comparison: less than or equal. -/
def le (x y : Fp) : Bool := if isNan x || isNan y then false else !(lt y x)
/-- Equality of the values; a NaN equals nothing and zeros are equal. -/
def eq (x y : Fp) : Bool := le x y && le y x
/-- The greater of two; a NaN operand gives NaN. -/
def max (x y : Fp) : Fp := if isNan x || isNan y then nan else if lt x y then y else x
/-- The lesser of two. -/
def min (x y : Fp) : Fp := if isNan x || isNan y then nan else if lt y x then y else x
/-- Bounds `x` to `[lo, hi]`. -/
def clamp (lo hi x : Fp) : Fp := min (max x lo) hi

/-- The integer part of a finite word, rounded toward zero. -/
def truncInt (x : Fp) : Int :=
  let n : Int := (mag x / 2 ^ 150 : Nat)
  if sign x then -n else n

/-- The nearest integer of a finite word, ties to even. -/
def roundInt (x : Fp) : Int := roundDivEven (val x) (2 ^ 150)

/-- The greatest integer not above a finite word. -/
def floorInt (x : Fp) : Int := (val x).fdiv (2 ^ 150)

/-- Whether a word is a finite number greater than 0. -/
def isPos (x : Fp) : Bool := isFinite x && !isZero x && !sign x

end Sys2Proof.Fp
end

