-- ==== Sys2Proof/Machine/Operands.lean ====
section
/-!
DEFINITION. Operand forms: the layout and the field checks of configuration records and payloads (R17, R60, R72), and
named readers for the fields that several families use.
-/
namespace Sys2Proof.Machine

/-- Field checks: the offset of each field in its body or payload and whether its value is allowed, rising offsets. -/
abbrev Checks := List (Nat × Bool)

/-- The offset of the first field whose value is not allowed. -/
def firstBad (cs : Checks) : Option Nat := (cs.find? fun c => !c.2).map (·.1)

/-- What the record tables say of one record with its object and body: whether the object number exists, the length of
the fixed part, checks of the counts, the length that the counts imply, checks of the fields, and the features its fields
need (R64, R72). -/
structure RecSpec where
  objOk : Bool := true
  fixed : Nat
  counts : Checks := []
  len : Nat
  checks : Checks := []
  needs : List Nat := []

/-- A record of fixed length. -/
def fixedRec (len : Nat) (checks : Checks) (objOk : Bool := true) (needs : List Nat := []) : RecSpec :=
  { objOk, fixed := len, len, checks, needs }

/-- `lo ≤ n ≤ hi`. -/
def within (lo hi n : Nat) : Bool := decide (lo ≤ n ∧ n ≤ hi)
/-- `lo ≤ z ≤ hi`. -/
def withinZ (lo hi z : Int) : Bool := decide (lo ≤ z ∧ z ≤ hi)
/-- No bit of `n` lies outside `mask`. -/
def onlyBits (mask n : Nat) : Bool := n &&& mask == n
/-- A finite FP32 within limits. -/
def fpWithin (lo hi x : Fp) : Bool := Fp.isFinite x && Fp.le lo x && Fp.le x hi
/-- A finite FP32, 0 or above. -/
def fpNonNeg (x : Fp) : Bool := Fp.isFinite x && (Fp.isZero x || !Fp.sign x)
/-- `n` bytes at `off` are 0. -/
def zeroAt (b : Bytes) (off n : Nat) : Bool := Bytes.le b off n == 0

/-- Why a commit is refused: BAD_FIELD with the record and the offset in its body of the field, or with
its OBJECT as the field (R77), or NO_RESOURCE. -/
inductive CommitErr where
  | field (rtype obj off : Nat)
  | object (rtype obj : Nat)
  | noRes (detail : Nat)
  deriving DecidableEq, Repr

/-! ### Limits of the order code (R2) -/

/-- Picks the limit of the full or the reduced order code. -/
def pick (l : Bool) (full reduced : Nat) : Nat := if l then reduced else full
/-- Ethernet ports. -/
def numPorts (l : Bool) : Nat := pick l 16 8
/-- Acquisition channels. -/
def numAcq (l : Bool) : Nat := pick l 32 16
/-- Valve lanes. -/
def numLanes (l : Bool) : Nat := pick l 24 12
/-- Protection engines. -/
def numEngines (l : Bool) : Nat := pick l 64 32
/-- Function instances. -/
def numInsts (l : Bool) : Nat := pick l 1024 512
/-- SV streams. -/
def numStreams (l : Bool) : Nat := pick l 512 256
/-- SV channels. -/
def numSvCh (l : Bool) : Nat := pick l 4096 2048

/-- The nominal level of a rail in mV (R439). -/
def railNominal (i : Nat) : Nat := [750, 850, 900, 1200, 1100, 1800, 3300].getD i 0

/-- Thresholds of a rail in mV: warn, shed, stop, overvoltage stop. -/
def railThreshold (i k : Nat) : Nat := railNominal i * [96, 94, 90, 106].getD k 0 / 100

/-- The level lies beyond a threshold. -/
def beyond (i k level : Nat) : Bool := if k = 3 then decide (railThreshold i 3 < level) else decide (level < railThreshold i k)

/-- FP32 constants of field limits. -/
def fpOf (num : Int) (den : Nat := 1) : Fp := Fp.ofRat num den

end Sys2Proof.Machine
end

