-- ==== Sys2Proof/Machine/AcqChain.lean ====
section
/-!
DEFINITION. Acquisition up to the channel output: links, SYSREF, sample instants, the filter chain and its quality flags
(R138 to R149, R164), and the records of ACQ_CONFIGURE (R169).
-/
namespace Sys2Proof.Machine

/-! ### Records (R138, R139, R142, R169) -/

/-- The records of ACQ_CONFIGURE. -/
def acqSpec (l : Bool) (rtype obj : Nat) (b : Bytes) : Option RecSpec :=
  match rtype with
  | 0x401 =>
    let lanes := b.u8 1
    let m := b.u8 2
    let sm := b.u8 3
    let fs := b.u32 8
    let p := b.u32 0xC
    let okL := lanes == 1 || lanes == 2 || lanes == 4
    let f := m * sm * 2 / lanes
    let fOk := okL && (m * sm * 2) % lanes == 0 && within 1 256 f
    let rate := f * 8 * fs * 66
    let map := (List.range lanes).map fun i => b.u16 0x14 / 16 ^ i % 16
    some (fixedRec 0x18
      [(0, b.u8 0 ≤ 1), (1, okL && (!(within 1 16 m && within 1 8 sm) || fOk)), (2, within 1 16 m), (3, within 1 8 sm),
       (4, within 12 16 (b.u8 4)), (5, b.u8 5 ≤ 2), (6, within 1 16 (b.u8 6)), (7, onlyBits 1 (b.u8 7)),
       (8, within 1000000 25000000 fs && within (1000000000 * 64 * sm) (16220000000 * 64 * sm) rate),
       (0xC, within 1000 1000000 p && (p * fs) % 1000000000 == 0 && (p * f * fs) % (1000000000 * b.u8 6 * 256 * sm) == 0),
       (0x10, withinZ (-655360000) 655360000 (b.sle 0x10 4)), (0x14, map.all (· < 4) && map.Nodup), (0x16, zeroAt b 0x16 2)]
      (obj ≤ 3))
  | 0x402 => some (fixedRec 0x1C
      [(0, b.u8 0 ≤ 3), (1, b.u8 1 ≤ 15), (6, within 1 64 (b.u8 6)), (7, within 3 5 (b.u8 7)), (8, within 1 1024 (b.u16 8)),
       (0xA, b.u8 0xA ≤ 7 || b.u8 0xA == 0xFF), (0xB, zeroAt b 0xB 1), (0xC, Fp.isFinite (b.fp 0xC)),
       (0x10, within 16 65535 (b.u16 0x10)), (0x12, within 16 65535 (b.u16 0x12)), (0x14, b.u8 0x14 ≤ 20),
       (0x15, b.u8 0x15 ≤ 24), (0x16, zeroAt b 0x16 2), (0x18, 0 ≤ b.sle 0x18 4)] (obj < numAcq l))
  | 0x403 => some (fixedRec 0x18
      [(0, within 1 4096 (b.u16 0)), (2, b.u8 2 ≤ 1), (3, onlyBits 0xF (b.u8 3)), (4, b.u32 4 ≤ 65535),
       (8, within 1 65536 (b.u32 8) && within 64 65536 (b.u32 4 + b.u32 8)), (0xC, zeroAt b 0xC 4)] (obj ≤ 7)
      ((if bitOf (b.u8 3) 1 then [5] else []) ++ if bitOf (b.u8 3) 2 then [2] else []))
  | 0x404 =>
    let tt := b.u8 0
    some (fixedRec 0x14
      [(0, tt ≤ 5), (1, if tt = 4 then b.u8 1 ≤ 5 else tt == 5 || tt == 0 || b.u8 1 ≤ 2),
       (2, if tt = 5 then b.u16 2 ≤ 7 else if within 1 3 tt then b.u16 2 < numAcq l else true), (4, b.u8 4 ≤ 2),
       (5, tt != 2 || within 1 64 (b.u8 5)), (6, zeroAt b 6 2), (0xC, tt != 3 || b.sle 8 4 ≤ b.sle 0xC 4),
       (0x10, 0 ≤ b.sle 0x10 4)] (obj ≤ 63))
  | _ => none

/-- The part of a channel's ACQ_CHANNEL record that its chain uses. -/
structure ChainPar where
  link : Nat
  conv : Nat
  gain : Nat
  offset : Int
  l : Nat
  n : Nat
  r : Nat

/-- Reads the chain's parameters from an ACQ_CHANNEL body. -/
def chainPar (b : Bytes) : ChainPar :=
  { link := b.u8 0, conv := b.u8 1, gain := b.u16 2, offset := b.sle 4 2, l := b.u8 6, n := b.u8 7, r := b.u16 8 }

/-- Length of the impulse response in input samples (R147). -/
def ChainPar.response (p : ChainPar) : Nat := p.l + if p.r = 1 then 0 else p.n * (p.r - 1)
/-- Twice the group delay in input samples (R147). -/
def ChainPar.delay2 (p : ChainPar) : Nat := p.l - 1 + if p.r = 1 then 0 else p.n * (p.r - 1)
/-- Outputs that carry SETTLE after a change (R149). -/
def ChainPar.settleCount (p : ChainPar) : Nat := p.n + ceilDiv (p.l - 1) p.r + 1

/-- The link of a number. -/
def State.link (s : State) (n : Nat) : Link := s.acq.links.get { } n
/-- Changes a link. -/
def State.modLink (n : Nat) (f : Link → Link) (s : State) : State :=
  { s with acq := { s.acq with links := s.acq.links.put n (f (s.link n)) } }
/-- The channel of a number. -/
def State.chan (s : State) (n : Nat) : Chan := s.acq.chans.get { } n
/-- Changes a channel. -/
def State.modChan (n : Nat) (f : Chan → Chan) (s : State) : State :=
  { s with acq := { s.acq with chans := s.acq.chans.put n (f (s.chan n)) } }

/-- The channels mapped to a link, with their records. -/
def State.linkChans (s : State) (n : Nat) : List (Nat × Bytes) := (s.recs 0x402).filter fun r => r.2.u8 0 == n

/-- The calibration data of an item and object. -/
def State.cal? (s : State) (item obj : Nat) : Option Bytes :=
  (s.store.items.find? fun c => c.item == item && c.obj == obj).map (·.data)

/-! ### Links (R140, R141) -/

/-- Changes entry `i` of a list. -/
def modAt {α : Type} (i : Nat) (f : α → α) (l : List α) : List α :=
  match l, i with
  | [], _ => []
  | x :: xs, 0 => f x :: xs
  | x :: xs, i + 1 => x :: modAt i f xs

/-- The physical lanes of a link's record. -/
def lanesOf (b : Bytes) : List Nat := (List.range (b.u8 1)).map fun i => b.u16 0x14 / 16 ^ i % 16

/-- One lane takes the header of a block and, at the end of an extended multiblock, its marker. -/
def Link.lane (blk : JesdBlock) (k : Link) (i : Nat) : Link :=
  let ok := blk.headersOk.getD i false
  let k := { k with goodHdr := modAt i (fun n => if ok then min 64 (n + 1) else 0) k.goodHdr
                    lastHdr := modAt i (fun h => (ok :: h).take 64) k.lastHdr }
  if !blk.emb then k
  else
    let plain := blk.markers.getD i false
    let inv := blk.inverted.getD i false
    let rev := k.polRev.getD i false
    let good := if rev then inv else plain
    let turns := if !rev && inv && !plain then k.invEmb.getD i 0 + 1 else 0
    if 4 ≤ turns then
      { k with polRev := modAt i (fun _ => true) k.polRev, invEmb := modAt i (fun _ => 0) k.invEmb
               goodEmb := modAt i (fun _ => 0) k.goodEmb, badEmb := modAt i (fun _ => 0) k.badEmb }
    else
      { k with invEmb := modAt i (fun _ => turns) k.invEmb
               goodEmb := modAt i (fun n => if good then n + 1 else 0) k.goodEmb
               badEmb := modAt i (fun n => if good then 0 else n + 1) k.badEmb }

/-- A link falls back to DOWN; inversion ends with it (R140, R141). -/
def Link.drop (k : Link) : Link :=
  { ({ } : Link) with crcErr := k.crcErr, sysrefErr := k.sysrefErr, edges := k.edges, lastEdge := k.lastEdge
                      goodEdges := k.goodEdges, extrap := k.extrap, span := k.span, lehr := k.lehr, stale := k.stale }

/-- The link state machine takes one block (R140). -/
def Link.block (lanes : List Nat) (blk : JesdBlock) (k : Link) : Link :=
  let k := lanes.foldl (Link.lane blk) k
  let every (p : Nat → Bool) : Bool := lanes.all p
  let bad (i : Nat) : Bool := 16 ≤ ((k.lastHdr.getD i []).filter (!·)).length || 4 ≤ k.badEmb.getD i 0
  match k.state with
  | .down => if every fun i => 64 ≤ k.goodHdr.getD i 0 then
      { k with state := .shLock, goodEmb := [0, 0, 0, 0], badEmb := [0, 0, 0, 0] } else k
  | .shLock => if lanes.any bad then k.drop
      else if every fun i => 4 ≤ k.goodEmb.getD i 0 then { k with state := .embLock } else k
  | .embLock => if lanes.any bad then k.drop
      else if blk.lemcEdge && blk.skewOk then { k with state := .data, n := 0, base := k.lastEdge.getD 0 } else k
  | .data => if lanes.any bad then k.drop else k

/-! ### SYSREF and instants (R142, R143) -/

/-- Samples per converter in a SYSREF period. -/
def sysrefQ (b : Bytes) : Nat := max 1 (b.u32 8 * b.u32 0xC / 1000000000)

/-- The length of 16 SYSREF periods: measured, or nominal before that. -/
def Link.span16 (b : Bytes) (k : Link) : Nat := if k.span = 0 then 16 * b.u32 0xC * nsF else k.span

/-- An edge of SYSREF on one link. -/
def Link.edge (b : Bytes) (now : Fine) (k : Link) : Link :=
  match k.lastEdge with
  | none => { k with edges := [now], lastEdge := some now, goodEdges := 1 }
  | some e =>
    let p := k.span16 b / 16
    let want := e + p
    if (((now : Int) - want).natAbs ≤ 2 * nsF) then
      let edges := (now :: k.edges).take 17
      { k with edges, lastEdge := some now, goodEdges := k.goodEdges + 1
               extrap := if 16 ≤ k.goodEdges + 1 then false else k.extrap
               span := if edges.length = 17 then now - edges.getLastD now else k.span }
    else
      { k with edges := [], goodEdges := 0, extrap := true, sysrefErr := satAdd 32 k.sysrefErr 1
               lastEdge := some (e + (now - e + p / 2) / p * p) }

/-- No edge within 1.5 periods of the expected instant. -/
def Link.edgeTimeout (b : Bytes) (now : Fine) (k : Link) : Link :=
  match k.lastEdge with
  | none => k
  | some e =>
    let p := k.span16 b / 16
    if e + p + p * 3 / 2 ≤ now then
      { k with edges := [], goodEdges := 0, extrap := true, sysrefErr := satAdd 32 k.sysrefErr 1
               lastEdge := some (e + (now - e) / p * p) }
    else k

/-- The link moves on by one sample: at a SYSREF period's end it counts from the next edge. -/
def Link.nextSample (b : Bytes) (k : Link) : Link :=
  let q := sysrefQ b
  if q ≤ k.n + 1 then
    { k with n := k.n + 1 - q
             base := if k.extrap then k.base + k.span16 b / 16 else k.lastEdge.getD (k.base + k.span16 b / 16) }
  else { k with n := k.n + 1 }

/-- The instant `back2 / 2` input samples before the present one, less ADC_LAT and CHAN_SKEW (R142, R147). -/
def Link.instant (b : Bytes) (skew : Int) (back2 : Nat) (k : Link) : Fine :=
  ((k.base : Int) + ((2 * k.n : Int) - back2) * k.span16 b / (32 * sysrefQ b : Nat) - b.sle 0x10 4 - skew).toNat

/-- The measured output period of a channel, in 2^-16 ns (R171). -/
def outPeriod (b : Bytes) (k : Link) (r : Nat) : Nat := r * k.span16 b / (16 * sysrefQ b)

/-! ### The chain (R144 to R149) -/

/-- The gain and offset stage, and whether it saturated. -/
def gainStage (p : ChainPar) (bits : Nat) (w : U16) : Int × Bool :=
  let x := toSigned 16 (w.toNat / 2 ^ (16 - bits) * 2 ^ (16 - bits))
  let u := (x * p.gain + 2 ^ 13) / 2 ^ 14 + p.offset
  let v := clampInt (-32768) 32767 u
  (v, v != u)

/-- The integrators take one value; each feeds the next, modulo 2^72. -/
def integrate : List Int → Int → List Int
  | [], _ => []
  | a :: as, x => ((a + x) % 2 ^ 72) :: integrate as ((a + x) % 2 ^ 72)

/-- The combs take one value: new delays and the output, modulo 2^72. -/
def comb : List Int → Int → List Int × Int
  | [], x => ([], x)
  | d :: ds, x =>
    let r := comb ds ((x - d) % 2 ^ 72)
    (x :: r.1, r.2)

/-- The least `k` with `g ≤ 2^k`. -/
def log2Up (g : Nat) : Nat := if g ≤ 1 then 0 else (g - 1).log2 + 1

/-- The normaliser, and whether it saturated (R145). -/
def normalise (p : ChainPar) (y : Int) : Int × Bool :=
  let g := p.l * (if p.r = 1 then 1 else p.r ^ p.n)
  let k := log2Up g
  let m : Nat := 2 ^ (k + 31) / g
  let z := (y * m + 2 ^ (k + 14)) / 2 ^ (k + 15)
  let v := clampInt (-(2 ^ 31)) (2 ^ 31 - 1) z
  (v, v != z)

/-- The quality flags seen in the last `w` inputs. -/
def flagsWithin (ages : Table Nat) (w : Nat) : Quality :=
  BitVec.ofNat 16 ((ages.filter fun a => a.2 < w).foldl (fun q a => q + 2 ^ a.1) 0)

/-- The ages of the flags after one more input. -/
def ageFlags (q : Quality) (ages : Table Nat) : Table Nat :=
  (List.range 13).filterMap fun i =>
    if q.getLsbD i then some (i, 0) else (ages.find? i).bind fun a => if a < 8192 then some (i, a + 1) else none

/-- SKEWCAL applies to a channel (R143, R164). -/
def State.skewcal (s : State) (ch : Nat) (k : Link) : Bool :=
  k.extrap || k.stale || k.lehr.isNone || (s.cal? 1 ch).isNone ||
  (match k.lehr, (s.chan ch).calPhase with
    | some l, some c => 2 * nsF < (l.1 - c).natAbs
    | _, _ => false)

/-- One input sample enters a channel's chain; at every R-th an output leaves it, to be stored 148 ns later. `zero` says
that the sample counts as 0, with the flags `qz`. -/
def State.chainInput (ch : Nat) (b lb : Bytes) (k : Link) (w : U16) (ovr zero : Bool) (qz : Quality) (s : State) : State :=
  let p := chainPar b
  let skew : Int := (s.cal? 1 ch).elim 0 fun d => d.sle 0 4
  let tIn := k.instant lb skew 0
  let c := s.chan ch
  let clears := c.clearAt.any fun t => t ≤ tIn
  let c := if clears then { c with delay := [], integ := [], comb := [], phase := 0, clearAt := none } else c
  let (u, sat) := if zero then (0, false) else gainStage p (lb.u8 4) w
  let q := qOr [qz, s.qSync, qIf (!zero && (sat || (ovr && bitOf (lb.u8 7) 0 && 1 ≤ lb.u8 5))) qOverrange]
  let delay := (u :: c.delay).take p.l
  let sum := delay.foldl (· + ·) 0
  let integ := if p.r = 1 then [] else
    integrate ((List.range p.n).map fun i => c.integ.getD i 0) sum
  let c := { c with delay, integ, qAges := ageFlags q c.qAges
                    sinceData := c.sinceData.map (· + 1), phase := if p.r ≤ c.phase + 1 then 0 else c.phase + 1 }
  if c.phase ≠ 0 then s.modChan ch fun _ => c
  else
    let (combs, y) := if p.r = 1 then ([], sum) else
      comb ((List.range p.n).map fun i => c.comb.getD i 0) (integ.getLastD 0)
    let (x, sat2) := normalise p (if p.r = 1 then y else toSigned 72 (y % 2 ^ 72).toNat)
    let entered := c.sinceData.any fun n => p.response ≤ n
    let changed := c.pendSettle.any fun e => e.1 ≤ tIn
    let settle := if entered || changed then p.settleCount else c.settle
    let t := k.instant lb skew p.delay2
    let q := qOr [flagsWithin c.qAges p.response, qIf sat2 qOverrange, qIf (0 < settle) qSettle, qIf (s.skewcal ch k) qSkewcal,
                  s.qSync]
    let cause := if changed then c.pendSettle.elim 0 (·.2) else 4
    let s := s.modChan ch fun _ =>
      { c with comb := combs, settle := settle - 1, sinceData := if entered then none else c.sinceData
               pendSettle := if changed then none else c.pendSettle
               waiting := c.waiting ++ [(s.now + 148 * nsF, { t, x, q })] }
    s.postIf (entered || changed) (mkEv 0x04 ch t [(1, cause), (1, 0), (2, p.settleCount)])

/-- One sample of every converter enters the chains of the link's channels. -/
def State.linkSample (n : Nat) (lb : Bytes) (blk : JesdBlock) (zero : Bool) (qz : Quality) (s : State) (j : Nat) : State :=
  let k := s.link n
  let s := (s.linkChans n).foldl (fun s r =>
    let cv := r.2.u8 1
    s.chainInput r.1 r.2 lb k ((blk.samples.getD cv []).getD j 0) ((blk.overrange.getD cv []).getD j false) zero qz) s
  s.modLink n (Link.nextSample lb)

/-- A block received on a link (R140). -/
def State.jesdBlock (n : Nat) (blk : JesdBlock) (s : State) : State :=
  match s.rec? 0x401 n with
  | none => s
  | some lb =>
    if lb.u8 0 = 0 then s
    else
      let before := (s.link n).state
      let s := s.modLink n (Link.block (lanesOf lb) blk)
      let after := (s.link n).state
      let s := if after == .data && before != .data then
          (s.linkChans n).foldl (fun s r => s.modChan r.1 fun c => { c with sinceData := some 0 }) s
        else s
      let s := if after != .data then (s.linkChans n).foldl (fun s r => s.modChan r.1 fun c => { c with sinceData := none }) s else s
      let crcBad := after == .data && !blk.crcOk
      let s := if crcBad then s.modLink n fun k => { k with crcErr := satAdd 32 k.crcErr 1 } else s
      let qz := if after != .data then qInvalid ||| qMissing else qIf crcBad qInvalid
      (List.range (blk.samples.headD []).length).foldl (State.linkSample n lb blk (after != .data || crcBad) qz) s

/-- A rising SYSREF edge reaches all four links (R138, R142). -/
def State.sysref (s : State) : State :=
  (s.recs 0x401).foldl (fun s r => s.modLink r.1 (Link.edge r.2 s.now)) s

/-- SYSREF_TIMEOUT of a link (R143). -/
def State.sysrefTimeout (n : Nat) (s : State) : State :=
  match s.rec? 0x401 n with
  | none => s
  | some b => s.modLink n (Link.edgeTimeout b s.now)

/-- The Lehr runs: firmware has booted and no stage sheds it (R467, R468). -/
def State.lehrRuns (s : State) : Bool := s.fwRuns && s.gaf.mode != .boot && s.pwr.stage == 0 && !s.part.inReset

/-- The Lehr measures a link (R164). -/
def State.lehrSkew (n : Nat) (phase : U32) (s : State) : State :=
  if s.lehrRuns then s.modLink n fun k => { k with lehr := some (phase.toInt, s.now), stale := false } else s

/-- The last Lehr measurement of a link has become older than 60 s (R164). -/
def State.skewStale (n : Nat) (s : State) : State :=
  if (s.link n).lehr.any fun l => l.2 + 60 * secF < s.now then s.modLink n fun k => { k with stale := true } else s

/-! ### Meanings -/

/-- JESD_BLOCK_RX (R140 to R149). -/
def execJesdBlockRx (dt : Nat) (link : Fin 4) (b : JesdBlock) (s : State) : Host.Outcome State Fault Refusal :=
  goOn dt (State.jesdBlock link.val b) s

/-- SYSREF_EDGE (R142, R143). -/
def execSysrefEdge (dt : Nat) (s : State) : Host.Outcome State Fault Refusal := goOn dt State.sysref s

/-- SYSREF_TIMEOUT (R143). -/
def execSysrefTimeout (dt : Nat) (link : Fin 4) (s : State) : Host.Outcome State Fault Refusal :=
  goOn dt (State.sysrefTimeout link.val) s

/-- LEHR_SKEW_MEASURE (R164). -/
def execLehrSkewMeasure (dt : Nat) (link : Fin 4) (phase : U32) (s : State) : Host.Outcome State Fault Refusal :=
  goOn dt (State.lehrSkew link.val phase) s

/-- SKEWCAL_STALE (R164). -/
def execSkewcalStale (dt : Nat) (link : Fin 4) (s : State) : Host.Outcome State Fault Refusal :=
  goOn dt (State.skewStale link.val) s

end Sys2Proof.Machine
end

