-- ==== Sys2Proof/Machine/Mailbox.lean ====
section
/-!
DEFINITION. Completions, response rings, host buffers and the order of operations (R46 to R60, R71).
-/
namespace Sys2Proof.Machine

/-- What a host command answers when it has been carried out as far as it can be at once: a completion (R55), or a wait. -/
inductive Reply where
  | done (r : Result) (detail : Nat) (data : Bytes) (hostBuf : Bool) (extra : Bytes)
  | wait (w : Wait)
  deriving DecidableEq, Repr

/-- OK with inline data. -/
def okWith (data : Bytes) : Reply := .done .ok 0 data false []
/-- OK without data. -/
def okNone : Reply := okWith []
/-- BAD_FIELD at a byte offset from the command header (R60). -/
def badField (off : Nat) : Reply := .done .badField off [] false []
/-- BAD_FIELD at a payload offset (R60). -/
def badAt (p : Nat) : Reply := badField (0x10 + p)
/-- NO_RESOURCE with a resource code. -/
def noRes (code : Nat) : Reply := .done .noResource code [] false []
/-- WRONG_MODE with a condition code of R67. -/
def wrongMode (code : Nat) : Reply := .done .wrongMode code [] false []
/-- BUSY with the owner's mailbox or 0x10 for PWR_WARN. -/
def busy (d : Nat) : Reply := .done .busy d [] false []

/-- The mailbox of a number. -/
def State.mb (s : State) (n : Nat) : Mailbox := s.mbx.get { } n
/-- Writes a mailbox. -/
def State.setMb (n : Nat) (m : Mailbox) (s : State) : State := { s with mbx := s.mbx.put n m }

/-- Mailboxes assigned to MOE by the MOE_PORT record, while F_MOE is committed (R70). -/
def State.moeMask (s : State) : Nat := if s.feat 11 then s.fld 0xA08 0 0 (·.u16 4) else 0
/-- MBX_STATE.MOE. -/
def State.isMoe (s : State) (n : Nat) : Bool := bitOf s.moeMask n

/-- RING_FULL: completions wait for room (R46, R57). -/
def Mailbox.ringFull (m : Mailbox) : Bool := !m.held.isEmpty
/-- The ring has no free entry (R57). -/
def Mailbox.full (m : Mailbox) : Bool := (m.prod - m.cons).toNat ≥ 64

/-- An entry as it is written now; one that announces a reset names its instant (R55, R66). -/
def Completion.stamp (now : Nat) (c : Completion) : Completion :=
  { c with tDone := now, data := if c.boot && c.opcode == 3 then leBytes 8 (now + 100000) else c.data }

/-- The reset that a written entry announces begins 100 µs later (R66, R457). -/
def State.announceReset (c : Completion) (s : State) : State :=
  if c.boot then { s with gaf := { s.gaf with bootAt := some (s.now + 100000 * nsF) } } else s

/-- Writes one completion into the ring and sets the NOTIFY bit (R56). -/
def State.writeEntry (n : Nat) (c : Completion) (s : State) : State :=
  let m := s.mb n
  let s := s.setMb n { m with ring := m.ring.put (m.prod.toNat % 64) (c.stamp s.nowNs), prod := m.prod + 1 }
  let s := s.announceReset c
  if c.notify then s.setIrq n else s

/-- Hands a decided completion to its path: the ring, or behind a full ring (R57), or an MOE datagram (R71). -/
def State.sendEntry (o : Op) (c : Completion) (s : State) : State :=
  let n := o.h.mb.val
  let m := s.mb n
  match o.h.path with
  | .moe =>
    let c := c.stamp s.nowNs
    ((s.setMb n { m with kept := ({ c with boot := false } :: m.kept).take 256 }).announceReset c).emit
      (.moe n o.moeSeq o.moeSrc [c])
  | .pcie => if m.ringFull || m.full then s.setMb n { m with held := m.held ++ [c] } else s.writeEntry n c

/-- The objects a command names (R58), as (kind, number). -/
def objectsOf : HostCmd → List (Nat × Nat)
  | .configCommit t _ | .configAbort t _ | .place t _ => if t = 0 then [] else [(0, t.toNat)]
  | .staging _ e => if e.txn = 0 then [] else [(0, e.txn.toNat)]
  | .settingsRead i _ _ _ => [(1, i.toNat)]
  | .segmentRead g _ _ _ => [(2, g.toNat)]
  | .acqArm _ g _ _ _ => [(2, g.toNat)]
  | .valveSleep l _ => (List.range 24).filterMap fun i => if bitOf l.toNat i then some (3, i) else none
  | .valveWake l _ _ _ _ => (List.range 24).filterMap fun i => if bitOf l.toNat i then some (3, i) else none
  | .logicRun t _ _ => (List.range 8).filterMap fun i => if bitOf t.toNat i then some (4, i) else none
  | .logicStop t _ _ => (List.range 8).filterMap fun i => if bitOf t.toNat i then some (4, i) else none
  | .traceConfigure _ _ | .traceRead _ _ _ _ _ _ => [(5, 0)]
  | .calWrite _ _ _ _ => [(6, 0)]
  | .calRead _ _ _ _ => [(6, 0)]
  | _ => []

/-- Whether two commands name a common object. -/
def sameObject (a b : HostCmd) : Bool := (objectsOf a).any fun x => (objectsOf b).contains x

/-- Splits off the first operation whose decided completion may be written: no earlier operation of its mailbox that
names a common object is unfinished (R58). -/
def settleOne (before : List Op) : List Op → Option (Op × Completion × List Op)
  | [] => none
  | o :: os =>
    match o.outcome with
    | some c =>
      if before.any fun b => b.h.mb == o.h.mb && sameObject b.cmd o.cmd then settleOne (before ++ [o]) os
      else some (o, c, before ++ os)
    | none => settleOne (before ++ [o]) os

/-- Writes every completion that may be written. -/
def State.settleN : Nat → State → State
  | 0, s => s
  | n + 1, s =>
    match settleOne [] s.gaf.ops with
    | none => s
    | some (o, c, rest) => (State.sendEntry o c { s with gaf := { s.gaf with ops := rest } }).settleN n

/-- Writes every completion that may be written (R58). -/
def State.settle (s : State) : State := s.settleN s.gaf.ops.length

/-- The opcode of a command (R65). -/
def HostCmd.opcode : HostCmd → Nat
  | .hello .. => 0x01
  | .featuresCommit .. => 0x02
  | .modeSet .. => 0x03
  | .statusGet => 0x04
  | .configBegin .. => 0x10
  | .staging op _ => op
  | .configCommit .. => 0x12
  | .configAbort .. => 0x13
  | .settingsRead .. => 0x23
  | .place .. => 0x30
  | .placementGet .. => 0x31
  | .acqArm .. => 0x51
  | .segmentRead .. => 0x52
  | .convSetpoint .. => 0x61
  | .traceConfigure .. => 0x63
  | .traceRead .. => 0x64
  | .valveSleep .. => 0x71
  | .valveWake .. => 0x72
  | .logicRun .. => 0x81
  | .logicStop .. => 0x82
  | .timeIncrementWrite .. => 0xA1
  | .timeStep .. => 0xA2
  | .eventAck .. => 0xB0
  | .recordList .. => 0xB1
  | .recordRead .. => 0xB2
  | .pairRevert .. => 0xC1
  | .calWrite .. => 0xD0
  | .calRead .. => 0xD1
  | .fwUpdate .. => 0xE0
  | .badLength op _ => op
  | .unknown op => op

/-- The completion of an operation (R55). DATA holds at most 40 bytes. -/
def mkCompletion (h : CmdHead) (opcode : Nat) (r : Result) (detail : Nat) (data : Bytes) (cflags : Nat)
    (extra : Bytes) : Completion :=
  { tag := h.tag, opcode, result := r.code, cflags, detail, data := data.take 40, tDone := 0
    notify := bitOf h.flags.toNat 1, extra }

/-- A command that resets the device when it succeeds: MODE_SET BOOT and FW_UPDATE ACTIVATE. -/
def HostCmd.boots : HostCmd → Bool
  | .modeSet m _ _ => m == 1
  | .fwUpdate op _ _ _ _ => op == 3
  | _ => false

/-- Decides the completion of the operation with a sequence number, and writes what may be written. -/
def State.finishOp (seq : Nat) (r : Result) (detail : Nat) (data : Bytes) (hostBuf : Bool := false)
    (extra : Bytes := []) (s : State) : State :=
  let upd (o : Op) : Op :=
    if o.seq == seq && o.outcome.isNone then
      { o with started := true
               outcome := some { mkCompletion o.h o.cmd.opcode r detail data (if hostBuf then 2 else 0) extra with
                                 boot := o.cmd.boots && r == .ok } }
    else o
  State.settle { s with gaf := { s.gaf with ops := s.gaf.ops.map upd } }

/-- Completes every operation that waits as `p` says, with OK and the data `f` gives it. -/
def State.finishWaiting (p : Op → Bool) (f : Op → Result × Nat × Bytes) (s : State) : State :=
  (s.gaf.ops.filter fun o => o.started && o.outcome.isNone && p o).foldl
    (fun s o => let (r, d, b) := f o; s.finishOp o.seq r d b) s

/-- What an operation answered: its completion, or what it waits for. -/
def State.applyReply (seq : Nat) (r : Reply) (s : State) : State :=
  match r with
  | .done r d b hb ex => s.finishOp seq r d b hb ex
  | .wait w =>
    { s with gaf := { s.gaf with ops := s.gaf.ops.map fun o => if o.seq == seq then { o with started := true, wait := w } else o } }

/-- A tag is in flight: its operation's completion entry has not been written (R53). -/
def State.tagInFlight (s : State) (tag : U16) : Bool :=
  (s.gaf.ops.any fun o => o.h.tag == tag) || s.mbx.any fun m => m.2.held.any fun c => c.tag == tag

/-- Operations in flight of one mailbox (MBX_INFLIGHT). -/
def State.inFlight (s : State) (n : Nat) : Nat :=
  (s.gaf.ops.filter fun o => o.h.mb.val == n).length + (s.mb n).held.length

/-- Operations in flight on all mailboxes (R69). -/
def State.inFlightAll (s : State) : Nat := s.gaf.ops.length + s.mbx.foldl (fun a m => a + m.2.held.length) 0

/-! ### Host buffers (R51) -/

/-- The offset of the first bad field of a buffer descriptor at payload offset `p`, for data that the device returns. -/
def bufBad (b : BufDesc) (p : Nat) (path : Path) : Option Nat :=
  if b.addr.toNat % 4 ≠ 0 || (b.kind ≠ 1 && b.addr ≠ 0) then some p
  else if b.len.toNat % 4 ≠ 0 then some (p + 8)
  else if 2 < b.kind.toNat || (b.kind = 2 && path == .pcie) then some (p + 0xC)
  else if b.rsv ≠ 0 then some (p + 0xE)
  else none

/-- Room that a descriptor offers: nothing for KIND 0. -/
def bufRoom (b : BufDesc) : Nat := if b.kind = 0 then 0 else b.len.toNat

/-- The bytes of a host buffer after a TIMEOUT are undefined (R52). -/
def spoilBuf (b : BufDesc) (s : State) : State :=
  if b.kind = 1 then
    { s with hostMem := Mem.writeBytes 0 s.hostMem b.addr.toNat ((List.range b.len.toNat).map (Config.hostByte s.free)), free := s.free + 1 }
  else s

/-- How an access to a host buffer ends: with the PCIe link down nothing answers (R52). -/
def State.hostMeets (b : BufDesc) (s : State) : HostAnswer := if s.part.pcieUp then b.host else .silent

/-- Writes returned data through a descriptor and answers OK with inline data (R51, R52): KIND 1 into host memory, KIND 2
beside the completion. A write that is not answered leaves the command waiting; one that ends in an error status ends it with
TIMEOUT. -/
def State.deliver (b : BufDesc) (data inline_ : Bytes) (s : State) : State × Reply :=
  let d := data.take (bufRoom b)
  if b.kind = 1 then
    if d.isEmpty then (s, .done .ok 0 inline_ false [])
    else match s.hostMeets b with
      | .answers => ({ s with hostMem := Mem.writeBytes 0 s.hostMem b.addr.toNat d }, .done .ok 0 inline_ true [])
      | .silent => (s, .wait (.host s.now))
      | .aborts => (spoilBuf b s, .done .timeout 0 [] false [])
  else (s, .done .ok 0 inline_ false (padTo 16 d))

/-- How many entries of `size` bytes fit whole in a descriptor (R51). -/
def bufFits (b : BufDesc) (size n : Nat) : Nat := min n (bufRoom b / size)

end Sys2Proof.Machine
end

