-- ==== Sys2Proof/Machine/AcqGroup.lean ====
section
/-!
DEFINITION. Detectors, triggers, channel groups, segments and their measurements (R150 to R171).
-/
namespace Sys2Proof.Machine

/-- The ten bytes of a T80 (R6). -/
def t80Bytes (t : Fine) : Bytes := packLe [(8, t / nsF), (2, t % nsF)]

/-- The group of a number. -/
def State.grp (s : State) (n : Nat) : Group := s.acq.groups.get { } n
/-- Changes a group. -/
def State.modGrp (n : Nat) (f : Group → Group) (s : State) : State :=
  { s with acq := { s.acq with groups := s.acq.groups.put n (f (s.grp n)) } }
/-- The segment of a number. -/
def Group.seg (g : Group) (i : Nat) : Segment := g.segs.get { } i
/-- Changes a segment. -/
def Group.modSeg (i : Nat) (f : Segment → Segment) (g : Group) : Group := { g with segs := g.segs.put i (f (g.seg i)) }

/-- The channels of a group in ascending order (R155). -/
def State.grpChans (s : State) (n : Nat) : List Nat := ((s.recs 0x402).filter fun r => r.2.u8 0xA == n).map (·.1)
/-- A flag of GFLAGS. -/
def State.gflag (s : State) (n bit : Nat) : Bool := bitOf (s.fld 0x403 n 0 (·.u8 3)) bit
/-- TRIG_MASK of a group. -/
def State.trigMask (s : State) (n : Nat) : Nat := s.fld 0x403 n 0 (·.u64 0x10)
/-- The measured output period of a channel (R171). -/
def State.outPeriod (s : State) (ch : Nat) : Nat :=
  match s.rec? 0x402 ch with
  | none => 0
  | some b => s.fld 0x401 (b.u8 0) 0 fun lb => Sys2Proof.Machine.outPeriod lb (s.link (b.u8 0)) (b.u16 8)

/-- Crossings are placed between samples in a group (R153, R165). -/
def State.interp (s : State) (g : Nat) : Bool := !s.isL && s.feat 2 && s.gflag g 2

/-! ### Interpolated placement (R165) -/

/-- Six times the cubic through four values at `u / 2^16`, times 2^48. -/
def cubic6 (y0 y1 y2 y3 : Int) (u : Int) : Int :=
  let o : Int := 65536
  y3 * (u + o) * u * (u - o) - y0 * u * (u - o) * (u - 2 * o) + 3 * y1 * (u + o) * (u - o) * (u - 2 * o) -
    3 * y2 * (u + o) * u * (u - 2 * o)

/-- The crossing of a threshold between `y1` and `y2` by 16 steps of bisection, in 2^-16 of the output period. -/
def bisect (y0 y1 y2 y3 thr : Int) (rising : Bool) : Nat :=
  (List.range 16).foldl (fun (u k : Nat) =>
    let v : Nat := u + 2 ^ (15 - k)
    let e := cubic6 y0 y1 y2 y3 v - 6 * thr * 2 ^ 48
    if (if rising then e < 0 else 0 < e) then v else u) 0

/-! ### Segments (R156 to R160) -/

/-- A segment to take: a free one, or under FULL_MODE 0 the oldest closed one that is not being copied and on which no FLOC_TW instance
still has to execute (R159, R240). -/
def State.segToTake (n : Nat) (s : State) : Option (Nat × Bool) :=
  let g := s.grp n
  let total := s.fld 0x403 n 0 (·.u16 0)
  match (List.range total).find? fun i => (g.seg i).state == .free with
  | some i => some (i, false)
  | none =>
    if s.fld 0x403 n 1 (·.u8 2) = 0 then
      ((List.range total).foldl (fun (m : Option Nat) i =>
        let x := g.seg i
        if x.state != .closed || x.copying || !x.waits.isEmpty then m
        else match m with
          | none => some i
          | some j => if x.seq < (g.seg j).seq then some i else m) none).map fun i => (i, true)
    else none

/-- Takes a segment and enters PARISON, or FULL where there is none (R157, R158). `keep` says that the ring goes on. -/
def State.enterParison (n : Nat) (keep : Bool) (s : State) : State :=
  match s.segToTake n with
  | none => s.modGrp n fun g => { g with state := .full, cur := none, ring := [], latched := none }
  | some (i, again) =>
    let chans := s.grpChans n
    s.modGrp n fun g =>
      { g.modSeg i (fun _ => { state := .open_ }) with
        state := .parison, cur := some i, fire := none, retrig := 0, hold := none
        overwrite := if again then satAdd 32 g.overwrite 1 else g.overwrite
        ring := if keep then g.ring else []
        chans, pre := s.fld 0x403 n 0 (·.u32 4), post := s.fld 0x403 n 1 (·.u32 8) }

/-- Discards the segment being filled. -/
def Group.discard (g : Group) : Group :=
  let g := match g.cur with
    | none => g
    | some i => g.modSeg i fun _ => { }
  { g with cur := none, ring := [], fire := none, hold := none, retrig := 0 }

/-- A group goes IDLE (R157). -/
def Group.toIdle (g : Group) : Group := { g.discard with state := .idle, mode := .none, disarm := false, latched := none }

/-- DISARM takes effect: in POST it waits for the segment to close (R158). -/
def Group.disarmNow (g : Group) : Group :=
  match g.state with
  | .post | .rearm => { g with disarm := true }
  | .parison | .full => g.toIdle
  | .idle => g

/-- The triggers of a group lose their PRIMED bits when it is armed (R151). -/
def State.unprime (n : Nat) (s : State) : State :=
  let mask := s.trigMask n
  { s with acq := { s.acq with trigs := s.acq.trigs.map fun (t : Nat × Trig) =>
      (t.1, if bitOf mask t.1 then { t.2 with up := false, down := false, pend := none } else t.2) } }

/-- Arms an idle group (R157, R170); from shedding stage 2 the arm waits for the recovery (R161). -/
def State.armGroup (n : Nat) (mode : ArmMode) (s : State) : State :=
  if (s.grp n).state != .idle then s
  else if 2 ≤ s.pwr.stage then s.modGrp n fun g => { g with shedMode := mode }
  else (s.unprime n).modGrp n (fun g => { g with mode, disarm := false }) |>.enterParison n false

/-! ### Fires (R153, R154, R158, R168) -/

/-- The earlier fire decides; of equal stamps the lower device, then the lower trigger, and the masks are joined. -/
def Fire.join (a b : Fire) : Fire :=
  if b.t < a.t || (b.t == a.t && b.origin < a.origin) then b
  else if a.t < b.t || a.origin < b.origin then a
  else { a with cause := min a.cause b.cause, mask := a.mask ||| b.mask }

/-- A fire of a group. Answers whether it took the group from PARISON to POST; the recorders look at such a fire (R406). -/
def State.groupFire (n : Nat) (f : Fire) (s : State) : State × Bool :=
  let g := s.grp n
  let cascade := s.gflag n 1
  match g.state with
  | .parison =>
    let s := s.modGrp n fun g => { g with state := .post, fire := some f, hold := if cascade then some (s.now + 300 * nsF) else none }
    let s := if s.rec_.ddr then { s with rec_ := { s.rec_ with fires := s.rec_.fires ++ [(n, f.t)] } } else s
    (if cascade && f.origin == s.cd then
        s.emit (.casFire { group := ⟨n % 8, Nat.mod_lt _ (by decide)⟩, origin := ⟨s.cd % 4, Nat.mod_lt _ (by decide)⟩
                           armSeq := BitVec.ofNat 32 g.armSeq, tFire := f.t })
      else s, true)
  | .post =>
    let movable := !cascade || g.hold.isSome
    (s.modGrp n fun g =>
      match g.fire with
      | none => { g with fire := some f }
      | some old => if movable && f.t ≤ old.t then { g with fire := some (old.join f) } else { g with retrig := min 0xFFFF (g.retrig + 1) },
     false)
  | .rearm =>
    (s.modGrp n fun g =>
      if f.t ≤ g.lastPost then
        let last := (List.find? (fun (x : Nat × Segment) => x.2.state == .closed && x.2.seq == g.seq) g.segs).map (·.1)
        last.elim g fun i => g.modSeg i fun x => { x with retrig := min 0xFFFF (x.retrig + 1) }
      else { g with latched := some (g.latched.elim f (·.join f)) }, false)
  | .full => (s.modGrp n fun g => { g with missed := satAdd 32 g.missed 1 }, false)
  | .idle => (s, false)

/-- The cascade triggers that fire with a group (R152). -/
def State.cascadeTrigs (n : Nat) (s : State) : List Nat :=
  ((s.recs 0x404).filter fun r => r.2.u8 0 == 5 && r.2.u16 2 == n).map (·.1)

/-- Fires of triggers reach the groups that listen, and through them cascade triggers; `which` picks the groups. -/
def State.fireTrigs : Nat → List (Nat × Fine × Nat × (Nat → Bool)) → State → State
  | 0, _, s => s
  | _, [], s => s
  | fuel + 1, (t, stamp, origin, which) :: rest, s =>
    let groups := (List.range 8).filter fun g => bitOf (s.trigMask g) t && which g && (s.rec? 0x403 g).isSome
    let (s, fired) := groups.foldl (fun (p : State × List Nat) g =>
      let (s', hit) := p.1.groupFire g { t := stamp, cause := t, origin, mask := 2 ^ t }
      (s', if hit then p.2 ++ [g] else p.2)) (s, [])
    let more := fired.flatMap fun g => (s.cascadeTrigs g).map fun c => (c, stamp, origin, fun _ => true)
    s.fireTrigs fuel (rest ++ more)

/-- A trigger fires with a stamp on this device, for the groups that `which` picks. -/
def State.fire (t : Nat) (stamp : Fine) (which : Nat → Bool) (s : State) : State :=
  s.fireTrigs 512 [(t, stamp, s.cd, which)]

/-- A group is fired directly, and its cascade triggers with it (R163, R168). -/
def State.fireGroup (n : Nat) (f : Fire) (s : State) : State :=
  let (s, hit) := s.groupFire n f
  if hit then s.fireTrigs 512 ((s.cascadeTrigs n).map fun c => (c, f.t, f.origin, fun _ => true)) else s

/-- Fires every external trigger of a source among those of `mask` (R152). -/
def State.fireExternal (source mask : Nat) (stamp : Fine) (s : State) : State :=
  (s.recs 0x404).foldl (fun s r =>
    if r.2.u8 0 = 4 && r.2.u8 1 = source && bitOf mask r.1 then s.fire r.1 stamp fun _ => true else s) s

/-! ### Triggers on a channel (R151, R153, R165) -/

/-- The value a trigger watches, `i` values back: the source, or its difference for a slope trigger. -/
def trigVal (b : Bytes) (t : Trig) (i : Nat) : Option (Int × Quality × Fine) :=
  match t.hist[i]?, b.u8 0 with
  | none, _ => none
  | some v, 2 => (t.hist[i + b.u8 5]?).map fun w => (v.x - w.x, qOr [v.q, w.q], v.t)
  | some v, _ => some (v.x, v.q, v.t)

/-- One direction of a trigger: the new PRIMED bit and whether it fires. -/
def watch (primed primes fires : Bool) : Bool × Bool :=
  let p := primed || primes
  if p && fires then (false, true) else (p, false)

/-- A trigger takes a source value, at the front of its history: new bits and the crossings that fired, each as whether it
rises and the bound it crossed. `k` scales the thresholds to the source's unit. -/
def Trig.eval (b : Bytes) (k : Int) (t : Trig) : Trig × List (Bool × Int) :=
  match trigVal b t 0 with
  | none => (t, [])
  | some (x, q, _) =>
    if qHas (qInvalid ||| qSettle) q then (t, [])
    else
      let a := b.sle 8 4 * k
      let c := b.sle 0xC 4 * k
      let h := b.sle 0x10 4 * k
      let prev := (trigVal b t 1).elim x (·.1)
      let (up, down) : (Bool × Bool) × (Bool × Bool) := match b.u8 0 with
        | 1 => (watch t.up (x ≤ a - h) (a ≤ x), watch t.down (a + h ≤ x) (x ≤ a))
        | 2 => (watch t.up (x ≤ a - h) (a ≤ x), watch t.down (-x ≤ a - h) (a ≤ -x))
        | _ => (watch t.up (x ≤ a - h || c + h ≤ x) (a ≤ x && x ≤ c), watch t.down (a + h ≤ x && x ≤ c - h) (x < a || c < x))
      let useUp := b.u8 4 != 1
      let useDown := b.u8 4 != 0
      let fu := match b.u8 0 with
        | 3 => if prev < a then (true, a) else (false, c)
        | _ => (true, a)
      let fd := match b.u8 0 with
        | 1 => (false, a)
        | 2 => (false, -a)
        | _ => if x < a then (false, a) else (true, c)
      ({ t with up := useUp && up.1, down := useDown && down.1 },
       (if useUp && up.2 then [fu] else []) ++ if useDown && down.2 then [fd] else [])

/-- A source value reaches one trigger. -/
def State.trigInput (n : Nat) (b : Bytes) (k : Int) (v : AqOut) (s : State) : State :=
  let t := s.acq.trigs.get { } n
  let t := { t with hist := (v :: t.hist).take 72 }
  let chain := b.u8 1 == 0
  let stamped : Option Fine := t.pend.bind fun p =>
    match trigVal b t 0, trigVal b t 1, trigVal b t 2 with
    | some y3, some y2, some y1 =>
      let y0 := (trigVal b t 3).elim y1.1 (·.1)
      some (y1.2.2 + bisect y0 y1.1 y2.1 y3.1 p.2 p.1 * s.outPeriod (b.u16 2) / 65536)
    | _, _, _ => none
  let (t', fires) := Trig.eval b k { t with pend := none }
  let t' := { t' with pend := if chain then fires.head? else none }
  let s := { s with acq := { s.acq with trigs := s.acq.trigs.put n t' } }
  let s := match stamped with
    | some f => s.fire n f fun g => s.interp g
    | none => s
  if fires.isEmpty then s else s.fire n v.t fun g => !(chain && s.interp g)

/-- A source value reaches every trigger that watches it: source 0 chain, 1 envelope, 2 RMS. -/
def State.trigSource (ch source : Nat) (k : Int) (v : AqOut) (s : State) : State :=
  (s.recs 0x404).foldl (fun s r =>
    if within 1 3 (r.2.u8 0) && r.2.u8 1 == source && r.2.u16 2 == ch then s.trigInput r.1 r.2 k v else s) s

/-! ### Measurements (R162) -/

/-- A valid sample of a segment: index and value. -/
abbrev Pt := Nat × Int

/-- Crossings of a level, rising, between neighbouring samples: the position as a fraction of samples, and the second index. -/
def crossing (thr : Int) (a b : Pt) : Option (Int × Int × Nat) :=
  if a.2 < thr && thr ≤ b.2 then
    let d := b.2 - a.2
    some ((a.1 : Int) * d + (thr - a.2) * ((b.1 : Int) - a.1), d, b.1)
  else none

/-- Neighbouring pairs of a list. -/
def pairs {α : Type} (l : List α) : List (α × α) := l.zip (l.drop 1)

/-- The distance of two positions in ns, as FP32. -/
def spanNs (tOut : Nat) (a b : Int × Int × Nat) (div : Nat) : Fp :=
  Fp.ofRat ((b.1 * a.2.1 - a.1 * b.2.1) * tOut) (a.2.1 * b.2.1 * 65536 * div).toNat

/-- The first rising crossing of `thr20` twentieths of AMPL at or after the trigger point and a position. -/
def firstCross (pts : List Pt) (thr : Int) (fromIdx : Nat) (after : Option (Int × Int × Nat)) : Option (Int × Int × Nat) :=
  (pairs pts).findSome? fun p =>
    if p.2.1 < fromIdx then none
    else match crossing thr p.1 p.2, after with
      | some c, some a => if a.1 * c.2.1 ≤ c.1 * a.2.1 then some c else none
      | c, none => c
      | none, _ => none

/-- Rising crossings of half AMPL, each after a return beyond 5 % of it. -/
def halfCrossings (amp : Int) (pts : List Pt) : List (Int × Int × Nat) :=
  ((pairs pts).foldl (fun (acc : Bool × List (Int × Int × Nat)) p =>
    let primed := acc.1 || p.1.2 ≤ 9 * amp
    match crossing (10 * amp) p.1 p.2 with
    | some c => if primed then (false, acc.2 ++ [c]) else (primed, acc.2)
    | none => (primed, acc.2)) (true, [])).2

/-- Measures one channel of a segment: samples with quality, the trigger point's index, whether crossings are placed
between samples, ARRIVAL_THR, the output period and the instant of the first sample. -/
def measure (xs : List AqOut) (pre : Nat) (ip : Bool) (thr : Int) (tOut : Nat) : SegMeas :=
  let pts : List Pt := (xs.zipIdx.filter fun v => !qHas qInvalid v.1.q).map fun v => (v.2, v.1.x)
  let mqual := qOr ((xs.filter fun v => !qHas qInvalid v.q).map (·.q))
  let before := pts.filter fun p => p.1 < pre
  let after := pts.filter fun p => pre ≤ p.1
  let base := if before.isEmpty then 0 else roundDivEven (before.foldl (fun a p => a + p.2) 0) before.length
  let far := after.foldl (fun (m : Option Pt) p => match m with
    | none => some p
    | some q => if (q.2 - base).natAbs < (p.2 - base).natAbs then some p else m) none
  let ampl := far.elim 0 fun p => p.2 - base
  let peak := pts.foldl (fun (m : Option Pt) p => match m with
    | none => some p
    | some q => if q.2.natAbs < p.2.natAbs then some p else m) none
  let dir : Int := if ampl < 0 then -1 else 1
  let amp := ampl * dir
  let ys : List Pt := pts.map fun p => (p.1, 20 * dir * (p.2 - base))
  let c10 := if amp = 0 then none else firstCross ys (2 * amp) pre none
  let rise := match c10 with
    | none => 0
    | some a => match firstCross ys (18 * amp) pre (some a) with
      | none => 0
      | some b => spanNs tOut a b 1
  let halves := if amp = 0 then [] else halfCrossings amp ys
  let period := match halves.head?, halves.getLast? with
    | some a, some b => if halves.length < 2 then 0 else spanNs tOut a b (halves.length - 1)
    | _, _ => 0
  let arrival := (after.find? fun p => thr ≤ ((p.2 - base).natAbs : Int)).bind fun p =>
    let x (i : Nat) (d : Int) : Int := (xs[i]?).elim d (·.x)
    let y2 := p.2
    let y1 := if p.1 = 0 then y2 else x (p.1 - 1) y2
    let rising := base ≤ y2
    let level := if rising then base + thr else base - thr
    let crossed := if rising then y1 < level else level < y1
    let at_ (i : Nat) : Option Fine := (xs[i]?).map (·.t)
    if ip && crossed && 0 < p.1 then
      (at_ (p.1 - 1)).map fun t => t + bisect (if p.1 < 2 then y1 else x (p.1 - 2) y1) y1 y2 (x (p.1 + 1) y2) level rising * tOut / 65536
    else at_ p.1
  { mqual, base, ampl, peak := peak.elim 0 (·.2), peakIndex := peak.elim 0 (·.1), rise, period, arrival }

/-- The crossing of BASE + 0.5 AMPL of a channel, placed as a trigger stamp (R163). -/
def halfPoint (xs : List AqOut) (m : SegMeas) (ip : Bool) (tOut : Nat) : Option Fine :=
  let up := 0 ≤ m.ampl
  let lvl := 2 * m.base + m.ampl
  let x (i : Nat) : Int := 2 * (xs[i]?).elim 0 (·.x)
  ((List.range xs.length).find? fun i => 0 < i && (if up then x (i - 1) < lvl && lvl ≤ x i else lvl < x (i - 1) && x i ≤ lvl)).bind
    fun i =>
      if ip then
        (xs[i - 1]?).map fun v =>
          v.t + bisect (if i < 2 then x (i - 1) else x (i - 2)) (x (i - 1)) (x i) (if i + 1 < xs.length then x (i + 1) else x i) lvl up * tOut / 65536
      else (xs[i]?).map (·.t)

/-! ### Closing (R157, R158, R163, R171) -/

/-- The ring of a channel split at a fire: pre-trigger outputs and those from the trigger point on, oldest first. -/
def splitRing (g : Group) (ch : Nat) : List AqOut × List AqOut :=
  let all := (g.ring.get [] ch).reverse
  match g.fire with
  | none => (all, [])
  | some f => all.span fun v => v.t < f.t

/-- Whether every channel of the segment has its post-trigger samples. -/
def Group.complete (g : Group) : Bool :=
  g.state == .post && !g.chans.isEmpty && g.chans.all fun c => g.post ≤ (splitRing g c).2.length

/-- OR of the quality words of each block of 64 samples (R156). The fuel counts blocks. -/
def blockQuals : Nat → List Quality → List Quality
  | 0, _ => []
  | n + 1, qs => if qs.isEmpty then [] else qOr (qs.take 64) :: blockQuals n (qs.drop 64)

/-- DELTA of a channel that shows no crossing is not stated (log entry 19). -/
def skewDelta (free : Nat) (first own : Option Fine) : Int :=
  match first, own with
  | some a, some b => (b : Int) - a
  | _, _ => (Config.unstated 2 free).toInt

/-- Closes the segment of a group (R157, R158). -/
def State.closeSegment (n : Nat) (s : State) : State :=
  let g := s.grp n
  match g.cur, g.fire with
  | some i, some f =>
    let pre := g.chans.foldl (fun m c => min m (splitRing g c).1.length) g.pre
    let parts := g.chans.map fun c =>
      let (a, b) := splitRing g c
      (c, a.drop (a.length - pre) ++ b.take g.post, b.drop g.post)
    let ch0 := g.chans.headD 0
    let tOut := s.outPeriod ch0
    let first := (parts.headD (0, [], [])).2.1
    let ip := s.interp n
    let meas := parts.map fun p => (p.1, measure p.2.1 pre ip (s.fld 0x402 p.1 0 (·.u32 0x18)) tOut)
    let seg : Segment :=
      { state := .closed, seq := g.seq + 1, tTrig := f.t, cause := f.cause, originCd := if s.gflag n 1 then f.origin else 0
        causeMask := f.mask, chans := g.chans, retrig := g.retrig, preValid := pre, post := g.post
        tFirst := (first.head?).elim 0 (·.t), qual := qOr (parts.flatMap fun p => p.2.1.map (·.q)), tOut
        data := parts.map fun p => (p.1, p.2.1.map (·.x))
        blockQ := parts.map fun p => (p.1, blockQuals 1024 (p.2.1.map (·.q)))
        meas := if s.gflag n 3 then meas else [], measured := s.gflag n 3, closedAt := s.now
        waits := ((s.recs 0x501).filter fun r => r.2.u8 0 == 0x0F && r.2.u8 8 == 2 && r.2.u16 10 == n).map (·.1) }
    let s' := s.modGrp n fun g =>
      { g.modSeg i (fun _ => seg) with
        state := .rearm, cur := none, fire := none, hold := none, retrig := 0, seq := g.seq + 1
        lastPost := (first.getLast?).elim 0 (·.t), ring := parts.map fun p => (p.1, p.2.2.reverse) }
    let s' := if s.gflag n 0 && s.rec_.ddr then
        { s' with rec_ := { s'.rec_ with archiveQ := s'.rec_.archiveQ ++ [(n, i)] } } else s'
    match g.skew with
    | none => s'
    | some op =>
      let halves := parts.map fun p => (p.1, halfPoint p.2.1 ((meas.find? fun m => m.1 == p.1).elim { } (·.2)) ip tOut)
      let h0 := (halves.headD (0, none)).2
      let data := halves.flatMap fun h => leBytes 2 h.1 ++ leBytes 2 0 ++ sleBytes 4 (skewDelta s.free h0 h.2)
      let s' := { s'.modGrp n (fun g => { g with skew := none }) with free := s.free + 1 }
      match s'.gaf.ops.find? fun o => o.seq == op with
      | some { cmd := .acqArm _ _ _ _ (some buf), .. } =>
        if data.length ≤ 40 then s'.finishOp op .ok 0 data
        else
          let (s', r) := s'.deliver buf data []
          s'.applyReply op r
      | _ => s'.finishOp op .ok 0 data
  | _, _ => s

/-- Closes the segment of a group once it is complete; a cascade group keeps its trigger point open first (R168). -/
def State.closeIfDone (n : Nat) (s : State) : State :=
  let g := s.grp n
  if g.complete && !(g.hold.any fun h => s.now < h) then s.closeSegment n else s

/-- A group in REARM goes on (R157). -/
def State.rearm (n : Nat) (s : State) : State :=
  let g := s.grp n
  if g.state != .rearm then s
  else if g.mode != .cont || g.disarm || (s.rec? 0x403 n).isNone then s.modGrp n fun g => g.toIdle
  else
    let s := s.enterParison n true
    match g.latched with
    | none => s
    | some f => ((s.modGrp n fun g => { g with latched := none }).fireGroup n f).closeIfDone n

/-- Releases a segment; a group in FULL takes it (R159). -/
def State.releaseSegment (n i : Nat) (s : State) : State :=
  let s := s.modGrp n fun g => g.modSeg i fun _ => { }
  if (s.grp n).state == .full then s.enterParison n false else s

/-! ### Detectors (R150) -/

/-- A non-negative rational rounded to 53 significant bits, ties to even: mantissa and binary exponent. -/
def round53 (num den : Nat) : Nat × Int :=
  if num = 0 || den = 0 then (0, 0)
  else
    let e : Int := (num.log2 : Int) - den.log2 - 54
    let q := if 0 ≤ e then roundDivEven num (den * 2 ^ e.toNat) else roundDivEven (num * 2 ^ (-e).toNat : Nat) den
    let extra := q.toNat.log2 + 1 - 53
    ((roundDivEven q (2 ^ extra)).toNat, e + extra)

/-- The root of a mean square, by FP64 and then FP32 (R150). -/
def rmsOf (sum k : Nat) : Fp :=
  let (m, e) := round53 sum k
  let (m, e) := if e % 2 = 0 then (m, e) else (2 * m, e - 1)
  let r := (m * 2 ^ 120).sqrt
  let inexact := r * r != m * 2 ^ 120
  let (mr, er) := round53 (2 * r + b2n inexact) 2
  let x : Int := e / 2 - 60 + er
  if 0 ≤ x then Fp.ofRat (mr * 2 ^ x.toNat : Nat) 1 else Fp.ofRat mr (2 ^ (-x).toNat)

/-- A telemetry TRACE item waits to be sent (R401, R402). -/
def State.addItem (itype : Nat) (body : Bytes) (s : State) : State :=
  { s with ev := { s.ev with items := s.ev.items ++ [(itype, body, s.now)] } }

/-- The peak detector takes an output. -/
def State.peak (ch : Nat) (b : Bytes) (v : AqOut) (s : State) : State :=
  let c := s.chan ch
  let fresh := c.pkN == 0
  let c := { c with
    pkN := c.pkN + 1
    pkMax := if fresh || c.pkMax < v.x then v.x else c.pkMax, pkTMax := if fresh || c.pkMax < v.x then v.t else c.pkTMax
    pkMin := if fresh || v.x < c.pkMin then v.x else c.pkMin, pkTMin := if fresh || v.x < c.pkMin then v.t else c.pkTMin
    pkQ := if fresh then v.q else qOr [c.pkQ, v.q] }
  if b.u16 0x10 ≤ c.pkN then
    (s.modChan ch fun _ => { c with pkN := 0 }).addItem 7
      (packLe [(2, ch), (2, c.pkQ.toNat)] ++ sleBytes 4 c.pkMax ++ sleBytes 4 c.pkMin ++ t80Bytes c.pkTMax ++ t80Bytes c.pkTMin ++
        t80Bytes v.t ++ zeros 2)
  else s.modChan ch fun _ => c

/-- The RMS detector takes an output; a block's result may fire triggers. -/
def State.rmsInput (ch : Nat) (b : Bytes) (v : AqOut) (s : State) : State :=
  let c := s.chan ch
  let c := { c with rmsSum := (if c.rmsN = 0 then 0 else c.rmsSum) + (v.x * v.x).toNat
                    rmsQ := if c.rmsN = 0 then v.q else qOr [c.rmsQ, v.q], rmsN := c.rmsN + 1 }
  if b.u16 0x12 ≤ c.rmsN then
    let r := rmsOf c.rmsSum (b.u16 0x12)
    ((s.modChan ch fun _ => { c with rmsN := 0, rms := some (r, v.t, c.rmsQ) }).addItem 8
      (packLe [(2, ch), (2, c.rmsQ.toNat), (4, r.toNat)] ++ t80Bytes v.t ++ zeros 2)).trigSource ch 2 (2 ^ 150)
        { t := v.t, x := Fp.val r, q := c.rmsQ }
  else s.modChan ch fun _ => c

/-- The envelope detector takes an output. -/
def State.envelope (ch : Nat) (b : Bytes) (v : AqOut) (s : State) : State :=
  let c := s.chan ch
  let a : Int := min (v.x.natAbs : Int) (2 ^ 31 - 1)
  let sh := if c.env < a then b.u8 0x14 else b.u8 0x15
  let e := c.env + (a - c.env) / 2 ^ sh
  let left := if qHas qSettle v.q then 2 ^ b.u8 0x15 else c.envSettle - 1
  let q := qOr [v.q, qIf (qHas qSettle v.q || 0 < c.envSettle) qSettle]
  (s.modChan ch fun c => { c with env := e, envQ := q, envSettle := left }).trigSource ch 1 1 { t := v.t, x := e, q }

/-! ### Storing an output (R147) -/

/-- Outputs of a channel kept for readers other than segments: as many as DC_LINE reads at the highest rate (R210). -/
def recentDepth : Nat := 200000

/-- An output enters the ring of its channel's group. -/
def State.ringOutput (ch : Nat) (b : Bytes) (v : AqOut) (s : State) : State :=
  let n := b.u8 0xA
  let g := s.grp n
  if n ≤ 7 && (g.state == .parison || g.state == .post || g.state == .rearm) then
    s.modGrp n fun g => { g with ring := g.ring.put ch ((v :: g.ring.get [] ch).take (g.pre + 2 * g.post)) }
  else s

/-- The next output of a channel is stored: detectors, triggers and its group take it. -/
def State.acqOutput (ch : Nat) (s : State) : State :=
  match s.rec? 0x402 ch, (s.chan ch).waiting with
  | some b, (at_, v) :: rest =>
    if s.now < at_ then s
    else
      let s := s.modChan ch fun c => { c with waiting := rest, recent := (v :: c.recent).take recentDepth, outCount := c.outCount + 1 }
      let s := s.ringOutput ch b v
      let s := ((s.peak ch b v).rmsInput ch b v).envelope ch b v
      let s := s.trigSource ch 0 1 v
      if b.u8 0xA ≤ 7 then s.closeIfDone (b.u8 0xA) else s
  | _, _ => s

/-- An edge of a TRIG_IN ball (R152): at least 20 ns in the opposite level must precede it; a rising edge fires. -/
def State.trigInEdge (ball : Nat) (rising : Bool) (s : State) : State :=
  let was := s.part.trigIn.getD ball false
  let since := s.part.trigAt.getD ball 0
  let s := { s with part := { s.part with trigIn := modAt ball (fun _ => rising) s.part.trigIn
                                          trigAt := modAt ball (fun _ => s.now) s.part.trigAt } }
  if was != rising && since + 20 * nsF ≤ s.now then
    (s.recs 0x404).foldl (fun s r =>
      let b := r.2
      let edgeOk := match b.u8 4 with
        | 0 => rising
        | 1 => !rising
        | _ => true
      if b.u8 0 = 4 && b.u8 1 = ball && edgeOk then s.fire r.1 s.now fun _ => true else s) s
  else s

/-- A FIRE frame from the cascade ring (R168). -/
def State.cascadeFire (f : FireFrame) (s : State) : State :=
  let n := f.group.val
  if s.gflag n 1 && (s.grp n).armSeq == f.armSeq.toNat then
    s.fireGroup n { t := f.tFire, cause := 0, origin := f.origin.val }
  else s

/-- The 300 ns window of a local cascade fire ends (R168). -/
def State.holdEnd (n : Nat) (s : State) : State :=
  if (s.grp n).hold.any fun h => h ≤ s.now then (s.modGrp n fun g => { g with hold := none }).closeIfDone n else s

/-- Every group is disarmed, remembering its arm mode (R161). -/
def State.shedGroups (s : State) : State :=
  (List.range 8).foldl (fun s n =>
    let g := s.grp n
    if g.state == .idle || g.mode == .none then s
    else (s.modGrp n fun g => { g with shedMode := g.mode }).modGrp n Group.disarmNow) s

/-- The groups that were armed are armed again (R161). -/
def State.unshedGroups (s : State) : State :=
  (List.range 8).foldl (fun s n =>
    let g := s.grp n
    match g.shedMode with
    | .none => s
    | m => if g.state == .idle then (s.modGrp n fun g => { g with shedMode := .none }).armGroup n m
        else s.modGrp n fun g => { g with shedMode := .none, disarm := false }) s

/-- A commit changed a group's record or membership (R160). -/
def State.groupChanged (n : Nat) (s : State) : State :=
  let g := s.grp n
  if (s.rec? 0x403 n).isNone then s.modGrp n fun g => { ({ } : Group) with seq := g.seq }
  else match g.state with
    | .parison | .full => (s.modGrp n fun g => g.discard).enterParison n false
    | _ => s

/-! ### Commands (R170, R171) -/

/-- The bytes of a segment for SEGMENT_READ (R171). -/
def segBytes (n i : Nat) (x : Segment) (headerOnly : Bool) : Bytes :=
  let head := packLe [(2, n), (2, i), (4, x.seq)] ++ t80Bytes x.tTrig ++
    packLe [(1, x.cause), (1, x.originCd), (8, x.causeMask), (2, x.chans.length), (2, x.retrig), (4, x.preValid), (4, x.post)] ++
    t80Bytes x.tFirst ++ packLe [(2, x.qual.toNat), (4, 0), (8, x.tOut)]
  let meas (ch : Nat) : Bytes :=
    match x.measured, x.meas.find? ch with
    | true, some m =>
      packLe [(2, ch), (2, m.mqual.toNat)] ++ sleBytes 4 m.base ++ sleBytes 4 m.ampl ++ sleBytes 4 m.peak ++
      packLe [(4, m.peakIndex), (4, m.rise.toNat), (4, m.period.toNat)] ++
      (m.arrival.elim (List.replicate 10 0xFF) t80Bytes) ++ zeros 2
    | _, _ => leBytes 2 ch ++ zeros 38
  if headerOnly then head
  else head ++ x.chans.flatMap fun ch =>
    meas ch ++ (x.data.get [] ch).flatMap (sleBytes 4) ++ padTo 4 ((x.blockQ.get [] ch).flatMap fun q => leBytes 2 q.toNat)

/-- SEGMENT_READ (R171). -/
def State.segmentRead (group seg : U16) (rflags : U32) (buf : BufDesc) (path : Path) (s : State) : State × Reply :=
  let n := group.toNat
  if 7 < n then (s, badAt 0)
  else if 3 < rflags.toNat then (s, badAt 4)
  else match bufBad buf 8 path with
    | some p => (s, badAt p)
    | none =>
      let g := s.grp n
      let closed := (g.segs.filter fun x => x.2.state == .closed)
      let pick : Option (Nat × Segment) :=
        if seg = 0xFFFF then closed.foldl (fun (m : Option (Nat × Segment)) x => match m with
          | none => some x
          | some y => if x.2.seq < y.2.seq then some x else m) none
        else closed.find? fun x => x.1 == seg.toNat
      match pick with
      | none => (s, noRes 0x0402)
      | some (i, x) =>
        let data := (segBytes n i x (bitOf rflags.toNat 1)).take (bufRoom buf)
        let (s, r) := s.deliver buf data (packLe [(2, i), (2, 0), (4, x.seq), (4, data.length)])
        (if bitOf rflags.toNat 0 then s.releaseSegment n i else s, r)

/-- The instant of an operation in a completion (R170). -/
def atNow (s : State) : Reply := okWith (leBytes 8 s.nowNs)

/-- An ACQ_ARM operation takes effect on a group (R157, R163, R170). `op` is the number of its operation in flight. -/
def State.armEffect (seq : Nat) (op n : Nat) (s : State) : State × Reply :=
  let st := (s.grp n).state
  match op with
  | 1 => (s.armGroup n .cont, atNow s)
  | 2 => (s.armGroup n .single, atNow s)
  | 3 => (s.modGrp n fun g => { g.disarmNow with shedMode := .none }, atNow s)
  | 4 =>
    if st == .idle || st == .full then (s, badAt 1)
    else ((s.fireExternal 5 (s.trigMask n) s.now), atNow s)
  | _ =>
    let s := s.armGroup n .single
    let s := s.modGrp n fun g => { g with skew := some seq }
    (s.fireGroup n { t := s.now, cause := 0, origin := s.cd }, .wait (.skew n))

/-- The arm instant of a cascade operation: T_ARM, or the first fast cycle at least 20 µs ahead (R167). -/
def State.cascadeInstant (tArm : Nat) (s : State) : Fine :=
  if s.now < tArm * nsF then tArm * nsF else cycleStart (nextCycle (cycleOf (s.now + 20000 * nsF - 1)))

/-- ACQ_ARM (R167, R170). -/
def State.acqArm (seq : Nat) (op group : Byte) (rsv : U16) (tArm : U64) (buf : Option BufDesc) (path : Path) (s : State) :
    State × Reply :=
  let n := group.toNat
  let cascade := s.gflag n 1
  let big := 5 < (s.grpChans n).length
  if 7 < n || (s.rec? 0x403 n).isNone then (s, badAt 0)
  else if op = 0 || 5 < op.toNat || (cascade && !s.part.straps.masterEn) then (s, badAt 1)
  else if rsv ≠ 0 then (s, badAt 2)
  else match buf.bind fun b => bufBad b 0xC path with
    | some p => (s, badAt p)
    | none =>
      if op ≠ 5 && buf.any (fun b => b.kind != 0) then (s, badAt 0x18)
      else if op = 5 && big && !(buf.any fun b => b.kind != 0) then (s, badAt 0xC)
      else if op = 4 && ((s.grp n).state == .idle || (s.grp n).state == .full) then (s, badAt 1)
      else if cascade && within 1 3 op.toNat then
        let t := s.cascadeInstant tArm.toNat
        let q := (s.grp n).armSeq + 1
        ((s.modGrp n fun g => { g with pendArm := g.pendArm ++ [(op.toNat, t, q)] }).emit (.casArm q n op.toNat (t / nsF)), .wait (.arm n))
      else if s.now < tArm.toNat * nsF then (s, .wait (.arm n))
      else s.armEffect seq op.toNat n

/-- The cascade operations of a group whose instant has come take effect (R167). -/
def State.cascadeArms (n : Nat) (s : State) : State :=
  (s.grp n).pendArm.foldl (fun s p =>
    if s.now < p.2.1 then s
    else
      let s := s.modGrp n fun g => { g with pendArm := g.pendArm.filter (· != p), armSeq := p.2.2 }
      (s.armEffect 0 p.1 n).1) s

/-- The arm instant of a group's operations has come (R170). -/
def State.armsDue (n : Nat) (s : State) : State :=
  let s := s.cascadeArms n
  (s.gaf.ops.filter fun o => o.wait == .arm n && o.outcome.isNone && o.started).foldl (fun s o =>
    match o.cmd with
    | .acqArm op _ _ tArm _ =>
      if s.gflag n 1 && within 1 3 op.toNat then
        (if (s.grp n).pendArm.isEmpty then s.applyReply o.seq (atNow s) else s)
      else if s.now < tArm.toNat * nsF then s
      else
        let (s, r) := s.armEffect o.seq op.toNat n
        s.applyReply o.seq r
    | _ => s) s

/-- A cascade ARM frame (R167): the group acts at the arm instant. -/
def State.cascadeArm (seq : U32) (group op : Byte) (tArm : U64) (s : State) : State :=
  let n := group.toNat
  if n ≤ 7 && s.gflag n 1 && within 1 3 op.toNat then
    s.modGrp n fun g => { g with pendArm := g.pendArm ++ [(op.toNat, tArm.toNat * nsF, seq.toNat)] }
  else s

/-! ### Meanings that complete no operation -/

/-- GROUP_REARM (R157). -/
def execGroupRearm (dt : Nat) (g : Fin 8) (s : State) : Host.Outcome State Fault Refusal := goOn dt (State.rearm g.val) s

/-- TRIG_IN_EDGE (R152). -/
def execTrigInEdge (dt : Nat) (ball : Fin 4) (rising : Bool) (s : State) : Host.Outcome State Fault Refusal :=
  goOn dt (fun s => if s.part.inReset then s else s.trigInEdge ball.val rising) s

/-- CASCADE_FIRE_RX (R168). -/
def execCascadeFireRx (dt : Nat) (f : FireFrame) (s : State) : Host.Outcome State Fault Refusal :=
  goOn dt (State.overRing (State.cascadeFire f)) s

/-- CASCADE_TRIGGER_HOLD (R168). -/
def execCascadeTriggerHold (dt : Nat) (g : Fin 8) (s : State) : Host.Outcome State Fault Refusal :=
  goOn dt (State.holdEnd g.val) s

/-- CASCADE_ARM_RX (R167). -/
def execCascadeArmRx (dt : Nat) (seq : U32) (group op : Byte) (tArm : U64) (s : State) : Host.Outcome State Fault Refusal :=
  goOn dt (State.overRing (State.cascadeArm seq group op tArm)) s

end Sys2Proof.Machine
end

