-- ==== Sys2Proof/Machine/ValveTables.lean ====
section
/-!
DEFINITION. The records of VALVE_CONFIGURE and the window tables made from them (R300, R307 to R309, R326, R327).
-/
namespace Sys2Proof.Machine

/-- The records of VALVE_CONFIGURE (R326). -/
def valveSpec (l : Bool) (rtype obj : Nat) (b : Bytes) : Option RecSpec :=
  match rtype with
  | 0x801 => some (fixedRec 0x3C
      ([(0, decide (b.u8 0 ≤ 1)), (1, decide (b.u8 1 ≤ 1)), (3, within 1 64 (b.u8 3))] ++
       ((List.range 8).map fun i => (4 + i, decide (b.u8 (4 + i) ≤ 64))) ++
       [(0xC, fpWithin (fpOf 1 100) Fp.one (b.fp 0xC)), (0x10, within 10 60000 (b.u32 0x10)),
        (0x14, within 1 1000 (b.u16 0x14)), (0x16, within 1 3600 (b.u16 0x16)), (0x18, onlyBits 7 (b.u8 0x18)),
        (0x19, zeroAt b 0x19 3)])
      (decide (obj < numLanes l)) (if bitOf (b.u8 0x18) 0 then [4] else []))
  | 0x802 => some (fixedRec 4 [(0, b.u16 0 == 0 || within 300 900 (b.u16 0)), (2, zeroAt b 2 2)] (obj == 0))
  | _ => none

/-- Blocks that carry a frame of L octets (R300). -/
def frameBlocks (l : Nat) : Nat := 2 + (l - 7) / 8

/-- Exclusive status and command windows of a hub with `n` sub-modules (R301, R307). -/
def statusWin (n : Nat) : Nat := frameBlocks (20 + 3 * n) + 1
@[inherit_doc statusWin] def commandWin (n : Nat) : Nat := frameBlocks (20 + ceilDiv n 4) + 1

/-- N_SM of a position, 0 where it is absent, and the LATE_MASK of a lane. -/
def laneNsm (b : Bytes) (p : Nat) : Nat := b.u8 (4 + p)
@[inherit_doc laneNsm] def laneLate (b : Bytes) : Nat := b.u8 2
/-- SPARE_N_SM of a lane. -/
def laneSpare (b : Bytes) : Nat := b.u8 3
/-- Configured positions, ascending. -/
def lanePos (b : Bytes) : List Nat := (List.range 8).filter fun p => 0 < laneNsm b p

/-- Lays windows one after another from a block: each key with its start and length. -/
def layWindows : Nat → List (Nat × Nat) → List (Nat × Nat × Nat)
  | _, [] => []
  | s, (k, n) :: r => (k, s, n) :: layWindows (s + n) r

/-- Upstream windows of a lane: positions 0 to 7, then the spares as 8 and 9. -/
def upWindows (b : Bytes) : List (Nat × Nat × Nat) :=
  layWindows 60 ((lanePos b).map (fun p => (p, statusWin (laneNsm b p))) ++
    [(8, statusWin (laneSpare b)), (9, statusWin (laneSpare b))])

/-- The end of a lane's upstream exclusive windows. -/
def uEnd (b : Bytes) : Nat := (upWindows b).foldl (fun a w => max a (w.2.1 + w.2.2)) 60

/-- The VALVE_LANE records of enabled lanes. -/
def lanesOn (rs : List Rec) : List (Nat × Bytes) := (recsOf rs 0x801).filter fun r => r.2.u8 0 == 1

/-- C0 (R307). -/
def c0Of (rs : List Rec) : Nat :=
  let c := (recIn rs 0x802 0).elim 0 (·.u16 0)
  if c ≠ 0 then c else (lanesOn rs).foldl (fun a r => max a (uEnd r.2)) 60 + 398

/-- Downstream windows of a lane: the spares as 8 and 9, then the configured positions, farthest first. -/
def downWindows (c0 : Nat) (b : Bytes) : List (Nat × Nat × Nat) :=
  layWindows c0 ([(8, commandWin (laneSpare b)), (9, commandWin (laneSpare b))] ++
    (lanePos b).reverse.map fun p => (p, commandWin (laneNsm b p)))

/-- The start and length of a window, 0 and 0 where there is none. -/
def winOf (ws : List (Nat × Nat × Nat)) (k : Nat) : Nat × Nat := ((ws.find? fun w => w.1 == k).map (·.2)).getD (0, 0)

/-- A 16-bit number, most significant byte first (R300). -/
def be16 (n : Nat) : Bytes := (leBytes 2 n).reverse

/-- TABLE_ID of a lane (R308): the CRC-32C of the windows of its TABLE frame. -/
def tableId (rs : List Rec) (b : Bytes) : U32 :=
  let up := upWindows b
  let dn := downWindows (c0Of rs) b
  let put (w : Nat × Nat) : Bytes := be16 w.1 ++ be16 w.2
  let ks := List.range 10
  crc32c (ks.flatMap (fun k => put (winOf up k)) ++ put (uEnd b, 940 - uEnd b) ++ ks.flatMap (fun k => put (winOf dn k)) ++
    put (6, c0Of rs - 6))

/-! ### Arms (R268) -/

/-- A hub of an arm: lane, position and sub-modules. -/
structure ArmHub where
  lane : Nat
  pos : Nat
  nSm : Nat
  deriving DecidableEq, Repr

/-- The hubs of an arm of a converter, in the order listed. -/
def armHubs (rs : List Rec) (conv arm : Nat) : List ArmHub :=
  match recIn rs 0x702 (conv * 6 + arm) with
  | some b => (List.range (b.u8 0)).map fun i =>
      { lane := b.u8 (4 + 4 * i), pos := b.u8 (5 + 4 * i), nSm := b.u8 (6 + 4 * i) }
  | none => []

/-- Every hub of every arm, with its converter and arm. -/
def allHubs (rs : List Rec) : List (Nat × Nat × ArmHub) :=
  (List.range 12).flatMap fun i => (armHubs rs (i / 6) (i % 6)).map fun h => (i / 6, i % 6, h)

/-- The arm that names a position of a lane. -/
def hubArm (rs : List Rec) (lane pos : Nat) : Option (Nat × Nat × ArmHub) :=
  (allHubs rs).find? fun x => x.2.2.lane == lane && x.2.2.pos == pos

/-- The cut-off of an arm in blocks (R308). -/
def cutOff (rs : List Rec) (conv arm : Nat) : Nat :=
  (armHubs rs conv arm).foldl (fun a h =>
    match recIn rs 0x801 h.lane with
    | some b =>
      let w := winOf (upWindows b) h.pos
      max a (if bitOf (laneLate b) h.pos then uEnd b else w.1 + w.2)
    | none => a) 0

/-- What a commit checks of the valve fabric (R308, R327): the record and offset at fault. -/
def valveCross (rs : List Rec) : Option (Nat × Nat × Nat) :=
  let both := (recsOf rs 0x801).find? fun r => (lanePos r.2).any fun p => bitOf (laneLate r.2) p
  let hubBad (x : Nat × Nat × ArmHub) : Bool :=
    match recIn rs 0x801 x.2.2.lane with
    | some b =>
      let n := laneNsm b x.2.2.pos
      if 0 < n then n != x.2.2.nSm else !(bitOf (laneLate b) x.2.2.pos) || decide (laneSpare b < x.2.2.nSm)
    | none => true
  let lsb (h : ArmHub) : Nat := (recIn rs 0x801 h.lane).elim 0 (·.u32 0xC)
  let armLsb := (List.range 12).find? fun i =>
    let hs := armHubs rs (i / 6) (i % 6)
    hs.any fun h => lsb h != (hs.head?.elim 0 lsb)
  let c0 := c0Of rs
  let late := (List.range 12).any fun i => !(armHubs rs (i / 6) (i % 6)).isEmpty && decide (c0 < cutOff rs (i / 6) (i % 6) + 398)
  let long := (lanesOn rs).any fun r => (downWindows c0 r.2).any fun w => decide (900 < w.2.1 + w.2.2)
  match both with
  | some r => some (0x801, r.1, 2)
  | none =>
    match (allHubs rs).find? hubBad with
    | some x => some (0x702, x.1 * 6 + x.2.1, 4)
    | none =>
      match armLsb with
      | some i => some (0x702, i, 4)
      | none => if late || long then some (0x802, 0, 0) else none

end Sys2Proof.Machine
end

