-- ==== Sys2Proof/Machine/ConvTables.lean ====
section
/-!
DEFINITION. The records of CONV_CONFIGURE and COMP_TABLE_WRITE and what a commit checks of them (R267, R268, R272, R296).
-/
namespace Sys2Proof.Machine

/-- A gain of CONV_LOOPS within its range: KP_I, KP_C to 10, K_H, K_V and other KP to 100, KI to 10,000. -/
def gainMax (i : Nat) : Nat := if i = 0 || i = 2 then 10 else if i = 1 || i = 3 || i = 4 then 10000
  else if 15 ≤ i then 100 else if i % 2 = 1 then 100 else 10000

/-- The records of CONV_CONFIGURE and COMP_TABLE_WRITE (R296). -/
def convSpec (l : Bool) (rtype obj : Nat) (b : Bytes) : Option RecSpec :=
  match rtype with
  | 0x701 => some (fixedRec 0x44
      [(0, decide (b.u8 0 ≤ 1)), (1, decide (b.u8 1 ≤ 1)), (2, decide (b.u8 2 ≤ 1)), (3, decide (b.u8 3 ≤ 7)),
       (4, b.u8 4 == 50 || b.u8 4 == 60), (5, onlyBits 1 (b.u8 5)), (6, within 1 8 (b.u8 6)), (7, decide (b.u8 7 ≤ 16)),
       (8, fpWithin (fpOf 1000000) (fpOf 3000000000) (b.fp 8)), (0xC, fpWithin (fpOf 10000) (fpOf 1000000) (b.fp 0xC)),
       (0x10, fpWithin (fpOf 10000) (fpOf 1200000) (b.fp 0x10)), (0x14, fpWithin (fpOf 1 10000) (fpOf 1 2) (b.fp 0x14)),
       (0x18, fpWithin (fpOf 1 10000) (fpOf 1 10) (b.fp 0x18)), (0x1C, within 1 1536 (b.u16 0x1C)),
       (0x1E, within (b.u16 0x1C) 1536 (b.u16 0x1E)), (0x20, fpWithin (fpOf 1 10) (fpOf 2) (b.fp 0x20)),
       (0x24, fpWithin (fpOf 1 2) (fpOf 12 10) (b.fp 0x24)), (0x28, fpWithin (fpOf 1 100) (fpOf 1 2) (b.fp 0x28)),
       (0x2C, fpWithin 0 (fpOf 2 10) (b.fp 0x2C)), (0x30, fpWithin (fpOf 100) (fpOf 100000) (b.fp 0x30)),
       (0x34, Fp.isFinite (b.fp 0x34) && Fp.lt (b.fp 0x10) (b.fp 0x34)), (0x38, fpWithin 0 (b.fp 0x10) (b.fp 0x38)),
       (0x3C, Fp.isFinite (b.fp 0x3C)), (0x40, Fp.isFinite (b.fp 0x40) && Fp.lt (b.fp 0x3C) (b.fp 0x40))]
      (decide (obj ≤ 1)))
  | 0x702 =>
    let n := b.u8 0
    some { objOk := decide (obj < 12), fixed := 4, counts := [(0, within 1 24 n)], len := 4 + 4 * n
           checks := (1, zeroAt b 1 3) :: (List.range n).flatMap fun i =>
             [(4 + 4 * i, decide (b.u8 (4 + 4 * i) < numLanes l)), (5 + 4 * i, decide (b.u8 (5 + 4 * i) ≤ 7)),
              (6 + 4 * i, within 1 64 (b.u8 (6 + 4 * i))), (7 + 4 * i, zeroAt b (7 + 4 * i) 1)] }
  | 0x703 => some (fixedRec 12
      (((List.range 11).map fun i => (i, decide (b.u8 i < numAcq l) || (i == 10 && b.u8 i == 0xFF))) ++ [(11, zeroAt b 11 1)])
      (decide (obj ≤ 1)))
  | 0x704 => some (fixedRec 68
      ((List.range 17).map fun i => (4 * i, fpWithin 0 (fpOf (gainMax i)) (b.fp (4 * i)))) (decide (obj ≤ 1)))
  | 0x705 =>
    let q := obj % 4
    let (lo, hi) := if q < 2 then (1000000, 10000000000) else if q = 2 then (1000, 1000000) else (1000, 100000)
    some (fixedRec 8 [(0, fpWithin (fpOf lo) (fpOf hi) (b.fp 0)), (4, fpNonNeg (b.fp 4))] (decide (obj < 8)))
  | 0x706 =>
    let k := b.u8 0
    some (fixedRec 8
      [(0, decide (k ≤ 3)), (1, onlyBits 3 (b.u8 1)),
       (2, decide (b.u16 2 < (if k = 0 then numInsts l else if k = 1 then 256 else if k = 2 then 32 else 24))),
       (4, if k = 0 then decide (b.u8 4 < 32) else b.u8 4 == 0), (5, onlyBits 1 (b.u8 5)), (6, zeroAt b 6 2)]
      (decide (obj < 64)))
  | 0x707 => some (fixedRec 0x14
      [(0, decide (b.u8 0 ≤ 1)), (1, decide (b.u8 1 ≤ 4)), (2, within 1 50 (b.u8 2)), (3, decide (b.u8 3 ≤ 1)),
       (8, within 1 3 (b.u8 8)), (9, zeroAt b 9 3), (0xC, fpNonNeg (b.fp 0xC)),
       (0x10, Fp.isFinite (b.fp 0x10) && Fp.lt (b.fp 0xC) (b.fp 0x10))] (decide (obj ≤ 3)))
  | 0x708 =>
    let f := b.u16 0
    let n := b.u16 2
    some { objOk := decide (obj ≤ 3), fixed := 4, counts := [(2, within 1 512 n && decide (f + n ≤ 1024))], len := 4 + 4 * n
           checks := (0, decide (f ≤ 1023)) :: (List.range n).map fun i => (4 + 4 * i, Fp.isFinite (b.fp (4 + 4 * i))) }
  | _ => none

/-- The entries that a COMP_DATA record leaves of a table: it changes only those it names (R283). The configuration keeps a
table's entries as one record of FIRST 0 and COUNT 1,024. -/
def compMerge (old : Option Bytes) (b : Bytes) : Bytes :=
  let e := (old.getD (zeros 4100)).drop 4
  let f := 4 * b.u16 0
  let n := 4 * b.u16 2
  packLe [(2, 0), (2, 1024)] ++ (e.take f ++ Bytes.slice b 4 n ++ e.drop (f + n))

/-- The CONVERTER record of an enabled converter. -/
def convOn (rs : List Rec) (c : Nat) : Option Bytes := (recIn rs 0x701 c).filter fun b => b.u8 0 == 1

/-- The sub-modules of an arm. -/
def armSize (rs : List Rec) (c a : Nat) : Nat := (armHubs rs c a).foldl (fun n h => n + h.nSm) 0

/-- The sub-modules of a converter. -/
def convSize (rs : List Rec) (c : Nat) : Nat := (List.range 6).foldl (fun n a => n + armSize rs c a) 0

/-- The output period of a channel in counter units, 0 without its records. -/
def acqRateOk (rs : List Rec) (ch : Nat) : Bool :=
  match recIn rs 0x402 ch with
  | some b => match recIn rs 0x401 (b.u8 0) with
    | some k => decide (100000 * b.u16 8 ≤ k.u32 8)
    | none => false
  | none => false

/-- What a commit checks of the converters (R267, R268, R272, R284, R296): the record and offset at fault. -/
def convCross (rs : List Rec) (single : Nat → Bool) : Option (Nat × Nat × Nat) :=
  let on := [0, 1].filter fun c => (convOn rs c).isSome
  let only1 := on == [1]
  let dMode (c : Nat) : Nat := (recIn rs 0x701 c).elim 0 (·.u8 1)
  let b2b := on == [0, 1] && ((on.filter fun c => dMode c == 1).length != 1)
  let fewArms := on.find? fun c => !((List.range 6).all fun a => (recIn rs 0x702 (c * 6 + a)).isSome)
  let big := (List.range 12).find? fun i => decide (1536 < armSize rs (i / 6) (i % 6))
  let hubs := allHubs rs
  let twice := hubs.find? fun x => 1 < (hubs.filter fun y => y.2.2.lane == x.2.2.lane && y.2.2.pos == x.2.2.pos).length
  let meas := (recsOf rs 0x703).filterMap fun r =>
    ((List.range 11).find? fun i => !(i == 10 && r.2.u8 10 == 0xFF) && !(acqRateOk rs (r.2.u8 i))).map fun i => (r.1, i)
  let ramp := (recsOf rs 0x705).find? fun r =>
    match recIn rs 0x701 (r.1 / 4) with
    | some b =>
      let q := r.1 % 4
      let lim := if q < 2 then Fp.mul (fpOf 3 2) (b.fp 8) else if q = 2 then b.fp 0x34 else Fp.mul (fpOf 13 10) (b.fp 0xC)
      Fp.lt lim (r.2.fp 4)
    | none => false
  let src := (recsOf rs 0x706).find? fun r => r.2.u8 0 == 0 && single (r.2.u16 2)
  let data := (recsOf rs 0x708).find? fun r => (recIn rs 0x707 r.1).isNone
  if only1 then some (0x701, 1, 0)
  else if b2b then some (0x701, 1, 1)
  else match fewArms with
  | some c => some (0x701, c, 0)
  | none => match big with
    | some i => some (0x702, i, 4)
    | none => match twice with
      | some x => some (0x702, x.1 * 6 + x.2.1, 4)
      | none => match meas.head? with
        | some m => some (0x703, m.1, m.2)
        | none => match ramp with
          | some r => some (0x705, r.1, 4)
          | none => match src with
            | some r => some (0x706, r.1, 2)
            | none => data.map fun r => (0x708, r.1, 0)

/-- The sub-modules of the enabled converters exceed the limit of the order code (R267). -/
def convTooMany (l : Bool) (rs : List Rec) : Bool :=
  decide (pick l 8192 4096 < ([0, 1].filter fun c => (convOn rs c).isSome).foldl (fun n c => n + convSize rs c) 0)

/-- A gain of CONV_LOOPS, or its default (R296). -/
def gainOf (rs : List Rec) (c i : Nat) : Fp :=
  match recIn rs 0x704 c with
  | some b => b.fp (4 * i)
  | none => ([fpOf 1 2, fpOf 50, fpOf 2 10, fpOf 10, fpOf 100, fpOf 1 10, fpOf 20, fpOf 2, fpOf 50, fpOf 1 10, fpOf 20,
      fpOf 1, fpOf 20, fpOf 1, fpOf 10, fpOf 1, fpOf 1] : List Fp).getD i 0

/-- SLOPE of a quantity, or its default (R296). -/
def slopeOf (rs : List Rec) (c q : Nat) : Fp :=
  match recIn rs 0x705 (c * 4 + q) with
  | some b => b.fp 0
  | none => if q < 2 then fpOf 100000000 else if q = 2 then fpOf 50000 else fpOf 10000

/-- LIMIT of a quantity; without a CONV_RAMP record the largest value its field allows (log entry 61). -/
def limitOf (rs : List Rec) (c q : Nat) : Fp :=
  match recIn rs 0x705 (c * 4 + q) with
  | some b => b.fp 4
  | none => match recIn rs 0x701 c with
    | some b => if q < 2 then Fp.mul (fpOf 3 2) (b.fp 8) else if q = 2 then b.fp 0x34 else Fp.mul (fpOf 13 10) (b.fp 0xC)
    | none => 0

end Sys2Proof.Machine
end

