-- ==== Sys2Proof/Machine/ConvLaw.lean ====
section
/-!
DEFINITION. The control law of a converter as arithmetic: bases, transforms, fast loops, outer loops, energy balancing, PI terms,
compensation tables and nearest-level modulation (R273 to R282). Operations are done in the order the rules write them (log
entry 62).
-/
namespace Sys2Proof.Machine

/-- 2π and the two periods T. -/
def convTwoPi : Fp := fpOf 628318530718 100000000000
@[inherit_doc convTwoPi] def tFast : Fp := fpOf 1 100000
@[inherit_doc convTwoPi] def tOuter : Fp := fpOf 5 100000

/-- Bases of the per-unit system (R273), with the CONVERTER record. -/
structure ConvPar where
  b : Bytes
  sB : Fp
  vB : Fp
  iB : Fp
  wB : Fp
  wNom : Fp
  lEq : Fp
  deriving Repr

/-- The bases of a converter (R273). -/
def convPar (b : Bytes) : ConvPar :=
  let sB := b.fp 8
  let vB := Fp.mul (b.fp 0xC) (Fp.div (Fp.sqrt (fpOf 2)) (Fp.sqrt (fpOf 3)))
  let iB := Fp.div (Fp.mul (fpOf 2) sB) (Fp.mul (fpOf 3) vB)
  let wB := Fp.mul convTwoPi (fpOf (b.u8 4))
  let n := fpOf (b.u16 0x1C)
  let u := Fp.div (b.fp 0x10) n
  { b, sB, vB, iB, wB
    wNom := Fp.mul (Fp.mul (Fp.mul (fpOf 6) n) (Fp.div (b.fp 0x18) (fpOf 2))) (Fp.mul u u)
    lEq := Fp.div (Fp.mul (Fp.mul (Fp.div (b.fp 0x14) (fpOf 2)) wB) iB) vB }

/-- I_MAX, M_MAX and CIR_LIM. -/
def ConvPar.iMax (p : ConvPar) : Fp := p.b.fp 0x20
@[inherit_doc ConvPar.iMax] def ConvPar.mMax (p : ConvPar) : Fp := p.b.fp 0x24
@[inherit_doc ConvPar.iMax] def ConvPar.cirLim (p : ConvPar) : Fp := p.b.fp 0x28

/-- An A32 angle in radians. -/
def radOf (a : U32) : Fp := Fp.mul (Fp.ofRat (a.toNat : Nat) (2 ^ 32)) convTwoPi
/-- The angle of phase x (R281). -/
def phaseAngle (a : U32) (x : Nat) : U32 := a - BitVec.ofNat 32 (x * 0x55555555)

/-- The amplitude-invariant Park transform with d aligned to the angle, and its inverse for a phase (R274). -/
def park (xs : List Fp) (a : U32) : Fp × Fp :=
  let third := fpOf 2 3
  let term (f : Fp → Fp) (x : Nat) : Fp := Fp.mul (xs.getD x 0) (f (radOf (phaseAngle a x)))
  let sum (f : Fp → Fp) : Fp := Fp.add (Fp.add (term f 0) (term f 1)) (term f 2)
  (Fp.mul third (sum Config.fcos), Fp.neg (Fp.mul third (sum Config.fsin)))
@[inherit_doc park] def invPark (d q : Fp) (a : U32) (x : Nat) : Fp :=
  let r := radOf (phaseAngle a x)
  Fp.sub (Fp.mul d (Config.fcos r)) (Fp.mul q (Config.fsin r))

/-- The magnitude of a vector. -/
def vecMag (x y : Fp) : Fp := Fp.sqrt (Fp.add (Fp.mul x x) (Fp.mul y y))

/-- Bounds to ± a limit. -/
def lim (l x : Fp) : Fp := Fp.clamp (Fp.neg l) l x

/-- A PI term (R277): output and new integrator. The integrator stands still where the output is at its limit and the error
would drive it further, and is bounded by the limit. -/
def piTerm (kp ki t l err xi : Fp) : Fp × Fp :=
  let y := Fp.add (Fp.mul kp err) xi
  let stuck := (Fp.le l y && Fp.lt 0 err) || (Fp.le y (Fp.neg l) && Fp.lt err 0)
  (lim l y, if stuck then xi else lim l (Fp.add xi (Fp.mul (Fp.mul ki t) err)))

/-- What the fast loops read: the measurements in engineering units, frequency, θ_m, θ_c, contributions of the tables with DEST
1 to 4 per phase, and whether the loops are released. -/
structure LawIn where
  raw : List Fp
  noIdc : Bool
  freq : Fp
  thM : U32
  thC : U32
  tab : Nat → Nat → Fp
  run : Bool

/-- i_x and the three voltages in per unit; arm currents in per unit. -/
def LawIn.pu (e : LawIn) (p : ConvPar) (i : Nat) : Fp := Fp.div (e.raw.getD i 0) (if i < 6 || i = 10 then p.iB else p.vB)

/-- A phase of the circulating-current control (R274): output and its three states. -/
def circulating (g : Nat → Fp) (p : ConvPar) (w ecir tab xi r1 r2 : Fp) : Fp × Fp × Fp × Fp :=
  let raw := Fp.add (Fp.add (Fp.add (Fp.mul (g 2) ecir) xi) r1) tab
  let l := p.cirLim
  let stuck := (Fp.le l raw && Fp.lt 0 ecir) || (Fp.le raw (Fp.neg l) && Fp.lt ecir 0)
  let w2 := Fp.mul (Fp.mul (fpOf 2) w) p.wB
  let r1' := Fp.add r1 (Fp.mul tFast (Fp.sub (Fp.mul (g 4) ecir) (Fp.mul w2 r2)))
  (lim l raw, if stuck then xi else lim l (Fp.add xi (Fp.mul (Fp.mul (g 3) tFast) ecir)), r1',
    Fp.add r2 (Fp.mul (Fp.mul tFast w2) r1'))

/-- The fast loops (R274): the new state, the measurements with the arm references, all in per unit. While the loops are not
released every integrator and resonant state is 0 (R277). -/
def fastLoops (g : Nat → Fp) (p : ConvPar) (e : LawIn) (st : ConvState) (m : ConvMeas) : ConvState × ConvMeas :=
  let ph := [0, 1, 2]
  let i := ph.map fun x => Fp.sub (e.pu p x) (e.pu p (x + 3))
  let v := ph.map fun x => e.pu p (6 + x)
  let udc := e.pu p 9
  let (id, iq) := park i e.thM
  let (vd, vq) := park v e.thM
  let pw := Fp.add (Fp.mul vd id) (Fp.mul vq iq)
  let qw := Fp.sub (Fp.mul vq id) (Fp.mul vd iq)
  let idc := if e.noIdc then Fp.div (Fp.div (Fp.mul pw p.sB) (e.raw.getD 9 0)) p.iB else e.pu p 10
  let w := Fp.div e.freq (fpOf (p.b.u8 4))
  let icir := ph.map fun x => Fp.sub (Fp.div (Fp.add (e.pu p x) (e.pu p (x + 3))) (fpOf 2)) (Fp.div idc (fpOf 3))
  let st := if e.run then st else
    { st with xiD := 0, xiQ := 0, xiC := [0, 0, 0], r1 := [0, 0, 0], r2 := [0, 0, 0] }
  let errD := Fp.sub st.idRef id
  let errQ := Fp.sub st.iqRef iq
  let wl := Fp.mul w p.lEq
  let ed := Fp.sub (Fp.add (Fp.add vd (Fp.mul (g 0) errD)) st.xiD) (Fp.mul wl iq)
  let eq := Fp.add (Fp.add (Fp.add vq (Fp.mul (g 0) errQ)) st.xiQ) (Fp.mul wl id)
  let bound := Fp.div (Fp.mul p.mMax udc) (fpOf 2)
  let mag := vecMag ed eq
  let sat := Fp.lt bound mag
  let k := Fp.div bound mag
  let ed := if sat then Fp.mul ed k else ed
  let eq := if sat then Fp.mul eq k else eq
  let integ (xi err out : Fp) : Fp :=
    if sat && Fp.lt 0 (Fp.mul err out) then xi else lim p.mMax (Fp.add xi (Fp.mul (Fp.mul (g 1) tFast) err))
  let ref := ph.map fun x => Fp.add (Fp.add st.icirDc (st.icirH.getD x 0))
    (Fp.mul (st.aV.getD x 0) (Config.fcos (radOf (phaseAngle e.thC x))))
  let cir := ph.map fun x => circulating g p w (Fp.sub (ref.getD x 0) (icir.getD x 0)) (e.tab 2 x)
    (st.xiC.getD x 0) (st.r1.getD x 0) (st.r2.getD x 0)
  let ex := ph.map fun x => Fp.add (invPark ed eq e.thC x) (e.tab 1 x)
  let half := Fp.div udc (fpOf 2)
  let uc := fun x => (cir.getD x (0, 0, 0, 0)).1
  let up := ph.map fun x => Fp.add (Fp.sub (Fp.sub half (ex.getD x 0)) (uc x)) (e.tab 3 x)
  let low := ph.map fun x => Fp.add (Fp.sub (Fp.add half (ex.getD x 0)) (uc x)) (e.tab 4 x)
  let st' := if e.run then
      { st with xiD := integ st.xiD errD ed, xiQ := integ st.xiQ errQ eq, xiC := cir.map (·.2.1)
                r1 := cir.map (·.2.2.1), r2 := cir.map (·.2.2.2) }
    else st
  (st', { m with idq := [id, iq, vd, vq, st.idRef, st.iqRef, ed, eq], pq := [pw, qw, udc, vecMag vd vq]
                 iac := ph.map fun x => Fp.sub (e.raw.getD x 0) (e.raw.getD (x + 3) 0)
                 icir := icir.map fun x => Fp.mul x p.iB, uref := up ++ low })

/-- The outer loops and energy balancing (R275, R276): `refs` are the references and `means` the means of the last outer cycle
in per unit, `warm` the arm energies in per unit of W_NOM. -/
def outerLoops (g : Nat → Fp) (p : ConvPar) (refs means warm : List Fp) (run : Bool) (st : ConvState) : ConvState × Fp :=
  let err (q : Nat) : Fp := Fp.sub (refs.getD q 0) (means.getD q 0)
  let st := if run then st else { st with xiOuterD := 0, xiOuterQ := 0, xiW := 0 }
  let dq := p.b.u8 1 == 1
  let qv := p.b.u8 2 == 1
  let (yd, xd) := piTerm (g (if dq then 7 else 5)) (g (if dq then 8 else 6)) tOuter p.iMax (err (if dq then 2 else 0)) st.xiOuterD
  let (yq0, xq) := piTerm (g (if qv then 11 else 9)) (g (if qv then 12 else 10)) tOuter p.iMax (err (if qv then 3 else 1)) st.xiOuterQ
  let yq := Fp.neg yq0
  let rest (x : Fp) : Fp := Fp.sqrt (Fp.sub (Fp.mul p.iMax p.iMax) (Fp.mul x x))
  let cut (x other : Fp) : Fp :=
    let y := Fp.min (Fp.abs x) (rest other)
    if Fp.sign x then Fp.neg y else y
  let sat := Fp.lt p.iMax (vecMag yd yq)
  let qPrio := bitOf (p.b.u8 5) 0
  let idRef := if sat then (if qPrio then cut yd (lim p.iMax yq) else lim p.iMax yd) else yd
  let iqRef := if sat then (if qPrio then lim p.iMax yq else cut yq (lim p.iMax yd)) else yq
  -- energy
  let nNom := fpOf (p.b.u16 0x1C)
  let udcRef := if dq then refs.getD 2 0 else Fp.div (p.b.fp 0x10) p.vB
  let uRef := Fp.div (Fp.mul udcRef p.vB) nNom
  let x := Fp.div (Fp.mul uRef nNom) (p.b.fp 0x10)
  let wRef := Fp.mul x x
  let wSum := Config.treeSum warm
  let (yw, xw) := piTerm (g 13) (g 14) tOuter (fpOf 2 10) (Fp.sub wRef wSum) st.xiW
  let up (i : Nat) : Fp := warm.getD i 0
  let st' : ConvState :=
    { st with idRef, iqRef, icirDc := Fp.div yw (fpOf 3)
              icirH := [0, 1, 2].map fun i => Fp.mul (g 15) (Fp.sub (Fp.div wSum (fpOf 3)) (Fp.add (up i) (up (i + 3))))
              aV := [0, 1, 2].map fun i => Fp.mul (g 16) (Fp.sub (up (i + 3)) (up i)) }
  (if run then { st' with xiOuterD := xd, xiOuterQ := xq, xiW := xw } else st', wSum)

/-! ### Compensation tables (R281, R282) -/

/-- The contribution of a table to a phase, before its fade factor, in per unit. -/
def tableAt (hdr data : Bytes) (vB : Fp) (thC : U32) (x : Nat) : Fp :=
  let phi : U32 := BitVec.ofNat 32 (hdr.u8 2) * phaseAngle thC x + BitVec.ofNat 32 (hdr.u32 4)
  let i := phi.toNat / 2 ^ 22
  let f := Fp.ofRat (phi.toNat % 2 ^ 22 : Nat) (2 ^ 22)
  let e (j : Nat) : Fp := data.fp (4 + 4 * (j % 1024))
  Fp.div (Fp.add (e i) (Fp.mul f (Fp.sub (e (i + 1)) (e i)))) vB

/-- The fade factor for a mean of the envelope quantity, and the bound crossed (R282). -/
def fade (hdr : Bytes) (q : Fp) : Fp × Option Nat :=
  let lo := hdr.fp 0xC
  let hi := hdr.fp 0x10
  let w := Fp.mul (fpOf 2 10) (Fp.sub hi lo)
  let k (d : Fp) : Fp := Fp.max 0 (Fp.sub Fp.one (Fp.div d w))
  if Fp.lt q lo then (k (Fp.sub lo q), some 0) else if Fp.lt hi q then (k (Fp.sub q hi), some 1) else (Fp.one, none)

/-! ### Nearest-level modulation and balancing (R278 to R280) -/

/-- Moves the first `n` elements of `a` to `b`. -/
def takeN (n : Nat) (a : List Nat) : List Nat × List Nat := (a.take n, a.drop n)

/-- Swaps for balance: `ins` and `byp` are in sorted order, the first of each the next to swap. -/
def swapLoop (u : Nat → Fp) (hyst : Fp) (up : Bool) : Nat → List Nat → List Nat → Nat → List Nat × Nat
  | 0, ins, _, k => (ins, k)
  | f + 1, a :: ins, b :: byp, k =>
    let d := Fp.sub (u a) (u b)
    let d := if up then d else Fp.neg d
    if Fp.le d hyst then (a :: ins, k)
    else
      -- b is now inserted: it is the next but the last in order, so it goes to the end of its list
      swapLoop u hyst up f (ins ++ [b]) (byp ++ [a]) (k + 1)
  | _ + 1, ins, _, k => (ins, k)

/-- The number of sub-modules to insert (R280): 0 for a reference of 0 or below, and nothing for one that is no number. -/
def levelOf (uRef vB usum : Fp) (nav : Nat) : Nat :=
  if !(Fp.lt 0 uRef) || nav = 0 then 0
  else
    let x := Fp.add (Fp.div (Fp.mul (Fp.mul uRef vB) (fpOf nav)) usum) (fpOf 1 2)
    if Fp.isInf x then nav else if Fp.isNan x then 0 else min nav (Fp.floorInt x).toNat

/-- The inserted set of an arm, n and the swaps (R280). `av` holds the available arm indices in rising key order. -/
def balance (n : Nat) (av : List Nat) (prev : List Nat) (charging : Bool) (u : Nat → Fp) (hyst : Fp) (swapMax : Nat) :
    List Nat × Nat :=
  let ins0 := av.filter fun i => prev.contains i
  let byp0 := av.filter fun i => !prev.contains i
  -- the order in which sub-modules are inserted, and the order in which they are bypassed
  let insOrder (l : List Nat) : List Nat := if charging then l else l.reverse
  let bypOrder (l : List Nat) : List Nat := if charging then l.reverse else l
  let add := (insOrder byp0).take (n - ins0.length)
  let rem := (bypOrder ins0).take (ins0.length - n)
  let ins1 := av.filter fun i => (ins0.contains i || add.contains i) && !rem.contains i
  let byp1 := av.filter fun i => !ins1.contains i
  let (ins2, k) := swapLoop u hyst charging swapMax (bypOrder ins1) (insOrder byp1) 0
  (av.filter fun i => ins2.contains i, k)

end Sys2Proof.Machine
end

