-- ==== Sys2Proof/Machine/LibTables.lean ====
section
/-!
DEFINITION. The catalogue of the function library: costs, slots, settings, and the checks of INSTANCE, SETTINGS and ENVELOPE
records (R187, R194, R205 to R210, R214, and the settings tables of R215 to R243).
-/
namespace Sys2Proof.Machine

/-! ### Catalogue (R210) -/

/-- Local memory of a type, in KB. -/
def typeMem : Nat → Nat
  | 0x01 => 32
  | 0x04 => 16
  | 0x05 => 48
  | 0x06 => 16
  | 0x07 => 64
  | 0x08 => 32
  | 0x0A => 4
  | 0x0C => 4
  | 0x0E => 48
  | 0x0F => 128
  | 0x10 => 32
  | _ => 8

/-- Parts of a type's results. -/
def typeParts : Nat → Nat
  | 0x01 => 3
  | 0x05 => 2
  | 0x0E => 2
  | _ => 1

/-- Default PCLASS of a type. -/
def typeClass : Nat → Nat
  | 0x01 => 2
  | 0x04 => 1
  | 0x0C => 1
  | 0x0D => 1
  | 0x0E => 2
  | 0x0F => 2
  | _ => 0

/-- The type may run single (R194). -/
def typeSingle (t : Nat) : Bool := t == 0x01 || t == 0x0A || t == 0x0E || t == 0x0F
/-- The type has settings marked C (R214). -/
def typeHasC (t : Nat) : Bool := t == 0x01 || t == 0x05 || t == 0x06 || t == 0x08 || t == 0x0E || t == 0x0F || t == 0x10
/-- The last OUTBITS bit of a type's own, below bit 31. -/
def typeLastBit : Nat → Nat
  | 0x02 => 6
  | 0x03 => 3
  | 0x04 => 10
  | 0x05 => 14
  | 0x06 => 5
  | 0x07 => 6
  | 0x08 => 8
  | 0x09 => 6
  | 0x0A => 6
  | 0x0B => 3
  | 0x0C => 5
  | 0x0D => 3
  | 0x0E => 3
  | 0x0F => 5
  | 0x10 => 4
  | _ => 2
/-- VALUES that a type defines, per part. -/
def typeVals : Nat → List Nat
  | 0x01 => [9, 9, 9]
  | 0x02 => [4]
  | 0x03 => [3]
  | 0x04 => [4]
  | 0x05 => [8, 6]
  | 0x06 => [6]
  | 0x07 => [6]
  | 0x08 => [6]
  | 0x09 => [3]
  | 0x0A => [2]
  | 0x0B => [1]
  | 0x0C => [2]
  | 0x0D => [3]
  | 0x0E => [6, 9]
  | 0x0F => [9]
  | 0x10 => [5]
  | _ => []

/-- A type defines an OUTBITS bit, or the value of a SRC_INDEX (R186). -/
def typeHasBit (t bit : Nat) : Bool := bit ≤ 2 || bit == 31 || within 3 (typeLastBit t) bit
@[inherit_doc typeHasBit] def typeHasVal (t i : Nat) : Bool := i % 9 < (typeVals t).getD (i / 9) 0

/-! ### Slots (R206) -/

/-- What a type's slots are: first slot, count, class (0 A, 1 G, 2 S, 3 N, 4 T) and need (0 optional, 1 mandatory, 2 whole
block or none). -/
def typeSlots : Nat → List (Nat × Nat × Nat × Nat)
  | 0x01 => [(0, 6, 0, 0)]
  | 0x02 => [(0, 3, 0, 1), (3, 1, 0, 0)]
  | 0x03 => [(0, 3, 0, 1), (3, 1, 0, 0)]
  | 0x04 => [(0, 6, 0, 1)]
  | 0x05 => [(0, 6, 0, 1)]
  | 0x06 => [(0, 6, 0, 1), (6, 3, 0, 2), (9, 1, 3, 0)]
  | 0x07 => (List.range 64).map (fun b => (3 * b, 3, 0, 2)) ++ [(192, 64, 2, 0)]
  | 0x08 => [(0, 6, 0, 1), (6, 3, 0, 2)]
  | 0x09 => [(0, 3, 0, 1)]
  | 0x0A => [(0, 1, 4, 1)]
  | 0x0B => [(0, 3, 0, 1), (3, 1, 2, 1), (4, 1, 2, 0)]
  | 0x0C => [(0, 2, 2, 1), (2, 2, 2, 0)]
  | 0x0D => [(0, 2, 0, 1)]
  | 0x0E => [(0, 6, 0, 1), (6, 1, 2, 1), (7, 11, 3, 0)]
  | 0x0F => [(0, 1, 1, 1), (1, 1, 2, 0), (2, 5, 3, 0)]
  | 0x10 => [(0, 2, 0, 1), (2, 1, 2, 0)]
  | _ => []

/-- An input slot (R206). -/
structure InSlot where
  kind : Nat := 0xFF
  sub : Nat := 0
  index : Nat := 0
  deriving DecidableEq, Repr

/-- Slot `i` of an INSTANCE body; a slot past N_IN is not connected. -/
def slotOf (b : Bytes) (i : Nat) : InSlot :=
  if i < b.u16 4 then { kind := b.u8 (8 + 4 * i), sub := b.u8 (9 + 4 * i), index := b.u16 (10 + 4 * i) } else { }

/-- The slot is connected. -/
def InSlot.on (x : InSlot) : Bool := x.kind != 0xFF

/-- KIND is one of R206. -/
def InSlot.kindOk (x : InSlot) : Bool := x.kind ≤ 8 || x.kind == 0xFF

/-- SUB is in range for the kind (R206). -/
def InSlot.subOk (x : InSlot) : Bool := if x.kind = 3 then x.sub ≤ 31 || within 64 99 x.sub else x.sub == 0

/-- INDEX is in range for the kind and the order code (R206). -/
def InSlot.indexOk (l : Bool) (x : InSlot) : Bool :=
  match x.kind with
  | 0 => x.index < numSvCh l
  | 1 => x.index < numAcq l
  | 2 => x.index ≤ 7
  | 3 => x.index < numInsts l
  | 4 => x.index < 4096
  | 5 => x.index ≤ 31
  | 6 => x.index ≤ 23
  | 7 => x.index ≤ 255
  | 8 => x.index ≤ 7
  | _ => x.index == 0

/-- The slot's kind fits a class of a type (R206). A SUB that no class has is not the class's to refuse. -/
def InSlot.fits (t cls : Nat) (x : InSlot) : Bool :=
  match cls with
  | 0 => x.kind == (if t = 0x10 then 1 else 0)
  | 1 => x.kind == 2
  | 2 => (x.kind == 3 && !within 64 99 x.sub) || within 4 7 x.kind
  | 3 => (x.kind == 3 && !(x.sub ≤ 31)) || x.kind == 4
  | _ => x.kind == 8

/-- The bays of a BUS_DIFF instance that are connected. -/
def baysOf (b : Bytes) : List Nat := (List.range 64).filter fun i => (slotOf b (3 * i)).on

/-- Slot `i` of a type has a kind that R206 and the type's slot list allow there. -/
def slotOk (t : Nat) (b : Bytes) (i : Nat) : Bool :=
  let x := slotOf b i
  let entry := (typeSlots t).find? fun e => within e.1 (e.1 + e.2.1 - 1) i
  x.kindOk && (match entry with
    | none => !x.on
    | some (first, count, cls, need) =>
      if x.on then
        x.fits t cls && (t != 0x07 || i < 192 || (slotOf b (3 * (i - 192))).on)
      else need != 1 && !(need == 2 && (List.range count).any fun j => (slotOf b (first + j)).on)) &&
  (i != 0 || (t != 0x07 || !(baysOf b).isEmpty) && (t != 0x01 || (List.range 6).any fun j => (slotOf b j).on))

/-- N_IN holds every mandatory slot, and no block is cut by it. -/
def enoughSlots (t : Nat) (b : Bytes) : Bool :=
  (typeSlots t).all fun e =>
    let need := e.2.2.2 == 1 || (e.2.2.2 == 2 && (List.range e.2.1).any fun j => (slotOf b (e.1 + j)).on)
    !need || e.1 + e.2.1 ≤ b.u16 4

/-- PCLASS in use (R187). -/
def classOf (b : Bytes) : Nat := if b.u8 1 = 0xFF then typeClass (b.u8 0) else b.u8 1

/-- The instance runs single (R194). -/
def isSingle (b : Bytes) : Bool := bitOf (b.u8 2) 0

/-! ### Settings (R208) -/

/-- A setting: its number, whether INT32, its range, step and default in units of `1/den`, and whether 0 stands for off. -/
structure SetDef where
  no : Nat
  int : Bool := false
  lo : Int
  hi : Int
  step : Int := 1
  dflt : Int
  den : Nat := 1
  off : Bool := false

/-- An INT32 setting. -/
def setI (no : Nat) (lo hi dflt : Int) : SetDef := { no, int := true, lo, hi, dflt }
/-- An FP32 setting with limits, step and default in units of `1/den`. -/
def setF (no : Nat) (den : Nat) (lo hi step dflt : Int) (off : Bool := false) : SetDef := { no, lo, hi, step, dflt, den, off }

/-- The settings of zone `z` of DIST (R224). -/
def distZone (z : Nat) : List SetDef :=
  [setI (10 * z + 1) 0 2 (if z ≤ 2 then 1 else 0), setI (10 * z + 2) 0 2 0,
   setF (10 * z + 3) 100 1 50000 1 (if z = 1 then 2880 else 4320), setF (10 * z + 4) 100 1 50000 1 2000,
   setF (10 * z + 5) 1 0 10000 1 (if z = 1 then 0 else 400), setI (10 * z + 6) 1 3 3]

/-- The settings of stage `n` of FREQ (R231). -/
def freqStage (n : Nat) : List SetDef :=
  [setI (10 * n + 1) 0 4 0, setF (10 * n + 2) 1000 50 70000 1 49000, setF (10 * n + 3) 1 0 60000 1 200]

/-- The settings of a type, in ascending number. -/
def typeSettings : Nat → List SetDef
  | 0x01 => [setI 1 0 1 0, setI 2 10 240 50, setF 3 10000 9000 11000 1 10000, setF 4 1000 (-10000) 10000 1 0,
      setF 5 10000 9000 11000 1 10000, setF 6 1000 (-10000) 10000 1 0]
  | 0x02 => [setF 1 1 10 100000 1 5000, setF 2 1 10 100000 1 0 true, setI 3 0 2 0, setF 4 1 0 60000 1 0, setF 5 100 90 99 1 95]
  | 0x03 => [setF 1 1 10 20000 1 1000, setI 2 1 8 1, setF 3 100 1 1000 1 100, setF 4 1 0 60000 1 1000, setI 5 0 2 0,
      setF 6 1 0 60000 1 0, setF 7 100 100 120 1 110, setI 8 0 1 0]
  | 0x04 => [setF 1 1 (-180) 180 1 60, setF 2 1 30 90 1 85, setF 3 1 100 50000 10 2000, setF 4 1 5 10000 1 100, setI 5 0 1 0,
      setF 6 1 (-180) 180 1 (-45)]
  | 0x05 => [setF 1 100 1 50000 1 3600, setF 2 10 300 900 1 840, setF 3 1000 0 5000 1 700, setF 4 10 (-1800) 1800 1 0,
      setF 5 10 (-300) 300 1 0, setF 6 1 5 5000 1 200, setF 7 10 10 10000 1 0 true, setF 8 1 10 60 1 30, setI 9 2 10 2] ++
      (List.range 5).flatMap fun z => distZone (z + 1)
  | 0x06 => [setF 1 1 50 5000 1 200, setF 2 1 10 50 1 30, setF 3 1 500 20000 1 2000, setF 4 1 50 150 1 80, setF 5 1 0 2000 1 0,
      setF 6 1 0 1000 1 0]
  | 0x07 => [setF 1 1 50 10000 1 500, setF 2 1 20 90 1 60, setI 3 0 1 1, setI 4 0 1 1, setF 5 1 0 1000 1 0]
  | 0x08 => [setI 1 0 11 0, setI 2 0 11 0, setF 3 1000 100 10000 1 1000, setF 4 1000 100 10000 1 1000, setI 5 0 7 7,
      setF 6 1 20 5000 1 200, setF 7 1 10 50 1 30, setF 8 1 200 20000 1 2000, setF 9 1 50 150 1 80, setF 10 1 5 50 1 15,
      setF 11 1 10 80 1 35 true, setF 12 1 500 100000 1 10000]
  | 0x09 => [setF 1 1 1000 500000 10 0 true, setF 2 1 0 60000 1 1000, setF 3 1 1000 500000 10 0 true, setF 4 1 0 60000 1 1000,
      setF 5 1 1000 500000 10 0 true, setF 6 1 0 60000 1 1000, setF 7 1 1000 500000 10 0 true, setF 8 1 0 60000 1 1000,
      setI 9 0 1 0, setI 10 0 1 0, setF 11 1 100 100000 10 0 true, setF 12 100 101 110 1 102]
  | 0x0A => [setF 1 1 200 900 10 500, setF 2 1 20 1000 1 100] ++ (List.range 4).flatMap fun n => freqStage (n + 1)
  | 0x0B => [setF 1 1 10 10000 1 100, setF 2 1 0 1000 1 0, setF 3 1 50 1000 1 150, setI 4 0 2 0]
  | 0x0C => [setI 1 1 4 1, setF 2 1 100 300000 1 1000, setF 3 1 100 300000 1 1000, setF 4 1 100 300000 1 1000,
      setF 5 1 100 300000 1 1000, setF 6 1 1000 600000 1 30000, setF 7 1 50 1000 1 200, setF 8 1 0 60000 1 5000]
  | 0x0D => [setF 1 1 100 50000 10 10000, setF 2 100 1 100 1 10, setF 3 1 1 80 1 20, setI 4 0 15 1, setF 5 1 1000 500000 10 160000,
      setF 6 1 1000 500000 10 40000, setF 7 1 0 5000 1 100, setF 8 1 0 500 1 60]
  | 0x0E => [setF 1 1000 100 1000000 1 100000, setF 2 10000 1 20000 1 300, setF 3 10000 1 20000 1 3000, setF 4 10000 1 50000 1 2000,
      setF 5 10000 1 50000 1 10000, setI 6 0 1 0, setF 7 1 10 5000 1 500, setF 8 10 10 30 5 15]
  | 0x0F => [setF 1 1000 100 1000000 1 100000, setF 2 1 150000 300000 1 294000, setI 3 0 2 2, setF 4 1 10 5000 1 500,
      setF 5 1 5 100 1 20, setF 6 1 0 100 1 20, setF 7 1000 0 10000 1 500]
  | 0x10 => [setF 1 1 100 20000 10 3000, setI 2 1 64 10, setF 3 1 10 500 1 200, setF 4 10 1000 5000 1 2500, setF 5 1 10 500 1 150,
      setI 6 1 16 3, setF 7 10 5 50 1 20, setF 8 1 10 500 1 0 true, setF 9 1 1 5000 1 50, setI 10 0 1 1]
  | _ => []

/-- The reporting rates of R200. -/
def c37Rates : List Nat := [10, 12, 15, 20, 25, 30, 50, 60, 100, 120, 200, 240]

/-- The default of a setting as its 32-bit word. -/
def SetDef.word (d : SetDef) : U32 := if d.int then BitVec.ofInt 32 d.dflt else Fp.ofRat d.dflt d.den

/-- A value lies in its setting's range. A bound of an FP32 setting stands for the FP32 nearest to it. -/
def SetDef.inRange (d : SetDef) (w : U32) : Bool :=
  if d.int then decide (d.lo ≤ w.toInt ∧ w.toInt ≤ d.hi)
  else Fp.isFinite w && ((d.off && Fp.isZero w) || (Fp.le (Fp.ofRat d.lo d.den) w && Fp.le w (Fp.ofRat d.hi d.den)))

/-- A value rounded to its setting's step, counted from the minimum, ties up (R208). -/
def SetDef.round (d : SetDef) (w : U32) : U32 :=
  if d.int then w
  else if d.off && Fp.isZero w then 0
  else
    -- value times `den` in units of 2^-150, and the step in the same units
    let x : Int := Fp.val w * d.den - d.lo * 2 ^ 150
    let st : Int := d.step * 2 ^ 150
    let n := (2 * x + st) / (2 * st)
    Fp.ofRat (d.lo + n * d.step) d.den

/-- The entries of a SETTINGS body: PARAM and VALUE. -/
def setEntries (b : Bytes) : List (Nat × U32) :=
  (List.range (b.u16 4)).map fun i => (b.u16 (8 + 8 * i), BitVec.ofNat 32 (b.u32 (12 + 8 * i)))

/-- The value of a setting: what the record holds, or the default. -/
def setting (t : Nat) (vals : Table U32) (no : Nat) : U32 :=
  match vals.find? no with
  | some w => w
  | none => ((typeSettings t).find? fun d => d.no == no).elim 0 SetDef.word

/-- The body of a SETTINGS record from values in ascending number (R79, R208). -/
def setBody (inst : Nat) (vals : List (Nat × U32)) : Bytes :=
  packLe [(2, inst), (1, 0), (1, 0), (2, vals.length), (2, 0)] ++ vals.flatMap fun v => packLe [(2, v.1), (2, 0), (4, v.2.toNat)]

/-- Every setting of a type with its value, in ascending number (R79). -/
def allSettings (t : Nat) (vals : Table U32) : List (Nat × U32) := (typeSettings t).map fun d => (d.no, setting t vals d.no)

/-- Whether settings agree with one another, with the numbers of which one to report otherwise (R222, R231, R235). -/
def settingsAgree (t : Nat) (vals : Table U32) : Option (List Nat) :=
  let g (n : Nat) : U32 := setting t vals n
  match t with
  | 0x01 => if c37Rates.contains (g 2).toNat then none else some [2]
  | 0x03 => if (g 5).toNat = 2 && !within 5 7 (g 2).toNat then some [5, 2] else none
  | 0x0A => ((List.range 4).find? fun i =>
      let m := (g (10 * i + 11)).toNat
      let v := g (10 * i + 12)
      !(if m = 1 || m = 2 then fpWithin (fpOf 40) (fpOf 70) v
        else if m = 0 then true else fpWithin (fpOf 5 100) (fpOf 20) v)).map fun i => [10 * i + 12, 10 * i + 11]
  | 0x0D => if Fp.lt (g 6) (g 5) then none else some [6, 5]
  | _ => none

/-! ### Records -/

/-- The INSTANCE, SETTINGS and ENVELOPE records (R205, R208, R214). Checks of a SETTINGS or ENVELOPE record that need the
instance's type are made with the type `t` that the transaction gives it, if it has one. -/
def instSpec (l : Bool) (t : Option Nat) (rtype obj : Nat) (b : Bytes) : Option RecSpec :=
  match rtype with
  | 0x501 =>
    let ty := b.u8 0
    let n := b.u16 4
    some
      { objOk := obj < numInsts l, fixed := 8, counts := [(4, within 1 256 n)], len := 8 + 4 * n
        checks := [(0, within 1 16 ty), (1, b.u8 1 == 0xFF || (b.u8 1 ≤ 3 && (b.u8 1 ≤ 1 || typeSingle ty))),
            (2, onlyBits 1 (b.u8 2) && (!isSingle b || typeSingle ty)), (3, b.u8 3 == 50 || b.u8 3 == 60), (4, enoughSlots ty b),
            (6, zeroAt b 6 2)] ++ (List.range n).flatMap fun i =>
              let o := 8 + 4 * i
              [(o, slotOk ty b i), (o + 1, (slotOf b i).subOk), (o + 2, (slotOf b i).indexOk l)]
        needs := (if isSingle b then [] else [0]) ++
          if (List.range n).any fun i => (slotOf b i).kind == 1 || (slotOf b i).kind == 2 then [1] else [] }
  | 0x502 =>
    let n := b.u16 4
    let es := setEntries b
    some
      { objOk := obj < numInsts l, fixed := 8, counts := [(4, within 1 128 n)], len := 8 + 8 * n
        checks := [(0, b.u16 0 == obj), (2, zeroAt b 2 1), (3, zeroAt b 3 1), (6, zeroAt b 6 2)] ++ (List.range n).flatMap fun i =>
          let e := es.getD i (0, 0)
          [(8 + 8 * i, !(((es.take i).map (·.1)).contains e.1) &&
            t.all fun ty => ((typeSettings ty).find? fun d => d.no == e.1).any fun d =>
              if ty == 0x0A && e.1 % 10 == 2 && 10 ≤ e.1 then
                fpWithin (fpOf 5 100) (fpOf 70) e.2
              else d.inRange e.2), (10 + 8 * i, zeroAt b (10 + 8 * i) 2)] }
  | 0x503 =>
    let n := b.u8 2
    some
      { objOk := obj < numInsts l, fixed := 4, counts := [(2, within 1 4 n)], len := 4 + 12 * n
        checks := [(0, b.u16 0 == obj && t.all typeHasC), (3, zeroAt b 3 1)] ++ (List.range n).flatMap fun i =>
          let o := 4 + 12 * i
          [(o, within 1 4 (b.u8 o) && (b.u8 o != 4 || t.all (· == 0x10))), (o + 1, zeroAt b (o + 1) 3),
           (o + 4, Fp.isFinite (b.fp (o + 4)) && Fp.le (b.fp (o + 4)) (b.fp (o + 8))), (o + 8, Fp.isFinite (b.fp (o + 8)))] }
  | _ => none

/-! ### Windows and cost (R210, R216) -/

/-- Ticks per nominal cycle (R209). -/
def cycleTicks (rate : Nat) (b : Bytes) : Nat := rate / b.u8 3

/-- Half length of the class M window (R216). -/
def halfM (rate : Nat) (repRate : Nat) : Nat := ceilDiv (4 * rate) repRate

/-- Window length in ticks (R210). For FLOC_TW and FREQ it is 0, for DC_LINE the ticks of SPAN_PRE and one more. -/
def windowTicks (rate : Nat) (b : Bytes) (vals : Table U32) : Nat :=
  let p := cycleTicks rate b
  let g (n : Nat) : U32 := setting (b.u8 0) vals n
  match b.u8 0 with
  | 0x01 => if (g 1).toNat = 0 then 2 * p - 1 else 2 * halfM rate (g 2).toNat + 1
  | 0x04 => 3 * p
  | 0x05 => 3 * p
  | 0x0A => 0
  | 0x0C => 0
  | 0x0E => 6 * p
  | 0x0F => 0
  | 0x10 => 1 + ceilDiv ((Fp.roundInt (Fp.mul (g 7) (fpOf 10))).toNat * rate) 10000
  | _ => p

/-- Declared cost in ns (R210): `segLen` is the LEN of a FLOC_TW's group, `outs` the outputs of a DC_LINE's channels in a tick. -/
def typeCost (rate : Nat) (b : Bytes) (vals : Table U32) (segLen outs : Nat) : Nat :=
  let fast := rate == 14400
  let p (a c : Nat) : Nat := if fast then c else a
  match b.u8 0 with
  | 0x01 => 1500 + 10 * windowTicks rate b vals
  | 0x02 => p 2500 2800
  | 0x03 => p 3500 3800
  | 0x04 => p 5000 5500
  | 0x05 => p 31000 33000
  | 0x06 => p 9000 10000 + if (slotOf b 6).on then p 3000 3500 else 0
  | 0x07 => p 3500 4000 + (baysOf b).length * p 500 550
  | 0x08 => p 12000 13500
  | 0x09 => p 2000 2300
  | 0x0A => 1500
  | 0x0B => p 2000 2200
  | 0x0C => 800
  | 0x0D => p 3000 3300
  | 0x0E => p 6000 7000
  | 0x0F => 25000 + 5 * (segLen - 4096)
  | _ => 2000 + 40 * outs

end Sys2Proof.Machine
end

