-- ==== Sys2Proof/Machine/LibMath.lean ====
section
/-!
DEFINITION. What an execution of a library instance reads and leaves, phasors and sequence components, timers (R176, R177,
R186, R209 to R212).
-/
namespace Sys2Proof.Machine

/-! ### Complex numbers in FP32 -/

/-- A complex number. -/
structure Cx where
  re : Fp := 0
  im : Fp := 0
  deriving DecidableEq, Repr

namespace Cx

/-- Sum, difference, product, conjugate, quotient, negation and scaling. -/
def add (a b : Cx) : Cx := { re := Fp.add a.re b.re, im := Fp.add a.im b.im }
@[inherit_doc add] def sub (a b : Cx) : Cx := { re := Fp.sub a.re b.re, im := Fp.sub a.im b.im }
@[inherit_doc add] def mul (a b : Cx) : Cx :=
  { re := Fp.sub (Fp.mul a.re b.re) (Fp.mul a.im b.im), im := Fp.add (Fp.mul a.re b.im) (Fp.mul a.im b.re) }
@[inherit_doc add] def conj (a : Cx) : Cx := { a with im := Fp.neg a.im }
@[inherit_doc add] def neg (a : Cx) : Cx := { re := Fp.neg a.re, im := Fp.neg a.im }
@[inherit_doc add] def scale (k : Fp) (a : Cx) : Cx := { re := Fp.mul k a.re, im := Fp.mul k a.im }
/-- The magnitude. -/
def mag (a : Cx) : Fp := Fp.sqrt (Fp.add (Fp.mul a.re a.re) (Fp.mul a.im a.im))
@[inherit_doc add] def div (a b : Cx) : Cx :=
  let d := Fp.add (Fp.mul b.re b.re) (Fp.mul b.im b.im)
  let n := mul a (conj b)
  { re := Fp.div n.re d, im := Fp.div n.im d }
/-- 1 at an angle in radians. -/
def cis (t : Fp) : Cx := { re := Config.fcos t, im := Config.fsin t }
/-- A magnitude at an angle in degrees. -/
def polar (m d : Fp) : Cx := scale m (cis (Fp.mul d (fpOf 17453293 1000000000)))
/-- The angle in degrees. -/
def deg (a : Cx) : Fp := Fp.mul (Config.fatan2 a.im a.re) (fpOf 57295780 1000000)

end Cx

/-- e^(j120°) and its square. -/
def cxA : Cx := { re := fpOf (-1) 2, im := fpOf 86602540 100000000 }
@[inherit_doc cxA] def cxA2 : Cx := cxA.conj

/-- Wraps an angle of at most a few turns to (−180°, 180°]. -/
def wrapDeg (d : Fp) : Fp :=
  let down (x : Fp) : Fp := if Fp.lt (fpOf 180) x then Fp.sub x (fpOf 360) else x
  let up (x : Fp) : Fp := if Fp.le x (fpOf (-180)) then Fp.add x (fpOf 360) else x
  up (up (down (down d)))

/-- Symmetrical components of three phasors (R211). -/
def seqs (x : List Cx) : Cx × Cx × Cx :=
  let a := x.getD 0 { }
  let b := x.getD 1 { }
  let c := x.getD 2 { }
  let third := Cx.scale (fpOf 1 3)
  (third ((a.add b).add c), third ((a.add (cxA.mul b)).add (cxA2.mul c)), third ((a.add (cxA2.mul b)).add (cxA.mul c)))

/-! ### What an execution reads (R177) -/

/-- A segment as FLOC_TW reads it. -/
structure SegIn where
  seg : Segment
  /-- Engineering values per channel, oldest first. -/
  data : List (List Fp)
  deriving Repr

/-- What an execution for a tick reads: its window, its state, its settings and the tick input image. Slots that are not
connected read false and 0. -/
structure LibIn where
  rate : Nat
  k : Nat × Nat
  ty : Nat
  body : Bytes
  vals : Table U32
  st : FState
  /-- Per class A slot, the samples of the window in engineering units, newest first. -/
  wins : List (List Fp) := []
  /-- OR of the flags of the window. -/
  q : Quality := 0
  bits : List Bool := []
  nums : List U32 := []
  numQ : List Quality := []
  /-- Frequency, amplitude as a fraction of NOM_AMPL, and whether LOCKED, of the tracker of slot 0. -/
  trk : Fp × Fp × Bool := (0, 0, false)
  /-- Outputs of the tick and the window before it for DC_LINE, oldest first: instant, voltage, current; the first index of
  the tick's own; and the output period in 2^-16 ns. -/
  outs : List (Fine × Fp × Fp) := []
  outFirst : Nat := 0
  tOut : Nat := 0
  seg : Option SegIn := none
  free : Nat := 0

/-- What an execution leaves: its state, OUTBITS as the numbers of the bits that are 1, VALUES of all parts, a deciding
sample other than that of the tick, the segment it has finished with, and the quantities of an envelope (R214). -/
structure LibOut where
  st : FState
  bits : List Nat := []
  vals : List U32 := []
  decide : Option Fine := none
  segDone : Option Nat := none
  /-- Largest phase current, frequency, positive-sequence voltage, DC current. -/
  env : List (Option Fp) := [none, none, none, none]

/-- A setting as a number. -/
def LibIn.g (e : LibIn) (n : Nat) : Fp := setting e.ty e.vals n
/-- An INT32 setting. -/
def LibIn.gi (e : LibIn) (n : Nat) : Nat := (setting e.ty e.vals n).toNat
/-- Ticks per nominal cycle. -/
def LibIn.p (e : LibIn) : Nat := cycleTicks e.rate e.body
/-- A slot is connected. -/
def LibIn.on (e : LibIn) (slot : Nat) : Bool := (slotOf e.body slot).on
/-- A class S slot. -/
def LibIn.bit (e : LibIn) (slot : Nat) : Bool := e.bits.getD slot false
/-- A class N slot. -/
def LibIn.num (e : LibIn) (slot : Nat) : U32 := e.nums.getD slot 0
/-- A value that the spec does not state. -/
def LibIn.open_ (e : LibIn) (n : Nat) : Fp := Config.unstated n e.free

/-- A delay in ms as ticks (R212). -/
def LibIn.ticks (e : LibIn) (ms : Fp) : Nat := ceilDiv ((Fp.roundInt ms).toNat * e.rate) 1000

end Sys2Proof.Machine

namespace Sys2Proof

/-! ### State of an instance -/

/-- Timers, bits and words of an instance's state. Numbers below 100 are timers and starts, which a held element leaves
standing and resets after P ticks (R213); numbers from 100 are latches and values, which it keeps; numbers from 500 are
histories of inputs, which go on. -/
def FState.int (s : FState) (n : Nat) : Nat := (s.ints.get 0 n).toNat
@[inherit_doc FState.int] def FState.setInt (n v : Nat) (s : FState) : FState := { s with ints := s.ints.put n v }
@[inherit_doc FState.int] def FState.bit (s : FState) (n : Nat) : Bool := s.bits.get false n
@[inherit_doc FState.int] def FState.setBit (n : Nat) (v : Bool) (s : FState) : FState := { s with bits := s.bits.put n v }
@[inherit_doc FState.int] def FState.word (s : FState) (n : Nat) : U32 := s.words.get 0 n
@[inherit_doc FState.int] def FState.setWord (n : Nat) (v : U32) (s : FState) : FState := { s with words := s.words.put n v }

/-- A timer of R212: counts the ticks for which its condition has held without a break, and says whether the delay has
elapsed. -/
def FState.timer (key : Nat) (cond : Bool) (delay : Nat) (s : FState) : FState × Bool :=
  let n := if cond then s.int key + 1 else 0
  (s.setInt key n, decide (delay < n))

/-- Runs `timer` for several conditions, each under its own number. -/
def FState.timers (key : Nat) (delay : Nat) : List Bool → FState → FState × List Bool
  | [], s => (s, [])
  | c :: cs, s =>
    let (s, r) := s.timer key c delay
    let (s, rs) := FState.timers (key + 1) delay cs s
    (s, r :: rs)

end Sys2Proof

namespace Sys2Proof.Machine

/-- The numbers `first + i` of the true entries. -/
def bitsAt (first : Nat) (bs : List Bool) : List Nat := (bs.zipIdx.filter fun b => b.1).map fun b => first + b.2
/-- Any is true. -/
def anyOf (bs : List Bool) : Bool := bs.any id

/-! ### Phasors (R211) -/

/-- 2π. -/
def twoPi : Fp := fpOf 62831853 10000000
/-- √2. -/
def root2 : Fp := fpOf 141421356 100000000
/-- The angle 2π n / d. -/
def turn (n d : Nat) : Fp := Fp.mul twoPi (Fp.ofRat n d)

/-- The sum Σ x(i) e^(j2πhi/P) over samples newest first, times `√2 gain / P`. -/
def dftOf (p h : Nat) (gain : Fp) (xs : List Fp) : Cx :=
  let k := Fp.mul gain (Fp.div root2 (Fp.ofInt p))
  let term (f : Fp → Fp) : Fp := Config.treeSum (xs.zipIdx.map fun x => Fp.mul x.1 (f (turn (h * x.2) p)))
  { re := Fp.mul k (term Config.fcos), im := Fp.mul k (term Config.fsin) }

/-- The samples of a slot from `back` ticks before the newest, newest first. -/
def LibIn.from_ (e : LibIn) (slot back n : Nat) : List Fp := ((e.wins.getD slot []).drop back).take n

/-- The one-cycle DFT of a slot ending `back` ticks before the newest sample. -/
def LibIn.dft (e : LibIn) (slot : Nat) (back : Nat := 0) (h : Nat := 1) : Cx := dftOf e.p h Fp.one (e.from_ slot back e.p)

/-- The one-cycle DFTs of three slots. -/
def LibIn.dft3 (e : LibIn) (slot : Nat) (back : Nat := 0) (h : Nat := 1) : List Cx :=
  (List.range 3).map fun i => e.dft (slot + i) back h

/-- The half-cycle DFT: the last P/2 samples with twice the gain (log entry 40). -/
def halfDft (p : Nat) (xs : List Fp) : Cx := dftOf p 1 (fpOf 2) (xs.take (p / 2))

/-- The largest of some FP32 numbers, at least 0. -/
def fpMax (xs : List Fp) : Fp := xs.foldl Fp.max 0

/-- The values of a part, padded to nine words. -/
def part9 (vs : List U32) : List U32 := vs ++ List.replicate (9 - vs.length) 0

end Sys2Proof.Machine
end

