-- ==== Sys2Proof/Machine/LibMeasure.lean ====
section
/-!
DEFINITION. PHASOR, overcurrent, direction, voltage and frequency functions (R215 to R223, R230, R231).
-/
namespace Sys2Proof.Machine

/-! ### PHASOR (R215 to R218) -/

/-- Half the window. -/
def LibIn.half (e : LibIn) : Nat := if e.gi 1 = 0 then e.p - 1 else halfM e.rate (e.gi 2)

/-- The weight of sample `i` from the centre (R216). -/
def LibIn.weight (e : LibIn) (i : Int) : Fp :=
  if e.gi 1 = 0 then Fp.ofRat (e.p - i.natAbs : Nat) e.p
  else
    let n := e.half
    let a := Fp.ofRat (2 * (e.gi 2 : Int) * i) (5 * e.rate)
    let pa := Fp.mul a (fpOf 31415927 10000000)
    let sinc := if i = 0 then Fp.one else Fp.div (Config.fsin pa) pa
    Fp.mul sinc (Fp.add (fpOf 54 100) (Fp.mul (fpOf 46 100) (Config.fcos (Fp.mul (fpOf 31415927 10000000) (Fp.ofRat i n)))))

/-- The estimate of one slot, before its corrections; `fPrev` is the frequency of the previous report. -/
def LibIn.estimate (e : LibIn) (slot : Nat) (fPrev : Fp) : Cx :=
  let n := e.half
  let nom : Fp := Fp.ofInt (e.body.u8 3)
  let xs := (e.wins.getD slot []).zipIdx.map fun x => (x.1, (n : Int) - x.2)
  let w (i : Int) : Fp := e.weight i
  let ang (i : Int) : Fp := Fp.mul twoPi (Fp.ofRat i e.p)
  let sumW := if e.gi 1 = 0 then Fp.ofInt e.p else Config.treeSum (xs.map fun x => w x.2)
  let re := Config.treeSum (xs.map fun x => Fp.mul (Fp.mul (w x.2) x.1) (Config.fcos (ang x.2)))
  let im := Config.treeSum (xs.map fun x => Fp.mul (Fp.mul (w x.2) x.1) (Fp.neg (Config.fsin (ang x.2))))
  let gain := Fp.div (Config.treeSum (xs.map fun x =>
      Fp.mul (w x.2) (Config.fcos (Fp.mul (Fp.mul twoPi (Fp.sub fPrev nom)) (Fp.ofRat x.2 e.rate))))) sumW
  (Cx.scale (Fp.div (Fp.div root2 sumW) gain) { re, im }).mul (Cx.cis (Fp.neg (turn (e.k.2 % e.p) e.p)))

/-- PHASOR. FREQ and DFREQ of a first report are not stated (log entry 19). -/
def libPhasor (e : LibIn) : LibOut :=
  let st := e.st
  let nom : Fp := Fp.ofInt (e.body.u8 3)
  let rate : Fp := Fp.ofInt (e.gi 2)
  let first := !st.bit 500
  let fPrev := if first then nom else st.word 501
  let corr (m a : Nat) (x : Cx) : Cx := x.mul (Cx.polar (e.g m) (e.g a))
  let ph (slot m a : Nat) : Cx := if e.on slot then corr m a (e.estimate slot fPrev) else { }
  let v := (List.range 3).map fun i => ph i 3 4
  let i := (List.range 3).map fun j => ph (3 + j) 5 6
  let (v0, v1, v2) := seqs v
  let (i0, i1, i2) := seqs i
  let anyV := (List.range 3).any fun j => e.on j
  let psi := (if anyV then v1 else i1).deg
  let freq := if first then e.open_ 1 else
    Fp.add nom (Fp.mul (Fp.div (wrapDeg (Fp.sub psi (st.word 500))) (fpOf 360)) rate)
  let dfreq := if first then e.open_ 2 else Fp.mul (Fp.sub freq (st.word 501)) rate
  let s := ((List.range 3).map fun j => (v.getD j { }).mul (i.getD j { }).conj).foldl Cx.add { }
  let sm := s.mag
  let pf := if Fp.isZero sm then e.open_ 3 else Fp.div s.re sm
  let count := st.word 502 + 1
  let flat (x : Cx) : List U32 := [x.re, x.im]
  { st := (((st.setBit 500 true).setWord 500 psi).setWord 501 freq).setWord 502 count
    vals := (flat v1 ++ v.flatMap flat ++ [freq]) ++ (flat i1 ++ i.flatMap flat ++ [dfreq]) ++
      [s.re, s.im, sm, pf, v2.mag, i2.mag, v0.mag, i0.mag, count]
    env := [some (fpMax (i.map Cx.mag)), some freq, some v1.mag, none] }

/-! ### Overcurrent (R220 to R222) -/

/-- The residual samples: slot 3, or the sum of the phases. -/
def LibIn.residual (e : LibIn) : List Fp :=
  if e.on 3 then e.wins.getD 3 []
  else ((e.wins.getD 0 []).zip ((e.wins.getD 1 []).zip (e.wins.getD 2 []))).map fun x => Fp.add (Fp.add x.1 x.2.1) x.2.2

/-- 3|I0| of the phases, or the measured residual current. -/
def LibIn.residualMag (e : LibIn) : Fp :=
  if e.on 3 then (e.dft 3).mag else Fp.mul (fpOf 3) (seqs (e.dft3 0)).1.mag

/-- The largest magnitude of the samples divided by √2. -/
def peakOf (xs : List Fp) : Fp := Fp.div (fpMax (xs.map Fp.abs)) root2

/-- OC_INST (R220). -/
def libOcInst (e : LibIn) : LibOut :=
  let m : List Fp := match e.gi 3 with
    | 0 => (e.dft3 0).map Cx.mag ++ [e.residualMag]
    | 1 => ((List.range 3).map fun i => (halfDft e.p (e.wins.getD i [])).mag) ++ [(halfDft e.p e.residual).mag]
    | _ => ((List.range 3).map fun i => peakOf (e.wins.getD i [])) ++ [peakOf e.residual]
  let starts := m.zipIdx.map fun x =>
    let pick := if x.2 = 3 then e.g 2 else e.g 1
    !Fp.isZero pick && (Fp.lt pick x.1 || (e.st.bit x.2 && !Fp.lt x.1 (Fp.mul (e.g 5) pick)))
  let st := starts.zipIdx.foldl (fun s b => s.setBit b.2 b.1) e.st
  let (st, ops) := st.timers 1 (e.ticks (e.g 4)) starts
  { st, bits := (if anyOf ops then [0] else []) ++ (if anyOf starts then [1] else []) ++ bitsAt 3 starts, vals := m
    env := [some (fpMax (m.take 3)), none, none, none] }

/-- k, α as (numerator, denominator), c and tr_k of a curve (R222). -/
def curveOf : Nat → Fp × Nat × Fp × Fp
  | 1 => (fpOf 14 100, 0, 0, 0)
  | 2 => (fpOf 27 2, 1, 0, 0)
  | 3 => (fpOf 80, 2, 0, 0)
  | 4 => (fpOf 120, 1, 0, 0)
  | 5 => (fpOf 515 10000, 0, fpOf 114 1000, fpOf 485 100)
  | 6 => (fpOf 1961 100, 2, fpOf 491 1000, fpOf 216 10)
  | _ => (fpOf 282 10, 2, fpOf 1217 10000, fpOf 291 10)

/-- A ratio to the power α; α is 0.02 for code 0, else the code. -/
def powAlpha (r : Fp) : Nat → Fp
  | 0 => Config.fexp (Fp.mul (fpOf 2 100) (Config.flog r))
  | 1 => r
  | _ => Fp.mul r r

/-- The operate time t(G) in s (R222). -/
def LibIn.operateTime (e : LibIn) (ratio : Fp) : Fp :=
  if e.gi 2 = 8 then Fp.div (e.g 4) (fpOf 1000)
  else
    let (k, al, c, _) := curveOf (e.gi 2)
    Fp.mul (e.g 3) (Fp.add (Fp.div k (Fp.sub (powAlpha (Fp.min ratio (fpOf 20)) al) Fp.one)) c)

/-- OC_TIME (R221, R222). TRIP is 1 while z stands at 1 (log entry 41). -/
def libOcTime (e : LibIn) : LibOut :=
  let is := e.g 1
  let phases := (e.dft3 0).map Cx.mag
  let g := if e.gi 8 = 1 then e.residualMag else fpMax phases
  let ratio := Fp.div g is
  let t := e.operateTime ratio
  let rate : Fp := Fp.ofInt e.rate
  let start := Fp.lt (Fp.mul (e.g 7) is) g
  let z := e.st.word 1
  let (st, reset) := e.st.timer 1 (!start) (e.ticks (e.g 6))
  let tr := Fp.div (Fp.mul (e.g 3) (curveOf (e.gi 2)).2.2.2) (Fp.sub Fp.one (Fp.mul ratio ratio))
  let z' : Fp :=
    if start then Fp.min (Fp.add z (Fp.div Fp.one (Fp.mul t rate))) Fp.one
    else match e.gi 5 with
      | 0 => 0
      | 1 => if reset then 0 else z
      | _ => if Fp.isPos tr then Fp.max (Fp.sub z (Fp.div Fp.one (Fp.mul tr rate))) 0 else z
  { st := st.setWord 1 z'
    bits := (if Fp.le Fp.one z' then [0] else []) ++ (if start then [1] else []) ++ (if start && e.gi 8 = 1 then [3] else [])
    vals := [g, z', Fp.mul t (fpOf 1000)]
    env := [some (fpMax phases), none, none, none] }

/-! ### Direction (R223) -/

/-- The angle arg I − arg V, and whether it lies within `half` of −`rca`, and of that with 180° added. -/
def direction (i v : Cx) (rca half : Fp) : Fp × Bool × Bool :=
  let a := wrapDeg (Fp.sub i.deg v.deg)
  (a, Fp.le (Fp.abs (wrapDeg (Fp.add a rca))) half, Fp.le (Fp.abs (wrapDeg (Fp.add (Fp.add a rca) (fpOf 180)))) half)

/-- A phasor of the positive sequence rotated to phase 0, 1 or 2. -/
def rotTo (v : Cx) : Nat → Cx
  | 0 => v
  | 1 => cxA2.mul v
  | _ => cxA.mul v

/-- DIR (R223). -/
def libDir (e : LibIn) : LibOut :=
  let mem := (seqs (e.dft3 0 (2 * e.p))).2.1
  let i := e.dft3 3
  let (v0, v1, v2) := seqs (e.dft3 0)
  let (i0, _, i2) := seqs i
  let gnd := if e.gi 5 = 0 then (i2, v2) else (i0, v0)
  let els := ((List.range 3).map fun n => (i.getD n { }, rotTo mem n, e.g 1)) ++ [(gnd.1, gnd.2, e.g 6)]
  let res := els.map fun x =>
    let (a, f, r) := direction x.1 x.2.1 x.2.2 (e.g 2)
    let ok := !Fp.lt x.1.mag (e.g 4) && !Fp.lt x.2.1.mag (e.g 3)
    (a, ok && f, ok && r)
  { st := e.st, bits := bitsAt 3 (res.map (·.2.1)) ++ bitsAt 7 (res.map (·.2.2)), vals := res.map (·.1)
    env := [some (fpMax (i.map Cx.mag)), none, some v1.mag, none] }

/-! ### Voltage and frequency (R230, R231) -/

/-- VOLT (R230). -/
def libVolt (e : LibIn) : LibOut :=
  let v := e.dft3 0
  let at_ (n : Nat) : Cx := v.getD n { }
  let m : List Fp := if e.gi 9 = 0 then v.map Cx.mag
    else [((at_ 0).sub (at_ 1)).mag, ((at_ 1).sub (at_ 2)).mag, ((at_ 2).sub (at_ 0)).mag]
  let all := e.gi 10 = 1
  let drop := e.g 12
  let dead := !Fp.isZero (e.g 11) && m.all fun x => Fp.lt x (e.g 11)
  -- per stage and phase, whether the voltage stands beyond the level
  let beyond (stage : Nat) : List Bool := m.zipIdx.map fun x =>
    let lvl := e.g (2 * stage + 1)
    let was := e.st.bit (3 * stage + x.2)
    !Fp.isZero lvl && (if stage < 2 then !dead && (Fp.lt x.1 lvl || (was && Fp.lt x.1 (Fp.mul lvl drop)))
      else Fp.lt lvl x.1 || (was && Fp.lt (Fp.mul lvl (Fp.div Fp.one drop)) x.1))
  let st := (List.range 4).foldl (fun s n => (beyond n).zipIdx.foldl (fun s b => s.setBit (3 * n + b.2) b.1) s) e.st
  let picked := (List.range 4).map fun n => if all then (beyond n).all id else anyOf (beyond n)
  let (st, ops) := picked.zipIdx.foldl (fun (acc : FState × List Bool) p =>
    let (s, r) := acc.1.timer (p.2 + 1) p.1 (e.ticks (e.g (2 * p.2 + 2)))
    (s, acc.2 ++ [r])) (st, [])
  { st, bits := (if anyOf ops then [0] else []) ++ (if anyOf picked then [1] else []) ++ bitsAt 3 ops, vals := m
    env := [none, none, some (seqs v).2.1.mag, none] }

/-- The FREQ stages are held: the tracker is not LOCKED or its amplitude below AMPL_BLOCK (R231). -/
def LibIn.freqHeld (e : LibIn) : Bool :=
  !e.trk.2.2 || Fp.lt e.trk.2.1 (Fp.div (e.g 1) (fpOf 1000))

/-- FREQ (R231). The change over DFDT_WIN is not stated before that time has passed (log entry 19). -/
def libFreq (e : LibIn) : LibOut :=
  let n := max 1 (e.ticks (e.g 2))
  let have_ := e.st.int 500
  let f := e.trk.1
  let dfdt := if have_ < n then e.open_ 4
    else Fp.div (Fp.sub f (e.st.word (1000 + (e.st.int 501 + 20000 - n) % 20000))) (Fp.div (e.g 2) (fpOf 1000))
  let st := ((e.st.setWord (1000 + e.st.int 501) f).setInt 501 ((e.st.int 501 + 1) % 20000)).setInt 500 (min (have_ + 1) 20000)
  let conds := (List.range 4).map fun i =>
    let lvl := e.g (10 * i + 12)
    match e.gi (10 * i + 11) with
    | 1 => Fp.lt f lvl
    | 2 => Fp.lt lvl f
    | 3 => Fp.lt dfdt (Fp.neg lvl)
    | 4 => Fp.lt lvl dfdt
    | _ => false
  let (st, ops) := conds.zipIdx.foldl (fun (acc : FState × List Bool) p =>
    let (s, r) := acc.1.timer (p.2 + 1) p.1 (e.ticks (e.g (10 * p.2 + 13)))
    (s, acc.2 ++ [r])) (st, [])
  { st, bits := (if anyOf ops then [0] else []) ++ (if anyOf conds then [1] else []) ++ bitsAt 3 ops, vals := [f, dfdt]
    env := [none, some f, none, none] }

end Sys2Proof.Machine
end

