-- ==== Sys2Proof/Machine/LibProtect.lean ====
section
/-!
DEFINITION. Distance, differential and breaker functions and the HVDC line protection (R224 to R229, R232 to R235, R243,
R244).
-/
namespace Sys2Proof.Machine

/-! ### Loops (R225, R237) -/

/-- Voltage and current of the six loops AG, BG, CG, AB, BC and CA. -/
def loopsOf (k0 : Cx) (v i : List Cx) : List (Cx × Cx) :=
  let at_ (l : List Cx) (n : Nat) : Cx := l.getD (n % 3) { }
  let i0 := Cx.scale (fpOf 3) (seqs i).1
  ((List.range 3).map fun n => (at_ v n, (at_ i n).add (k0.mul i0))) ++
  (List.range 3).map fun n => ((at_ v n).sub (at_ v (n + 1)), (at_ i n).sub (at_ i (n + 1)))

/-- A positive-sequence phasor as the polarising voltages of the six loops. -/
def polsOf (m : Cx) : List Cx :=
  ((List.range 3).map fun n => rotTo m n) ++ (List.range 3).map fun n => (rotTo m n).sub (rotTo m ((n + 1) % 3))

/-! ### DIST (R224 to R226) -/

/-- The tangent of an angle in degrees. -/
def tanDeg (d : Fp) : Fp :=
  let c := Cx.polar Fp.one d
  Fp.div c.im c.re

/-- Whether a loop operates in a zone (R225). Reverse zones mirror the plane; a zone without direction takes the impedance
itself (log entry 42). -/
def LibIn.zoneTest (e : LibIn) (z : Nat) (v i pol : Cx) : Bool :=
  let g (n : Nat) : Fp := e.g (10 * z + n)
  let dir := e.gi (10 * z + 2)
  let reach := Cx.polar (g 3) (e.g 2)
  let iz := i.mul reach
  match e.gi (10 * z + 1) with
  | 1 =>
    if dir = 2 then Fp.lt v.mag iz.mag
    else
      let s1 := (if dir = 1 then iz.neg else iz).sub v
      Fp.lt 0 (s1.mul pol.conj).re
  | 2 =>
    let zz := (v.div i)
    let zz := if dir = 1 then zz.neg else zz
    let cot := Fp.div Fp.one (tanDeg (e.g 2))
    let (_, f, r) := direction i pol (Fp.sub (fpOf 90) (e.g 2)) (fpOf 85)
    Fp.le zz.im (Fp.add (g 3) (Fp.mul zz.re (tanDeg (e.g 5)))) &&
    Fp.le (Fp.abs (Fp.sub zz.re (Fp.mul zz.im cot))) (g 4) &&
    (match dir with
      | 0 => f
      | 1 => r
      | _ => true)
  | _ => false

/-- DIST (R224 to R226). R and X of a loop that is not evaluated are not stated (log entry 19). -/
def libDist (e : LibIn) : LibOut :=
  let v := e.dft3 0
  let i := e.dft3 3
  let loops := loopsOf (Cx.polar (e.g 3) (e.g 4)) v i
  let v1 := (seqs v).2.1
  let since := e.st.int 50
  -- the memory voltage: sliding before a START, kept from it for MEM_CYCLES, then the present V1
  let mem : Cx :=
    if since = 0 then (seqs (e.dft3 0 (2 * e.p))).2.1
    else if since ≤ e.gi 9 * e.p then ({ re := e.st.word 100, im := e.st.word 101 } : Cx).mul (Cx.cis (turn (since % e.p) e.p))
    else v1
  let pols := polsOf mem
  let active := loops.map fun l => !Fp.lt l.2.mag (e.g 6)
  let zs := loops.zipIdx.map fun l => if active.getD l.2 false then l.1.1.div l.1.2
    else { re := e.open_ (10 + 2 * l.2), im := e.open_ (11 + 2 * l.2) }
  let load := zs.zipIdx.map fun z => !Fp.isZero (e.g 7) && active.getD z.2 false && Fp.lt (e.g 7) z.1.re &&
    Fp.le (Fp.abs z.1.im) (Fp.mul z.1.re (tanDeg (e.g 8)))
  let op (z n : Nat) : Bool :=
    let l := loops.getD n ({ }, { })
    let sel := e.gi (10 * z + 6)
    active.getD n false && !load.getD n false && (if n < 3 then sel != 1 else sel != 2) &&
    e.zoneTest z l.1 l.2 (pols.getD n { })
  let ops := (List.range 5).map fun z => (List.range 6).map fun n => op (z + 1) n
  let prev (z n : Nat) : Bool := e.st.bit (6 * z + n)
  let picks := (List.range 5).map fun z => (List.range 6).any fun n => (ops.getD z []).getD n false && prev z n
  let st := ops.zipIdx.foldl (fun s z => z.1.zipIdx.foldl (fun s b => s.setBit (6 * z.2 + b.2) b.1) s) e.st
  let (st, trips) := picks.zipIdx.foldl (fun (acc : FState × List Bool) p =>
    let (s, r) := acc.1.timer (p.2 + 1) p.1 (e.ticks (e.g (10 * p.2 + 15)))
    (s, acc.2 ++ [r])) (st, [])
  let start := anyOf picks
  let st := if start then
      (if since = 0 then ((st.setWord 100 mem.re).setWord 101 mem.im).setInt 50 1 else st.setInt 50 (since + 1))
    else st.setInt 50 0
  let lops := (List.range 6).map fun n => ops.any fun z => z.getD n false
  let flat (x : Cx) : List U32 := [x.re, x.im]
  let low := ((List.range 5).find? fun z => picks.getD z false).elim 0 (· + 1)
  { st, bits := (if anyOf trips then [0] else []) ++ (if start then [1] else []) ++ bitsAt 3 picks ++ bitsAt 8 lops ++
      (if anyOf load then [14] else [])
    vals := part9 ((zs.take 3).flatMap flat ++ [BitVec.ofNat 32 (maskOf 6 fun n => lops.getD n false), BitVec.ofNat 32 low]) ++
      (zs.drop 3).flatMap flat
    env := [some (fpMax (i.map Cx.mag)), none, some v1.mag, none] }

/-! ### Differential functions (R227 to R229) -/

/-- |Σ I| and ½ Σ |I| of some currents. -/
def diffBias (xs : List Cx) : Fp × Fp :=
  ((xs.foldl Cx.add { }).mag, Fp.mul (fpOf 1 2) ((xs.map Cx.mag).foldl Fp.add 0))

/-- The restraint characteristic (R227): IS1, K1 in %, IS2, K2 in %. -/
def restrained (is1 k1 is2 k2 d b : Fp) : Bool :=
  let pc (x : Fp) : Fp := Fp.div x (fpOf 100)
  Fp.lt is1 d && (if Fp.le b is2 then Fp.lt (Fp.mul (pc k1) b) d
    else Fp.lt (Fp.add (Fp.mul (pc k1) is2) (Fp.mul (pc k2) (Fp.sub b is2))) d)

/-- Conditions that must hold in 2 consecutive ticks, then a delay, under the timers from `key` and `key + 20`. -/
def twice (key : Nat) (delay : Nat) (cs : List Bool) (s : FState) : FState × List Bool × List Bool :=
  let (s, ops) := FState.timers key 1 cs s
  let (s, trips) := FState.timers (key + 20) delay ops s
  (s, ops, trips)

/-- LINE_DIFF (R227). The voltage of the charging term reaches no slot, so its part is open (log entry 19). -/
def libLineDiff (e : LibIn) : LibOut :=
  let ends := if e.on 6 then [0, 3, 6] else [0, 3]
  let i (en ph : Nat) : Cx := e.dft (en + ph)
  let term := if e.on 9 then Fp.mul (e.g 5) (e.open_ 30) else e.g 5
  let db := (List.range 3).map fun ph => diffBias (ends.map fun en => i en ph)
  let d := db.map fun x => Fp.max 0 (Fp.sub x.1 term)
  let b := db.map (·.2)
  let (st, ops, trips) := twice 1 (e.ticks (e.g 6))
    ((d.zip b).map fun x => restrained (e.g 1) (e.g 2) (e.g 3) (e.g 4) x.1 x.2) e.st
  { st, bits := (if anyOf trips then [0] else []) ++ (if anyOf ops then [1] else []) ++ bitsAt 3 ops, vals := d ++ b
    env := [some (fpMax ((List.range 3).map fun ph => (i 0 ph).mag)), none, none, none] }

/-- The saturation check of one phase (R228): ticks since the bias first exceeded IS1, ticks for which neither quantity has,
and whether the differential has been seen; answers whether both zones are to be blocked from now. An episode ends after P
quiet ticks (log entry 43). -/
def satCheck (key p ms2 : Nat) (bias diff : Bool) (s : FState) : FState × Bool :=
  let n := s.int key
  let seen := s.bit key
  let quiet := if bias || diff then 0 else s.int (key + 3) + 1
  let n' := if p ≤ quiet then 0 else if 0 < n then n + 1 else if bias then 1 else 0
  let fires := diff && !seen && ms2 < n'
  let seen' := if p ≤ quiet then false else seen || diff
  (((s.setInt key n').setInt (key + 3) quiet).setBit key seen', fires)

/-- BUS_DIFF (R228). A zone slot that is not connected reads false (R206). -/
def libBusDiff (e : LibIn) : LibOut :=
  let bays := baysOf e.body
  let i (b ph : Nat) : Cx := e.dft (3 * b + ph)
  let zone1 := bays.filter fun b => e.bit (192 + b)
  let zone2 := bays.filter fun b => !e.bit (192 + b)
  let meas (bs : List Nat) : List (Fp × Fp) := (List.range 3).map fun ph => diffBias (bs.map fun b => i b ph)
  let k := Fp.div (e.g 2) (fpOf 100)
  let cond (x : Fp × Fp) : Bool := Fp.lt (e.g 1) x.1 && Fp.lt (Fp.mul k x.2) x.1
  let m1 := meas zone1
  let m2 := meas zone2
  let raw := [m1, m2, meas bays].map fun m => m.any cond
  let (st, two) := FState.timers 1 1 raw e.st
  let check := two.getD 2 false
  -- samples of the tick, per phase
  let sample (b ph : Nat) : Fp := (e.wins.getD (3 * b + ph) []).headD 0
  let (st, block) := (List.range 3).foldl (fun (acc : FState × Bool) ph =>
    let xs := bays.map fun b => sample b ph
    let sd := Fp.abs (xs.foldl Fp.add 0)
    let sb := Fp.mul (fpOf 1 2) ((xs.map Fp.abs).foldl Fp.add 0)
    let (s, f) := satCheck (10 + ph) e.p (ceilDiv (2 * e.rate) 1000) (Fp.lt (e.g 1) sb) (Fp.lt (e.g 1) sd) acc.1
    (s, acc.2 || f)) (st, false)
  let left := if block && e.gi 4 = 1 then e.p else st.int 20 - 1
  let st := st.setInt 20 left
  let ok := left = 0 && (e.gi 3 = 0 || check)
  let ops := [two.getD 0 false && ok, two.getD 1 false && ok]
  let (st, trips) := FState.timers 30 (e.ticks (e.g 5)) ops st
  { st, bits := (if anyOf trips then [0] else []) ++ (if anyOf ops then [1] else []) ++ bitsAt 3 ops ++ (if check then [5] else []) ++
      (if 0 < left then [6] else [])
    vals := m1.map (·.1) ++ m2.map (·.1)
    env := [some (fpMax (bays.flatMap fun b => (List.range 3).map fun ph => (i b ph).mag)), none, none, none] }

/-- XFMR_DIFF (R229). Harmonics are those of the differential currents, formed as the fundamental is (log entry 44). -/
def libXfmrDiff (e : LibIn) : LibOut :=
  let wind := if e.on 6 then [0, 1, 2] else [0, 1]
  let comp (h w : Nat) : List Cx :=
    let x := e.dft3 (3 * w) 0 h
    let rot := Cx.polar (if w = 0 then Fp.one else e.g (w + 2)) (fpOf (-30 * (if w = 0 then 0 else e.gi w : Nat)))
    let z := if bitOf (e.gi 5) w then (seqs x).1 else { }
    x.map fun c => (c.sub z).mul rot
  let per (h ph : Nat) : List Cx := wind.map fun w => (comp h w).getD ph { }
  let db := (List.range 3).map fun ph => diffBias (per 1 ph)
  let harm (h : Nat) (pct : Fp) (off : Bool) : Bool := !off && (List.range 3).any fun ph =>
    Fp.lt (Fp.mul (Fp.div pct (fpOf 100)) (db.getD ph (0, 0)).1) (diffBias (per h ph)).1
  let h2 := harm 2 (e.g 10) false
  let h5 := harm 5 (e.g 11) (Fp.isZero (e.g 11))
  let (st, two) := FState.timers 1 1 (db.map fun x => restrained (e.g 6) (e.g 7) (e.g 8) (e.g 9) x.1 x.2) e.st
  let ops := two.map fun b => b && !h2 && !h5
  let high := db.any fun x => Fp.lt (e.g 12) x.1
  { st, bits := (if anyOf ops || high then [0] else []) ++ (if anyOf ops || high then [1] else []) ++ bitsAt 3 ops ++
      (if high then [6] else []) ++ (if h2 then [7] else []) ++ (if h5 then [8] else [])
    vals := db.map (·.1) ++ db.map (·.2)
    env := [some (fpMax ((e.dft3 0).map Cx.mag)), none, none, none] }

/-! ### Breaker functions (R232 to R235) -/

/-- BRK_FAIL (R232). The timers run while the initiate and the breaker hold (R212); START shows them (log entry 45). -/
def libBrkFail (e : LibIn) : LibOut :=
  let chk := e.g 1
  let half := e.p / 2
  let cur := (List.range 3).map fun i => (halfDft e.p (e.wins.getD i [])).mag
  let current := cur.any (fun m => Fp.lt chk m) &&
    (List.range 3).any fun i => ((e.wins.getD i []).take half).any fun x => Fp.lt (Fp.mul chk root2) (Fp.abs x)
  let closed := match e.gi 4 with
    | 0 => current
    | 1 => current || e.bit 4
    | _ => e.bit 4
  let init := e.bit 3
  let run := init && closed && (e.st.bit 2 || !e.st.bit 1)
  let (st, retrip) := e.st.timer 1 run (e.ticks (e.g 2))
  let (st, backup) := st.timer 2 run (e.ticks (e.g 3))
  let latch := (e.st.bit 100 || backup) && (init || closed)
  { st := ((st.setBit 1 init).setBit 2 run).setBit 100 latch
    bits := (if latch then [0] else []) ++ (if run then [1] else []) ++ (if retrip then [3] else [])
    vals := [fpMax cur], env := [some (fpMax cur), none, none, none] }

/-- RECLOSE (R233, R234). A restart puts it in LOCKOUT, which is therefore its initial state. -/
def libReclose (e : LibIn) : LibOut :=
  let init := e.bit 0
  let closed := e.bit 1
  let blocked := e.bit 3
  let state := if e.st.bit 100 then e.st.int 100 else 5
  let n := if e.st.int 101 = 0 then 1 else e.st.int 101
  -- ticks for which the breaker has been open, and for which the way out of LOCKOUT has been clear
  let st := e.st.setInt 102 (if closed then 0 else e.st.int 102 + 1)
  let st := st.setInt 103 (if state = 5 && !blocked && closed && !init then e.st.int 103 + 1 else 0)
  let st := (st.setInt 104 (e.st.int 104 + 1)).setBit 101 init
  let rise := init && !e.st.bit 101
  let spent (no : Nat) : Bool := e.ticks (e.g no) ≤ e.st.int 104
  let openFor (no : Nat) : Bool := e.ticks (e.g no) < st.int 102
  let (s', n') : Nat × Nat :=
    if state != 5 && blocked then (5, n)
    else match state with
      | 0 => if rise && closed then (1, 1) else (0, n)
      | 1 => if openFor (n + 1) then (2, n) else (1, n)
      | 2 => if e.bit 2 || !e.on 2 then (3, n) else if spent 8 then (5, n) else (2, n)
      | 3 => if closed then (4, n) else if spent 7 then (5, n) else (3, n)
      | 4 =>
        if init then (if n < e.gi 1 then (1, n + 1) else (5, n))
        else if spent 6 then (0, n) else (4, n)
      | _ => if e.ticks (e.g 6) < st.int 103 then (0, n) else (5, n)
  let st := if s' = state then st else st.setInt 104 1
  { st := ((st.setBit 100 true).setInt 100 s').setInt 101 n'
    bits := (if s' = 3 then [3] else []) ++ (if s' = 5 then [4] else []) ++ (if within 1 3 s' then [5] else [])
    vals := [BitVec.ofNat 32 s', BitVec.ofNat 32 n'] }

/-- SYNC_CHECK (R235). The frequencies are not stated before one cycle of angles is held (log entry 19). -/
def libSyncCheck (e : LibIn) : LibOut :=
  let l := e.dft 0
  let b := e.dft 1
  let p := e.p
  let pos := e.st.int 501
  let full := p ≤ e.st.int 500
  let old (base : Nat) : Fp := e.st.word (base + pos)
  let df := if !full then e.open_ 40 else
    Fp.mul (Fp.div (Fp.sub (wrapDeg (Fp.sub l.deg (old 1000))) (wrapDeg (Fp.sub b.deg (old 2000)))) (fpOf 360)) (Fp.ofInt (e.body.u8 3))
  let st := (((e.st.setWord (1000 + pos) l.deg).setWord (2000 + pos) b.deg).setInt 501 ((pos + 1) % p)).setInt 500
    (min p (e.st.int 500 + 1))
  let da := wrapDeg (Fp.add (Fp.sub l.deg b.deg) (Fp.mul (Fp.mul (fpOf 360) df) (Fp.div (e.g 8) (fpOf 1000))))
  let dv := Fp.sub l.mag b.mag
  let live (x : Cx) : Bool := Fp.lt (e.g 5) x.mag
  let dead (x : Cx) : Bool := Fp.lt x.mag (e.g 6)
  let inside := Fp.le (Fp.abs dv) (e.g 1) && Fp.le (Fp.abs df) (e.g 2) && Fp.le (Fp.abs da) (e.g 3)
  let modes := [live l && live b && inside, dead l && live b, live l && dead b, dead l && dead b]
  let (st, oks) := FState.timers 1 (e.ticks (e.g 7)) (modes.zipIdx.map fun m => m.1 && bitOf (e.gi 4) m.2) st
  { st, bits := if anyOf oks then [3] else [], vals := [dv, df, da], env := [none, none, none, none] }

/-! ### DC_LINE (R243, R244) -/

/-- The mean of numbers. -/
def meanOf (xs : List Fp) : Fp := Fp.div (Config.treeSum xs) (Fp.ofInt xs.length)

/-- What the wave element computes at one output: du/dt in kV/ms, b and u_pre in V, and whether its condition holds. -/
def LibIn.wave (e : LibIn) (us is : List Fp) (j span pre : Nat) : Fp × Fp × Fp × Bool :=
  let u := us.getD j 0
  let i := is.getD j 0
  let cut (xs : List Fp) : List Fp := (xs.drop (j - span + 1 - pre)).take (min pre (j - span + 1))
  let uPre := meanOf (cut us)
  let iPre := meanOf (cut is)
  let dudt := Fp.div (Fp.sub u (us.getD (j - span) 0)) (Fp.ofRat (span * e.tOut * 1 : Nat) (65536 * 1000000000))
  let dkv := Fp.div dudt (fpOf 1000000)
  let b := Fp.mul (fpOf 1 2) (Fp.sub (Fp.sub u uPre) (Fp.mul (e.g 4) (Fp.sub i iPre)))
  let sg (x : Fp) : Fp := if Fp.sign uPre then Fp.neg x else x
  let kv (n : Nat) : Fp := Fp.mul (e.g n) (fpOf 1000)
  (dkv, b, uPre, Fp.le (sg dkv) (Fp.neg (e.g 1)) && Fp.le (kv 3) (sg (Fp.sub uPre u)) && Fp.le (sg b) (Fp.neg (kv 5)))

/-- DC_LINE (R244). The pole is negative where u_pre is (log entry 46). -/
def libDcLine (e : LibIn) : LibOut :=
  let us := e.outs.map (·.2.1)
  let is := e.outs.map (·.2.2)
  let span := e.gi 2
  let pre := max 1 ((Fp.roundInt (Fp.mul (e.g 7) (fpOf 1000))).toNat * 65536000 / max 1 e.tOut)
  let own := (List.range us.length).drop e.outFirst
  let (count, hit) := own.foldl (fun (acc : Nat × Option Nat) j =>
    let n := if (e.wave us is j span pre).2.2.2 then acc.1 + 1 else 0
    (n, if acc.2.isNone && e.gi 6 ≤ n then some j else acc.2)) (e.st.int 1, none)
  let last := us.length - 1
  let j := hit.getD last
  let (dkv, b, uPre, _) := e.wave us is j span pre
  let uv := !Fp.isZero (e.g 8) && !own.isEmpty && own.all fun n => Fp.lt (Fp.abs (us.getD n 0)) (Fp.mul (e.g 8) (fpOf 1000))
  let (st, uvOp) := (e.st.setInt 1 count).timer 2 uv (e.ticks (e.g 9))
  let block := e.bit 2
  let trip := (hit.isSome || uvOp) && !block
  let kv (x : Fp) : Fp := Fp.div x (fpOf 1000)
  { st, bits := (if trip then [0] else []) ++ (if 0 < count || uv then [1] else []) ++ (if trip && e.gi 10 = 1 then [2] else []) ++
      (if hit.isSome then [3] else []) ++ (if uvOp then [4] else [])
    vals := [dkv, kv b, kv (us.getD j 0), is.getD j 0, kv uPre]
    decide := (e.outs[j]?).map (·.1)
    env := [none, none, none, some (Fp.abs (is.getD j 0))] }

end Sys2Proof.Machine
end

