-- ==== Sys2Proof/Machine/LibLocate.lean ====
section
/-!
DEFINITION. Fault location (R236 to R242), the table of all types, and what is common to them: held elements, envelopes,
quality (R188, R213, R214).
-/
namespace Sys2Proof.Machine

/-! ### FLOC_IMP (R236 to R238) -/

/-- The impedances per km and the earth factor of the line. -/
def LibIn.lineZ (e : LibIn) : Cx × Cx :=
  let z1 : Cx := { re := e.g 2, im := e.g 3 }
  let z0 : Cx := { re := e.g 4, im := e.g 5 }
  (z1, (z0.sub z1).div (Cx.scale (fpOf 3) z1))

/-- The single-ended location (R237) for a fault window `df` ticks back and a pre-fault window `dp` ticks back: distance,
resistance and loop, if a loop qualifies. -/
def LibIn.single (e : LibIn) (df dp : Nat) : Option (Fp × Fp × Nat) :=
  let (z1, k0) := e.lineZ
  let now := loopsOf k0 (e.dft3 0 df) (e.dft3 3 df)
  let before := loopsOf k0 (e.dft3 0 dp) (e.dft3 3 dp)
  let cands := (List.range 6).filter fun n =>
    Fp.lt (Fp.mul (fpOf 2) (before.getD n ({ }, { })).2.mag) (now.getD n ({ }, { })).2.mag
  let zmag (n : Nat) : Fp := let l := now.getD n ({ }, { }); (l.1.div l.2).mag
  let best := cands.foldl (fun (m : Option Nat) n => match m with
    | none => some n
    | some k => if Fp.lt (zmag n) (zmag k) then some n else m) none
  best.map fun n =>
    let (v, i) := now.getD n ({ }, { })
    let di := i.sub (before.getD n ({ }, { })).2
    let d := Fp.div (v.mul di.conj).im ((z1.mul i).mul di.conj).im
    let rf := ((v.sub (Cx.scale d (z1.mul i))).div di).re
    (d, rf, n + 1)

/-- The exchange set (R238): V2, I2, V1 and I1 of the window `back` ticks before the newest sample. -/
def LibIn.exchange (e : LibIn) (back : Nat) : List Cx :=
  let (_, v1, v2) := seqs (e.dft3 0 back)
  let (_, i1, i2) := seqs (e.dft3 3 back)
  [v2, i2, v1, i1]

/-- How many ticks before tick k the remote T_DECIDE in slot 15 lies: ns of the second that places it within ±500 ms of the
start of tick k (R362). -/
def LibIn.remoteTick (e : LibIn) : Option Nat :=
  let t0 : Int := tickStart e.rate e.k / nsF
  let ns : Int := (e.num 15).toNat
  let d := (ns - t0 % 1000000000 + 1500000000) % 1000000000 - 500000000
  let w := t0 + d
  if w < 0 then none
  else
    let n := tickDiff e.rate (tickOf e.rate (w.toNat * nsF)) e.k
    if n < 0 then none else some n.toNat

/-- The remote Quality in a slot, and the members from `first` on, are usable. -/
def LibIn.remoteGood (e : LibIn) (qSlot first n : Nat) : Bool :=
  e.on qSlot && !qHas (qInvalid ||| qSyncLost) ((e.num qSlot).setWidth 16) &&
  !qHas (qInvalid ||| qSyncLost) (qOr ((List.range n).map fun i => e.numQ.getD (first + i) 0))

/-- The double-ended distance (R238) from the window `back` ticks before the newest sample. -/
def LibIn.doubleEnd (e : LibIn) (back : Nat) : Fp :=
  let own := e.exchange back
  let o (n : Nat) : Cx := own.getD n { }
  let r (n : Nat) : Cx := { re := e.num (7 + 2 * n), im := e.num (8 + 2 * n) }
  let useNeg := !Fp.lt (o 1).mag (Fp.mul (fpOf 1 10) (o 3).mag)
  let n := if useNeg then 0 else 2
  let zl := Cx.scale (e.g 1) e.lineZ.1
  let m := (((o n).sub (r n)).add (zl.mul (r (n + 1)))).div (zl.mul ((o (n + 1)).add (r (n + 1))))
  Fp.mul (e.g 1) m.re

/-- FLOC_IMP (R237, R238). The double-ended distance of a location replaces its single-ended one under the same SEQ (log
entry 47). Words from 100: distance, resistance, loop, method, SEQ, remote SEQ last seen and the exchange set. -/
def libFlocImp (e : LibIn) : LibOut :=
  let start := e.bit 6
  let rise := start && !e.st.bit 500
  let ofs := (Fp.floorInt (Fp.mul (e.g 8) (Fp.ofInt e.p))).toNat
  let n := if rise then 1 else if 0 < e.st.int 500 then e.st.int 500 + 1 else 0
  let due := n = ofs + 1
  let st := (e.st.setBit 500 start).setInt 500 (if due then 0 else n)
  let st := st.setInt 501 (if due then 1 else if 0 < st.int 501 then st.int 501 + 1 else 0)
  -- the location at tick k_f
  let st := if !due then st else
    match e.single 0 (ofs + 2 * e.p) with
    | none => st
    | some (d, rf, loop) =>
      let st := ((((st.setWord 100 d).setWord 101 rf).setWord 102 (BitVec.ofNat 32 loop)).setWord 103 1).setWord 104 (st.word 104 + 1)
      ((e.exchange 0).flatMap fun x => [x.re, x.im]).zipIdx.foldl (fun s w => s.setWord (110 + w.2) w.1) st
  -- a remote SEQ that has changed
  let wait := e.ticks (e.g 7)
  let seq := e.num 17
  let fresh := e.gi 6 = 1 && e.on 17 && seq != st.word 105 && within 1 (wait + 1) (st.int 501) && st.word 104 != 0
  let usable := e.remoteTick.any fun r => r + e.p ≤ 6 * e.p
  let both := fresh && usable && e.remoteGood 16 7 11 && !qHas (qInvalid ||| qSyncLost) e.q
  let st := if both then
      ((st.setWord 100 (e.doubleEnd (e.remoteTick.getD 0))).setWord 103 2).setInt 501 0 else st
  let st := if fresh then st.setWord 105 seq else st
  let d : Fp := st.word 100
  let out := st.word 104 != 0 && (Fp.lt d 0 || Fp.lt (e.g 1) d)
  { st, bits := if out then [3] else []
    vals := part9 [d, Fp.mul (Fp.div d (e.g 1)) (fpOf 100), st.word 101, st.word 102, st.word 103, st.word 104] ++
      ((List.range 8).map fun i => st.word (110 + i)) ++ [st.word 104]
    env := [some (fpMax ((e.dft3 3).map Cx.mag)), none, some (seqs (e.dft3 0)).2.1.mag, none] }

/-! ### FLOC_TW (R239 to R242) -/

/-- The velocity in km per unit of 2^-16 ns times a count of such units: km for a time. -/
def LibIn.kmOf (e : LibIn) (t : Int) : Fp := Fp.mul (e.g 2) (Fp.ofRat t (1000000000 * 65536))

/-- A distance in km as a time in 2^-16 ns. -/
def LibIn.timeOf (e : LibIn) (km : Fp) : Int := (Fp.roundInt (Fp.mul (Fp.div km (e.g 2)) (fpOf 1000000000))) * 65536

/-- The local arrival (R240): the earliest among the channels that may be used, with the number of its channel's place. -/
def SegIn.arrival (x : SegIn) : Option (Fine × Nat) :=
  (x.seg.chans.zipIdx.filterMap fun c =>
    let m := x.seg.meas.get { } c.1
    if qHas (qInvalid ||| qSettle) m.mqual then none else m.arrival.map fun t => (t, c.2)).foldl
    (fun (b : Option (Fine × Nat)) a => match b with
      | none => some a
      | some y => if a.1 < y.1 then some a else b) none

/-- The aerial mode of a segment (R241). -/
def SegIn.aerial (x : SegIn) : List Fp :=
  let ch (n : Nat) : List Fp := x.data.getD n []
  ((ch 0).zip ((ch 1).zip (ch 2))).map fun s =>
    Fp.div (Fp.sub (Fp.sub (Fp.mul (fpOf 2) s.1) s.2.1) s.2.2) (fpOf 3)

/-- The change of the aerial mode between neighbouring outputs, with the instant of the later one. -/
def SegIn.steps (x : SegIn) : List (Fine × Fp) :=
  ((x.aerial.zip (x.aerial.drop 1)).zipIdx).map fun s => (x.seg.tFirst + (s.2 + 1) * x.seg.tOut, Fp.sub s.1.2 s.1.1)

/-- The later arrivals that the single-ended method accepts (R241): steps of the aerial mode within the blind and line times
that have the polarity of the first and at least REFL_THR of it; and the first step. -/
def LibIn.reflections (e : LibIn) (x : SegIn) (tA : Fine) : List (Fine × Fp) × Fp :=
  let st := x.steps
  let first := ((st.filter fun s => s.1 ≤ tA + x.seg.tOut).getLast?).elim 0 (·.2)
  let lo : Int := (tA : Int) + 2 * e.timeOf (e.g 7)
  let hi : Int := (tA : Int) + 2 * e.timeOf (e.g 1)
  (st.filter fun s => decide (lo ≤ s.1) && decide ((s.1 : Int) ≤ hi) && Fp.sign s.2 == Fp.sign first && tA + x.seg.tOut < s.1 &&
    Fp.le (Fp.mul (Fp.div (e.g 5) (fpOf 100)) (Fp.abs first)) (Fp.abs s.2), first)

/-- Words of FLOC_TW's state: 100 distance, 101 method, 102 ARR_HI, 103 ARR_LO, 104 ARR_FRAC, 105 SEQ, 106 polarity, 107 first
step, 108 single-ended distance, 109 remote SEQ last seen. Bits: 100 AMBIGUOUS, 101 NO_LOCATION, 102 single-ended distance
found, 103 its AMBIGUOUS. Integer 501 counts the ticks in which the remote arrival is awaited, 503 is the sequence number of
the segment last dealt with. -/
def libFlocTwSegment (e : LibIn) (x : SegIn) (st : FState) : FState :=
  match x.arrival with
  | none => st.setBit 101 true
  | some (tA, ch) =>
    let (refl, first) := e.reflections x tA
    let found := refl.head?
    let d := found.elim 0 fun r => Fp.mul (fpOf 1 2) (e.kmOf ((r.1 : Int) - tA))
    let amb := found.any fun r => (refl.drop 1).any fun o =>
      Fp.le (Fp.abs (Fp.sub (Fp.abs o.2) (Fp.abs r.2))) (Fp.mul (fpOf 5 100) (Fp.abs r.2))
    let m := x.seg.meas.get { } (x.seg.chans.getD ch 0)
    let at_ := (x.seg.data.get [] (x.seg.chans.getD ch 0)).getD ((tA - x.seg.tFirst) / max 1 x.seg.tOut) m.base
    let pol : U32 := if at_ < m.base then 0xFFFFFFFF else 1
    let st := (((st.setWord 102 (BitVec.ofNat 32 (tA / nsF / 2 ^ 32))).setWord 103 (BitVec.ofNat 32 (tA / nsF))).setWord 104
      (BitVec.ofNat 32 (tA % nsF))).setWord 105 (st.word 105 + 1)
    let st := ((st.setWord 106 pol).setWord 107 first).setWord 108 d
    let st := (st.setBit 102 found.isSome).setBit 103 amb
    if e.gi 3 = 0 then
      if found.isSome then (((st.setWord 100 d).setWord 101 1).setBit 100 amb).setBit 101 false else (st.setBit 101 true).setBit 100 false
    else st.setInt 501 1

/-- FLOC_TW (R240 to R242). -/
def libFlocTw (e : LibIn) : LibOut :=
  let sup := e.bit 1
  let st := (e.st.setInt 502 (if sup && !e.st.bit 500 then tickNum e.rate e.k + 1 else e.st.int 502)).setBit 500 sup
  let wait := e.ticks (e.g 4)
  -- what is to be done with the segment of this tick
  let runs := e.seg.any fun x => !e.on 1 || (0 < st.int 502 &&
    let rise := tickStart e.rate ((st.int 502 - 1) / e.rate, (st.int 502 - 1) % e.rate)
    decide (((rise : Int) - x.seg.tTrig).natAbs ≤ 100000000 * 65536))
  let late := e.seg.any fun x => x.seg.tTrig + 100000000 * 65536 < tickStart e.rate e.k
  let st := match e.seg with
    | some x => if runs then libFlocTwSegment e x st else st
    | none => st
  -- pairing with the remote arrival
  let tA : Int := (((st.word 102).toNat * 2 ^ 32 + (st.word 103).toNat) * 65536 + (st.word 104).toNat : Nat)
  let tB : Int := (((e.num 2).toNat * 2 ^ 32 + (e.num 3).toNat) * 65536 + (e.num 4).toNat : Nat)
  let waiting := 0 < st.int 501
  let fresh := e.on 5 && e.num 5 != st.word 109
  let near := decide ((tA - tB).natAbs ≤ (e.timeOf (e.g 1) + Fp.roundInt (Fp.mul (e.g 6) (fpOf 1000)) * 65536).toNat)
  let remoteBad := !e.remoteGood 6 2 5
  let ownBad := qHas (qInvalid ||| qSyncLost) e.q
  let pair := waiting && fresh && near && !remoteBad && !ownBad
  let fall := waiting && !pair && (wait < st.int 501 || ownBad || (fresh && near && remoteBad))
  let seen (s : FState) : FState := if fresh && waiting then s.setWord 109 (e.num 5) else s
  let st :=
    if pair then
      ((((seen st).setWord 100 (Fp.mul (fpOf 1 2) (Fp.add (e.g 1) (e.kmOf (tA - tB))))).setWord 101 2).setBit 100 false).setBit 101 false
        |>.setInt 501 0
    else if fall then
      let s := (seen st).setInt 501 0
      if e.gi 3 = 2 && s.bit 102 then
        (((s.setWord 100 (s.word 108)).setWord 101 1).setBit 100 (s.bit 103)).setBit 101 false
      else (s.setBit 101 true).setBit 100 false
    else if waiting then st.setInt 501 (st.int 501 + 1) else st
  let fin := e.seg.bind fun x => if runs || late then some x.seg.seq else none
  let st := match fin with
    | some n => st.setInt 503 n
    | none => st
  let d : Fp := st.word 100
  let out := st.word 101 != 0 && (Fp.lt d 0 || Fp.lt (e.g 1) d)
  { st, bits := (if out then [3] else []) ++ (if st.bit 100 then [4] else []) ++ (if st.bit 101 then [5] else [])
    vals := [d, Fp.mul (Fp.div d (e.g 1)) (fpOf 100), st.word 101, st.word 102, st.word 103, st.word 104, st.word 105, st.word 106,
      st.word 107]
    decide := if st.word 105 = 0 then none else some tA.toNat
    segDone := fin }

/-! ### All types -/

/-- What a type computes. -/
def libRun (e : LibIn) : LibOut :=
  match e.ty with
  | 0x01 => libPhasor e
  | 0x02 => libOcInst e
  | 0x03 => libOcTime e
  | 0x04 => libDir e
  | 0x05 => libDist e
  | 0x06 => libLineDiff e
  | 0x07 => libBusDiff e
  | 0x08 => libXfmrDiff e
  | 0x09 => libVolt e
  | 0x0A => libFreq e
  | 0x0B => libBrkFail e
  | 0x0C => libReclose e
  | 0x0D => libSyncCheck e
  | 0x0E => libFlocImp e
  | 0x0F => libFlocTw e
  | 0x10 => libDcLine e
  | _ => { st := e.st }

/-- Bits of OUTBITS that show starts and not operations: START itself and the starts of phases and zones (R213). -/
def startBits : Nat → List Nat
  | 0x02 => [1, 3, 4, 5, 6]
  | 0x03 => [1, 3]
  | 0x05 => [1, 3, 4, 5, 6, 7]
  | _ => [1]

/-- The flags of the window that hold an element (R213): `test` says whether the device is in TEST, `multi` whether the inputs
come from more than one stream. -/
def heldFlags (ty : Nat) (test multi : Bool) : Quality :=
  qInvalid ||| qMissing ||| qIf (!test) qTest ||| qIf (ty == 0x06 || ((ty == 0x07 || ty == 0x08) && multi)) qSyncLost |||
  qIf (ty == 0x0F || ty == 0x10) qSettle

/-- The element is held in this tick (R213, R231). PHASOR takes no decision. -/
def LibIn.held (e : LibIn) (test multi : Bool) : Bool :=
  e.ty != 0x01 && (qHas (heldFlags e.ty test multi) e.q || (e.ty == 0x0A && e.freqHeld))

/-- State of a held element: timers and starts stand, and are reset after P held ticks; histories go on (R213). -/
def heldState (n p : Nat) (old new : FState) : FState :=
  let keep {α : Type} (a b : Table α) : Table α :=
    (a.filter fun (x : Nat × α) => decide (x.1 < 500 ∧ (n < p ∨ 100 ≤ x.1))) ++ b.filter fun (x : Nat × α) => decide (500 ≤ x.1)
  { ints := keep old.ints new.ints, bits := keep old.bits new.bits, words := keep old.words new.words }

/-- A quantity outside an entry of the ENVELOPE record (R214). A quantity that the instance's inputs do not give is not stated. -/
def envOut (e : LibIn) (env : List (Option Fp)) (b : Bytes) : Bool :=
  (List.range (b.u8 2)).any fun i =>
    let o := 4 + 12 * i
    let q := (env.getD (b.u8 o - 1) none).getD (e.open_ (50 + b.u8 o))
    Fp.lt q (b.fp (o + 4)) || Fp.lt (b.fp (o + 8)) q

/-- An execution (R213, R214): state, OUTBITS, VALUES, deciding instant, segment done with, and whether the envelope is left.
Integer 90 counts held ticks, word 90 holds the start bits last shown. -/
def libExec (e : LibIn) (test multi : Bool) (envRec : Option Bytes) : LibOut × U32 × Bool :=
  let r := libRun e
  let out := (typeHasC e.ty) && envRec.any (envOut e r.env)
  let mask (bs : List Nat) : Nat := bs.eraseDups.foldl (fun a b => a + 2 ^ b) 0
  let envBit := if out then 2 ^ 31 else 0
  if e.held test multi then
    let n := e.st.int 90 + 1
    let last := if n < e.p then (e.st.word 90).toNat else 0
    let st := ((heldState n e.p e.st r.st).setInt 90 n).setWord 90 (BitVec.ofNat 32 last)
    ({ r with st }, BitVec.ofNat 32 (last + envBit), out)
  else
    let st := (r.st.setInt 90 0).setWord 90 (BitVec.ofNat 32 (mask (r.bits.filter fun b => (startBits e.ty).contains b)))
    ({ r with st }, BitVec.ofNat 32 (mask r.bits + envBit), out)

end Sys2Proof.Machine
end

