-- ==== Sys2Proof/Machine/Sv.lean ====
section
/-!
DEFINITION. Sampled-value ingest: matching, stream states, quality, alignment, substitution, resampling, ageing (R119 to R137).
-/
namespace Sys2Proof.Machine

/-! ### Records (R122) -/

/-- The records of STREAM_SUBSCRIBE. -/
def svSpec (l : Bool) (rtype obj : Nat) (b : Bytes) : Option RecSpec :=
  match rtype with
  | 0x301 =>
    let n := b.u8 0x24
    some (fixedRec 0xB0
      [(6, within 0x4000 0x7FFF (b.u16 6)), (8, b.u16 8 ≤ 4094 || b.u16 8 == 0xFFFF),
       (0xA, b.u16 0xA == 4800 || b.u16 0xA == 14400), (0xC, within 1 8 (b.u8 0xC)), (0xD, within 1 24 (b.u8 0xD)),
       (0xE, onlyBits 0xF (b.u16 0xE)), (0x10, 1 ≤ b.u32 0x10), (0x14, within 100000 2000000 (b.u32 0x14)),
       (0x18, b.u32 0x18 == 0 || within 10000 (b.u32 0x14) (b.u32 0x18)),
       (0x1C, b.u16 0x1C != 0 && b.u16 0x1C < 2 ^ numPorts l), (0x1E, b.u8 0x1E ≤ 2), (0x1F, b.u8 0x1F ≤ 8),
       (0x20, within (b.u8 0x1F + 1) 14400 (b.u16 0x20)), (0x22, within 1 1000 (b.u16 0x22)), (0x24, within 1 128 n),
       (0x25, b.u8 0x25 == 50 || b.u8 0x25 == 60), (0x26, zeroAt b 0x26 2),
       (0x30 + n, (Bytes.slice b (0x30 + n) (128 - n)).all (· == 0))] (obj < numStreams l))
  | 0x302 => some (fixedRec 0xC
      [(0, b.u16 0 < numStreams l), (2, b.u8 2 ≤ 23), (3, b.u8 3 ≤ 2), (4, Fp.isFinite (b.fp 4)), (8, b.u8 8 ≤ 1),
       (9, zeroAt b 9 3)] (obj < numSvCh l))
  | _ => none

/-- A MAC address field: the first byte is the first on the wire (log entry 22). -/
def macAt (b : Bytes) (off : Nat) : BitVec 48 := BitVec.ofNat 48 ((Bytes.slice b off 6).foldl (fun a x => a * 256 + x.toNat) 0)

/-- The stream table entry of a number. -/
def State.stream (s : State) (n : Nat) : Stream := s.sv.streams.get { } n
/-- Changes a stream table entry. -/
def State.modStream (n : Nat) (f : Stream → Stream) (s : State) : State :=
  { s with sv := { s.sv with streams := s.sv.streams.put n (f (s.stream n)) } }

/-- CONFREV in use (R126, R127). -/
def Stream.conf (st : Stream) (b : Bytes) : Nat := if st.confRev = 0 then b.u32 0x10 else st.confRev

/-- The SV channels mapped to a stream: number, dataset index and whether inverted. -/
def State.svChans (s : State) (n : Nat) : List (Nat × Nat × Bool) :=
  ((s.recs 0x302).filter fun r => r.2.u16 0 == n).map fun r => (r.1, r.2.u8 2, r.2.u8 8 == 1)

/-- The entry of a channel's history ring for a tick (R124). -/
def State.svAt (s : State) (ch : Nat) (k : Nat × Nat) : Option Sample :=
  (s.sv.rings.get [] ch).find? fun e => e.tick == k

/-- The entry of a channel's history ring `n` ticks before a tick. -/
def State.svBack (s : State) (ch : Nat) (k : Nat × Nat) (n : Nat) : Option Sample :=
  if k.1 * s.rate + k.2 < n then none else s.svAt ch (subTicks s.rate k n)

/-- Depth of a history ring (R124). -/
def State.ringDepth (s : State) (ch : Nat) : Nat := max 256 (s.place.rings.get 256 ch)

/-- Puts an entry into a ring in the order of ticks, newest first, within its depth. -/
def ringPut (depth : Nat) (e : Sample) (ring : List Sample) : List Sample :=
  let later (a b : Nat × Nat) : Bool := b.1 < a.1 || (a.1 == b.1 && b.2 < a.2)
  let (new, old) := ring.span fun x => later x.tick e.tick
  (new ++ e :: old.filter fun x => x.tick != e.tick).take depth

/-! ### Events and states (R126, R127) -/

/-- EV_STREAM_LOST with its cause, the state as it now is and a confRev. -/
def State.streamLost (n cause conf : Nat) (s : State) : State :=
  s.post (mkEv 0x03 n s.now [(1, cause), (1, (s.stream n).state.code), (2, 0), (4, conf)])

/-- Puts an entry into ACQUIRING with no first frame yet. -/
def Stream.acquire (st : Stream) : Stream := { st with state := .acquiring, first := none, candidate := none }

/-- A commit that changed the stream's records puts the entry into ACQUIRING (R126, R137). -/
def State.streamChanged (n : Nat) (s : State) : State :=
  s.modStream n fun st => { st.acquire with confRev := 0, tell4 := true, rx := [], substTicks := 0, lostTicks := 0 }

/-- The state machine of R126 takes an accepted frame; `conf`, `c0` and `cN` are its confRev, first and last smpCnt. -/
def State.streamFrame (n : Nat) (b : Bytes) (conf c0 cN : Nat) (s : State) : State :=
  let follow := bitOf (b.u16 0xE) 0
  let st := s.stream n
  let odd := conf != st.conf b
  let s := if odd then s.modStream n fun st => { st with confRevErr := satAdd 32 st.confRevErr 1 } else s
  let first (st : Stream) : Stream :=
    { st with state := .acquiring, first := some (conf, cN), candidate := if odd && follow then some conf else st.candidate }
  match st.state with
  | .unseen => s.modStream n first
  | .lost => s.modStream n fun st => { first st with tell4 := true }
  | .confMismatch => s
  | .acquiring =>
    if odd && !follow then
      (s.modStream n fun st => { st with state := .confMismatch, first := none }).streamLost n 2 conf
    else if (st.first == some (conf, (c0 + b.u16 0xA - 1) % b.u16 0xA)) && (!odd || st.candidate == some conf) then
      let s := s.modStream n fun st =>
        { st with state := .valid, confRev := conf, candidate := none, first := none, tell4 := false, lostTicks := 0, substTicks := 0 }
      if st.tell4 then s.streamLost n 4 conf else s
    else s.modStream n first
  | .valid =>
    if !odd then s
    else if follow then s.modStream n first
    else (s.modStream n fun st => { st with state := .confMismatch }).streamLost n 2 conf

/-- VALID becomes LOST after LOSS_TICKS ticks frozen without a sample in time (R126). -/
def State.lossCheck (n : Nat) (s : State) : State :=
  match s.rec? 0x301 n with
  | none => s
  | some b =>
    let st := s.stream n
    if st.state == .valid && b.u16 0x20 ≤ st.lostTicks then
      (s.modStream n fun st => { st with state := .lost }).streamLost n 1 (st.conf b)
    else s

/-! ### Quality (R129) -/

/-- The flags that an IEC 61850 quality sets; validity is 0 good, 1 invalid, 2 reserved, 3 questionable. -/
def iecFlags (q : IecQual) : Quality :=
  qOr [qIf (q.validity == 1 || q.validity == 2 || q.failure || q.operatorBlocked) qInvalid,
       qIf (q.validity == 3 || q.badReference || q.oscillatory || q.inconsistent || q.inaccurate) qQuestionable,
       qIf (q.overflow || q.outOfRange) qOverrange, qIf q.oldData qHold, qIf q.substituted qSubst, qIf q.test qTest,
       qIf q.derived qDerived]

/-- SYNC_LOST from smpSynch and gmIdentity. -/
def synchFlag (b : Bytes) (synch : Nat) (gm : Option U64) : Quality :=
  let flags := b.u16 0xE
  match synch with
  | 0 => qSyncLost
  | 2 => qIf (bitOf flags 3 && gm.map (·.toNat) != some (b.u64 0x28)) qSyncLost
  | _ => qIf (!bitOf flags 1) qSyncLost

/-- The second to which smpCnt `c` at rate `f` belongs, for an arrival (R131). -/
def smpSecond (f c : Nat) (arrival : Fine) : Nat :=
  let ofs : Nat := c * 1000000000 / f * nsF
  ((arrival : Int) - ofs + (500000000 * nsF : Nat)).toNat / secF

/-- The nominal instant of a sample (R131). -/
def smpNominal (f sec c : Nat) : Fine := (sec * 1000000000 + c * 1000000000 / f) * nsF

/-! ### Freezing (R132 to R135) -/

/-- Numbers, at the stream's rate, of the samples that lattice tick number `a` needs (R134). -/
def inputsOf (f rate : Nat) (a : Int) : List Int :=
  if f = rate then [a]
  else if f = 14400 then [3 * a - 3, 3 * a - 1, 3 * a, 3 * a + 1, 3 * a + 3]
  else if a % 3 = 0 then [a / 3] else [a / 3 - 1, a / 3, a / 3 + 1, a / 3 + 2]

/-- The last lattice tick number that needs sample number `c` (R134). -/
def lastUser (f rate c : Nat) : Nat :=
  if f = rate then c else if f = 14400 then (if c % 3 = 1 then c / 3 else (c + 2) / 3 + b2n (c % 3 == 0)) else 3 * (c + 1) + 2

/-- Coefficients and divisor of R134 for a lattice tick number. -/
def inputWeights (f rate a : Nat) : List Int × Nat :=
  if f = rate then ([1], 1)
  else if f = 14400 then ([-1, 9, 16, 9, -1], 32)
  else match a % 3 with
    | 0 => ([1], 1)
    | 1 => ([-5, 60, 30, -4], 81)
    | _ => ([-4, 30, 60, -5], 81)

/-- The alignment deadline of a stream, in 2^-16 ns from the start of the tick (R132, R134). -/
def svDeadline (b : Bytes) (rate : Nat) : Nat :=
  let f := b.u16 0xA
  (b.u32 0x14 + (if f = rate then 0 else if f = 14400 then 208334 else 347223)) * nsF

/-- A value after POLARITY. The most negative count has no inverse; the spec states no value for it (log entry 19). -/
def inverted (free : Nat) (inv : Bool) (v : Int) : Int :=
  if !inv then v else if v = -(2 ^ 31) then (Config.unstated 1 free).toInt else -v

/-- One entry from the samples it needs, at dataset position `idx` (R134, R135). -/
def combine (f rate a free idx : Nat) (inv : Bool) (xs : List RxSample) : Int × Quality :=
  let vs := xs.map fun x => x.vals.getD idx (0, 0)
  if f = rate then
    let v := vs.headD (0, 0)
    (inverted free inv v.1, v.2)
  else
    let (ws, d) := inputWeights f rate a
    let sum : Int := (ws.zip vs).foldl (fun acc p => acc + p.1 * p.2.1) 0
    let y := roundDivAway (if inv then -sum else sum) d
    let z := clampInt (-(2 ^ 31)) (2 ^ 31 - 1) y
    (z, qOr (qInterp :: qIf (z != y) qOverrange :: vs.map (·.2)))

/-- The samples a tick needs, if all have arrived. -/
def Stream.inputs (st : Stream) (f rate a : Nat) : Option (List RxSample) :=
  (inputsOf f rate a).mapM fun c => st.rx.find? fun x => ((x.sec * f + x.cnt : Nat) : Int) == c

/-- Some sample of those a tick needs has arrived (R126). -/
def Stream.anyInput (st : Stream) (f rate a : Nat) : Bool :=
  (inputsOf f rate a).any fun c => st.rx.any fun x => ((x.sec * f + x.cnt : Nat) : Int) == c

/-- Writes one tick into the rings of the stream's channels. -/
def State.writeTick (n : Nat) (k : Nat × Nat) (val : Nat × Nat × Bool → Int × Quality) (s : State) : State :=
  (s.svChans n).foldl (fun s c =>
    let (v, q) := val c
    { s with sv := { s.sv with
        rings := s.sv.rings.put c.1 (ringPut (s.ringDepth c.1) { tick := k, value := v, q } (s.sv.rings.get [] c.1)) } }) s

/-- The frozen entry of an absent sample (R132). A source tick without an entry reads 0, INVALID and MISSING. -/
def State.substitute (b : Bytes) (st : Stream) (k : Nat × Nat) (s : State) (c : Nat × Nat × Bool) : Int × Quality :=
  let gone := (0, qInvalid ||| qMissing)
  let mode := b.u8 0x1E
  if st.state != .valid || mode == 0 || b.u8 0x1F ≤ st.substTicks then gone
  else match s.svBack c.1 k (if mode = 1 then 1 else s.rate / b.u8 0x25) with
    | none => (0, gone.2 ||| qHold)
    | some e => (e.value, qOr [e.q, qHold, qMissing])

/-- The next tick after `k`, passing over those frozen already. -/
def Stream.passAhead (rate : Nat) : Nat → Stream → Stream
  | 0, st => st
  | n + 1, st =>
    match st.frozen with
    | none => st
    | some k =>
      let k' := nextTick rate k
      if st.ahead.contains k' then
        ({ st with frozen := some k', ahead := st.ahead.filter (· != k'), lostTicks := 0, substTicks := 0 } : Stream).passAhead rate n
      else st

/-- Notes a tick frozen with its samples, in order or ahead of it. -/
def Stream.noteWhole (rate : Nat) (k : Nat × Nat) (st : Stream) : Stream :=
  match st.frozen with
  | none => { st with ahead := k :: st.ahead }
  | some j => if nextTick rate j == k then
      ({ st with frozen := some k, lostTicks := 0, substTicks := 0 } : Stream).passAhead rate st.ahead.length
    else { st with ahead := k :: st.ahead }

/-- A tick is frozen already. -/
def Stream.isFrozen (rate : Nat) (k : Nat × Nat) (st : Stream) : Bool :=
  st.ahead.contains k || st.frozen.any fun j => tickNum rate k ≤ tickNum rate j

/-- Drops received samples that no tick needs any more. -/
def Stream.prune (f rate : Nat) (st : Stream) : Stream :=
  match st.frozen with
  | none => st
  | some k => { st with rx := st.rx.filter fun x => tickNum rate k < lastUser f rate (x.sec * f + x.cnt) }

/-- Freezes a tick whose samples have all arrived (R132). -/
def State.freezeWhole (n : Nat) (b : Bytes) (k : Nat × Nat) (s : State) : State :=
  let f := b.u16 0xA
  let a := tickNum s.rate k
  let st := s.stream n
  if st.isFrozen s.rate k then s
  else match st.inputs f s.rate a with
    | none => s
    | some xs =>
      let s := s.writeTick n k fun c => combine f s.rate a s.free c.2.1 c.2.2 xs
      { s.modStream n fun st => (st.noteWhole s.rate k).prune f s.rate with free := s.free + 1 }

/-- Freezes the next tick at its deadline: with its samples if they are there, else as R132 fills it. -/
def State.freezeDue (n : Nat) (b : Bytes) (k : Nat × Nat) (s : State) : State :=
  let f := b.u16 0xA
  let st := s.stream n
  if (st.inputs f s.rate (tickNum s.rate k)).isSome then s.freezeWhole n b k
  else
    let s := s.writeTick n k (State.substitute b st k s)
    let s := s.modStream n fun st =>
      (({ st with frozen := some k, lostTicks := if st.anyInput f s.rate (tickNum s.rate k) then 0 else st.lostTicks + 1
                  substTicks := st.substTicks + 1
                  missing := if st.state == .valid then satAdd 32 st.missing 1 else st.missing } : Stream).passAhead
        s.rate st.ahead.length).prune f s.rate
    s.lossCheck n

/-- Passes over a tick that was frozen with its samples before any deadline had passed. -/
def Stream.passTo (rate : Nat) (k : Nat × Nat) (st : Stream) : Stream :=
  ({ st with frozen := some k, ahead := st.ahead.filter (· != k), lostTicks := 0, substTicks := 0 } : Stream).passAhead rate st.ahead.length

/-- Freezes every tick whose deadline has passed, oldest first; the fuel counts them. -/
def State.freezeUpTo (n : Nat) (b : Bytes) (last : Nat × Nat) : Nat → State → State
  | 0, s => s
  | fuel + 1, s =>
    let k := match (s.stream n).frozen with
      | none => last
      | some j => nextTick s.rate j
    if tickNum s.rate last < tickNum s.rate k then s
    else if (s.stream n).ahead.contains k then (s.modStream n (Stream.passTo s.rate k)).freezeUpTo n b last fuel
    else (s.freezeDue n b k).freezeUpTo n b last fuel

/-- The alignment deadline of a tick expires (R132). -/
def State.svFreeze (n : Nat) (s : State) : State :=
  match s.rec? 0x301 n with
  | none => s
  | some b =>
    let d := svDeadline b s.rate
    if s.now < d then s
    else
      let last := tickOf s.rate (s.now - d)
      let fuel := match (s.stream n).frozen with
        | none => 1
        | some j => tickNum s.rate last - tickNum s.rate j
      s.freezeUpTo n b last fuel

/-! ### Reception (R125, R130, R133) -/

/-- A frame's VLAN identifier satisfies VLAN_ID (R125). -/
def vlanOk (want : Nat) (vid : Option (BitVec 12)) : Bool :=
  want == 0xFFFF || (match vid with
    | none => want == 0
    | some v => v.toNat == want)

/-- The stream that a frame matches (R125). -/
def State.svMatch (f : SvFrame) (s : State) : Option (Nat × Bytes) :=
  (s.recs 0x301).find? fun r =>
    let b := r.2
    macAt b 0 == f.dst && b.u16 6 == f.appid.toNat && Bytes.slice b 0x30 (b.u8 0x24) == f.svid && vlanOk (b.u16 8) f.vid

/-- Takes one ASDU: late, duplicate, or kept for its tick (R129, R133). -/
def State.svAsdu (n : Nat) (b : Bytes) (f : SvFrame) (bad : Bool) (s : State) (a : SvAsdu) : State :=
  let rate := b.u16 0xA
  let sec := smpSecond rate a.smpCnt s.now
  let nominal := smpNominal rate sec a.smpCnt
  let st := s.stream n
  let c := sec * rate + a.smpCnt
  let user := lastUser rate s.rate c
  if st.isFrozen s.rate (user / s.rate, user % s.rate) then
    s.modStream n fun st => { st with tooLate := satAdd 32 st.tooLate 1 }
  else if st.rx.any fun x => x.sec == sec && x.cnt == a.smpCnt then
    s.modStream n fun st => { st with duplicate := satAdd 32 st.duplicate 1 }
  else
    let warn := b.u32 0x18 * nsF
    let late := warn != 0 && nominal + warn < s.now
    let q := qOr [synchFlag b f.smpSynch.toNat f.gmId, s.qSync, qIf (s.now + 100000 * nsF < nominal) qSyncLost, qIf late qLate,
                  qIf bad qInvalid, qIf f.sim qTest]
    let vals := (a.vals.zip a.quals).map fun p => (p.1.toInt, qOr [q, iecFlags p.2])
    s.modStream n fun st => { st with rx := { sec, cnt := a.smpCnt, vals } :: st.rx
                                      late := if late then satAdd 32 st.late 1 else st.late }

/-- Freezes every tick that the frame completed, in ascending order (R132). -/
def State.freezeReady (n : Nat) (b : Bytes) (s : State) : State :=
  let f := b.u16 0xA
  let ticks := ((s.stream n).rx.flatMap fun x =>
    let c := x.sec * f + x.cnt
    let hi := lastUser f s.rate c
    (List.range 12).map fun i => hi - i).dedup
  (ticks.mergeSort (· ≤ ·)).foldl (fun s a => s.freezeWhole n b (a / s.rate, a % s.rate)) s

/-- A frame that matched a stream and came on a permitted port in good form from its source. -/
def State.svAccept (n : Nat) (b : Bytes) (f : SvFrame) (s : State) : State :=
  let c0 := (f.asdus.headD { smpCnt := 0, vals := [], quals := [] }).smpCnt
  let cN := (f.asdus.getLastD { smpCnt := 0, vals := [], quals := [] }).smpCnt
  let s := s.modStream n fun st => if st.sim != f.sim then { st.acquire with sim := f.sim } else st
  let s := s.streamFrame n b f.confRev.toNat c0 cN
  let s := s.modStream n fun st =>
    { st with src := some f.src, port := f.port.val, lastArrival := s.now, lastCnt := cN, frames := satAdd 32 st.frames 1 }
  let bad := (s.stream n).state != .valid
  (f.asdus.foldl (State.svAsdu n b f bad) s).freezeReady n b

/-- An SV frame at SV ingest (R125, R130). -/
def State.svFrame (f : SvFrame) (s : State) : State :=
  match s.svMatch f with
  | none => { s with net := { s.net with svNomatch := satAdd 32 s.net.svNomatch 1 } }
  | some (n, b) =>
    let st := s.stream n
    if !bitOf (b.u16 0x1C) f.port.val then s.modStream n fun st => { st with portErr := satAdd 32 st.portErr 1 }
    else if f.dataLen != 8 * b.u8 0xD || f.noAsdu != b.u8 0xC || f.asdus.any (fun a => b.u16 0xA ≤ a.smpCnt) then
      s.modStream n fun st => { st with formatErr := satAdd 32 st.formatErr 1 }
    else if st.src.any (· != f.src) then s.modStream n fun st => { st with srcConflict := satAdd 32 st.srcConflict 1 }
    else
      let simOk := s.inTest && bitOf (b.u16 0xE) 2
      if f.sim && !simOk then s.modStream n fun st => { st with simDiscard := satAdd 32 st.simDiscard 1 }
      else if !f.sim && st.sim && simOk then s
      else s.svAccept n b f

/-- The ageing sweep (R128). -/
def State.svAge (s : State) : State :=
  (s.recs 0x301).foldl (fun s r =>
    let st := s.stream r.1
    if st.state != .unseen && decide (st.lastArrival + r.2.u16 0x22 * secF < s.now) then
      let s := s.modStream r.1 fun st => { st with state := .unseen, src := none, first := none, candidate := none, tell4 := false }
      if st.state == .valid || st.state == .lost then s.streamLost r.1 3 (st.conf r.2) else s
    else s) s

/-- The status block of a stream (R136). -/
def State.svStatus (n : Nat) (s : State) : Bytes :=
  let st := s.stream n
  packLe [(2, n), (1, st.state.code), (1, st.port), (4, s.fld 0x301 n 0 st.conf), (8, st.lastArrival / nsF), (2, st.lastCnt),
          (2, 0), (4, st.frames), (4, st.missing), (4, st.tooLate), (4, st.duplicate), (4, st.late), (4, st.formatErr),
          (4, st.portErr), (4, st.srcConflict), (4, st.simDiscard), (4, st.confRevErr), (4, 0)]

/-! ### Meanings -/

/-- SV ingest works once records run: out of reset. -/
def State.svRuns (f : State → State) (s : State) : State := if s.part.inReset then s else f s

/-- SV_FRAME_RX (R125 to R135). -/
def execSvFrameRx (dt : Nat) (f : SvFrame) (s : State) : Host.Outcome State Fault Refusal :=
  goOn dt (State.svRuns (State.svFrame f)) s

/-- SV_TICK_FREEZE (R132). -/
def execSvTickFreeze (dt : Nat) (stream : Fin 512) (s : State) : Host.Outcome State Fault Refusal :=
  goOn dt (State.svRuns (State.svFreeze stream.val)) s

/-- STREAM_LOSS (R126). -/
def execStreamLoss (dt : Nat) (stream : Fin 512) (s : State) : Host.Outcome State Fault Refusal :=
  goOn dt (State.svRuns (State.lossCheck stream.val)) s

/-- STREAM_AGEING_SWEEP (R128). -/
def execStreamAgeingSweep (dt : Nat) (s : State) : Host.Outcome State Fault Refusal :=
  goOn dt (State.svRuns State.svAge) s

end Sys2Proof.Machine
end

