-- ==== Sys2Proof/Machine/Engines.lean ====
section
/-!
DEFINITION. The protection engines: which tick an engine executes, the release of a window, the inputs of an execution, and
the landing of its record (R172 to R181, R188, R194, R206, R207).
-/
namespace Sys2Proof.Machine

/-- An instance as the engines hold it. -/
def State.inst (s : State) (n : Nat) : Inst := s.eng.insts.get { } n
/-- Changes an instance. -/
def State.modInst (n : Nat) (f : Inst → Inst) (s : State) : State :=
  { s with eng := { s.eng with insts := s.eng.insts.put n (f (s.inst n)) } }
/-- An engine. -/
def State.engine (s : State) (n : Nat) : Engine := s.eng.engines.get { } n
/-- Changes an engine. -/
def State.modEngine (n : Nat) (f : Engine → Engine) (s : State) : State :=
  { s with eng := { s.eng with engines := s.eng.engines.put n (f (s.engine n)) } }

/-- Instances run in every mode but BOOT and SAFE_HOLD (R31). -/
def State.enginesRun (s : State) : Bool :=
  !s.part.inReset && s.gaf.mode != .boot && s.gaf.mode != .safeHold

/-- Whether a tick comes before another. -/
def tickLt (a b : Nat × Nat) : Bool := a.1 < b.1 || (a.1 == b.1 && a.2 < b.2)
/-- The later of two ticks. -/
def tickMax (a b : Nat × Nat) : Nat × Nat := if tickLt a b then b else a

/-- The settings of an instance for a tick (R78). -/
def Inst.settingsAt (x : Inst) (k : Nat × Nat) : Table U32 :=
  ((x.settings.find? fun e => !tickLt k e.1).orElse fun _ => x.settings.getLast?).elim [] (·.2)

/-- Ticks between two executions of an instance: 1, or for PHASOR those of its reporting rate (R216). -/
def everyTicks (rate : Nat) (b : Bytes) (vals : Table U32) : Nat :=
  if b.u8 0 = 0x01 then max 1 (rate / max 1 (setting 0x01 vals 2).toNat) else 1

/-- The first tick from `k` on in which the instance executes. -/
def execFrom (rate : Nat) (b : Bytes) (vals : Table U32) (k : Nat × Nat) : Nat × Nat :=
  let e := everyTicks rate b vals
  addTicks rate k ((e - k.2 % e) % e)

/-- Half the window of a PHASOR after its reporting tick, 0 for every other type (R216). -/
def lookAhead (rate : Nat) (b : Bytes) (vals : Table U32) : Nat := if b.u8 0 = 0x01 then (windowTicks rate b vals - 1) / 2 else 0

/-- The landing deadline of an instance for a tick (R183). For a PHASOR it counts from the tick that releases its window (log
entry 48). -/
def State.landingDeadline (s : State) (n : Nat) (b : Bytes) (k : Nat × Nat) : Fine :=
  let look := lookAhead s.rate b ((s.inst n).settingsAt k)
  tickStart s.rate (addTicks s.rate k look) + (s.place.insts.get { } n).lofs * nsF

/-- The engine that holds a role of an instance for a tick (R191). -/
def Inst.holder (x : Inst) (primary : Bool) (k : Nat × Nat) : Nat :=
  match x.stand with
  | some d =>
    if d.primary == primary && !tickLt k d.first && (d.until_.all fun u => tickLt k u) then x.roles.spare
    else if primary then x.roles.primary else x.roles.twin
  | none => if primary then x.roles.primary else x.roles.twin

/-- The connected slots of an INSTANCE body, with their numbers. -/
def slotsOf (b : Bytes) : List (Nat × InSlot) := ((List.range (b.u16 4)).map fun i => (i, slotOf b i)).filter fun x => x.2.on

/-- The channels whose outputs a slot of KIND 1 or 2 reads. -/
def State.slotChans (s : State) (x : InSlot) : List Nat :=
  if x.kind = 1 then [x.index] else if x.kind = 2 then s.grpChans x.index else []

/-- The window of tick k has been released (R23, R207, R216). -/
def State.released (n : Nat) (b : Bytes) (k : Nat × Nat) (s : State) : Bool :=
  let look := addTicks s.rate k (lookAhead s.rate b ((s.inst n).settingsAt k))
  decide (tickStart s.rate look ≤ s.now) && (slotsOf b).all fun x =>
    match x.2.kind with
    | 0 =>
      match s.rec? 0x302 x.2.index with
      | some c => (s.stream (c.u16 0)).isFrozen s.rate look
      | none => true
    | 1 | 2 => (s.slotChans x.2).all fun c =>
        (s.chan c).recent.any fun o => tickStart s.rate (nextTick s.rate k) ≤ o.t
    | _ => true

/-- SCALE of an SV channel (R122). -/
def svScale (b : Bytes) : Fp :=
  if Fp.isZero (b.fp 4) then (if b.u8 3 = 1 then fpOf 1 100 else fpOf 1 1000) else b.fp 4

/-- The samples of a channel for ticks from `k` back, newest first, in engineering units, with their flags. A tick without an
entry reads 0, INVALID and MISSING. -/
def State.window (ch : Nat) (k : Nat × Nat) (w : Nat) (s : State) : List (Fp × Quality) :=
  let sc := (s.rec? 0x302 ch).elim Fp.one svScale
  (List.range w).map fun i =>
    match s.svBack ch k i with
    | some v => (Fp.mul (Fp.ofInt v.value) sc, v.q)
    | none => (0, qInvalid ||| qMissing)

/-- The tick input image of a tick; one no longer held reads as an empty one. -/
def State.image (s : State) (k : Nat × Nat) : Option Image := s.eng.images.find? fun i => i.tick == k

/-- The value and flags of a slot that reads the tick input image (R177, R206). A result never published reads 0, INVALID and
MISSING (log entry 49). -/
def imageItem (im : Image) (x : InSlot) : U32 × Quality :=
  match x.kind with
  | 3 =>
    match im.results.find? x.index with
    | some r => (if x.sub < 32 then BitVec.ofNat 32 (b2n (r.outbits.getLsbD x.sub)) else r.values.getD (x.sub - 64) 0, r.quality)
    | none => (0, qInvalid ||| qMissing)
  | 4 => im.goose.get (0, qInvalid ||| qMissing) x.index
  | 5 => (BitVec.ofNat 32 (b2n (bitOf im.bi x.index)), 0)
  | 6 => (BitVec.ofNat 32 (b2n (bitOf im.si x.index)), 0)
  | 7 => (BitVec.ofNat 32 (b2n (bitOf im.flags x.index)), 0)
  | 8 => let t := im.trk.get { } x.index; (t.freq, t.q)
  | _ => (0, 0)

/-- The oldest segment of a group that closed before a tick and has not been dealt with (R240). -/
def State.segmentFor (g : Nat) (doneSeq : Nat) (k : Nat × Nat) (s : State) : Option Segment :=
  ((s.grp g).segs.filterMap fun x =>
    if x.2.state == .closed && doneSeq < x.2.seq && x.2.closedAt < tickStart s.rate k then some x.2 else none).foldl
    (fun (m : Option Segment) x => match m with
      | none => some x
      | some y => if x.seq < y.seq then some x else m) none

/-- Engineering values of acquisition outputs in Q16 counts. -/
def State.acqValue (ch : Nat) (x : Int) (s : State) : Fp :=
  Fp.mul (Fp.ofRat x 65536) ((s.rec? 0x402 ch).elim Fp.one (·.fp 0xC))

/-- The state of an instance at the start of a tick: that after the last tick it executed before (R179). -/
def Inst.stateAt (x : Inst) (k : Nat × Nat) : FState := (x.hist.find? fun e => tickLt e.1 k).elim { } (·.2)

/-- What an execution for a tick reads (R177). -/
def State.libIn (n : Nat) (b : Bytes) (k : Nat × Nat) (s : State) : LibIn :=
  let vals := (s.inst n).settingsAt k
  let st := (s.inst n).stateAt k
  let w := windowTicks s.rate b vals
  let newest := addTicks s.rate k (lookAhead s.rate b vals)
  let im := (s.image k).getD { }
  let slots := (List.range (b.u16 4)).map fun i => slotOf b i
  let wins := slots.map fun x => if x.kind = 0 then s.window x.index newest w else []
  let items := slots.map fun x => if 3 ≤ x.kind && x.on then imageItem im x else (0, 0)
  let t := im.trk.get { } (slotOf b 0).index
  -- DC_LINE: the outputs of the tick and the window before it
  let uc := (slotOf b 0).index
  let ic := (slotOf b 1).index
  let dc := b.u8 0 == 0x10
  let tEnd := tickStart s.rate (nextTick s.rate k)
  let tOut := s.outPeriod uc
  let need := if dc then 64 + (Fp.roundInt (Fp.mul (setting 0x10 vals 7) (fpOf 1000))).toNat * 65536000 / max 1 tOut else 0
  let uOld := ((s.chan uc).recent.filter fun o => o.t < tEnd)
  let iOld := ((s.chan ic).recent.filter fun o => o.t < tEnd)
  let inTick (o : AqOut) : Bool := tickStart s.rate k ≤ o.t
  let nTick := (uOld.filter inTick).length
  let outs := if dc then ((uOld.zip iOld).take (nTick + need)).reverse else []
  let seg := if b.u8 0 = 0x0F then s.segmentFor (slotOf b 0).index (st.int 503) k else none
  { rate := s.rate, k, ty := b.u8 0, body := b, vals, st
    wins := wins.map fun x => x.map (·.1)
    q := qOr (wins.map (fun x => qOr (x.map (·.2))) ++ outs.map (fun o => o.1.q ||| o.2.q) ++ seg.toList.map (·.qual))
    bits := items.map fun x => x.1 != 0
    nums := items.map (·.1), numQ := items.map (·.2)
    trk := (t.freq, Fp.div t.ampl ((s.rec? 0x207 (slotOf b 0).index).elim 0 (·.fp 0x18)), t.state == 2)
    outs := outs.map fun o => (o.1.t, s.acqValue uc o.1.x, s.acqValue ic o.2.x)
    outFirst := outs.length - nTick, tOut
    seg := seg.map fun x => { seg := x, data := x.chans.map fun c => (x.data.get [] c).map fun v => s.acqValue c v }
    free := tickNum s.rate k * 1024 + n }

/-- The inputs come from more than one stream (R213). -/
def State.multiStream (b : Bytes) (s : State) : Bool :=
  1 < (((slotsOf b).filterMap fun x => if x.2.kind = 0 then (s.rec? 0x302 x.2.index).map (·.u16 0) else none).eraseDups).length

/-- A result still lies within one window after a restart (R188). -/
def Inst.settling (x : Inst) (rate w look : Nat) (k : Nat × Nat) : Bool :=
  x.restarted.any fun r => decide (tickNum rate k + look < tickNum rate r + w - 1)

/-- The result record of an execution for a tick, and the state it leaves (R186, R188). -/
def State.execution (n : Nat) (b : Bytes) (k : Nat × Nat) (upset : U32) (s : State) : ResultRec × FState :=
  let e := s.libIn n b k
  let (o, outbits, envOut) := libExec e (s.gaf.mode == .test) (s.multiStream b) (s.rec? 0x503 n)
  let t := o.decide.getD (tickStart s.rate k)
  let parts := typeParts e.ty
  let vals := o.vals.take (9 * parts)
  ({ inst := n, ftype := e.ty, pclass := classOf b
     quality := qOr ([e.q, qIf envOut qQuestionable,
       qIf ((s.inst n).settling s.rate (windowTicks s.rate b e.vals) (lookAhead s.rate b e.vals) k) qInvalid] ++ e.numQ)
     tick := if o.decide.isSome then tickOf s.rate t else k, tDecide := t, parts
     digest := crc32c (Config.stateBytes o.st) ^^^ upset
     outbits, values := vals ++ List.replicate (9 * parts - vals.length) 0 }, o.st)

/-- The tick that an engine executes next of an instance. -/
def State.nextExec (e n : Nat) (b : Bytes) (s : State) : Option (Nat × Nat) :=
  let x := s.inst n
  x.start.map fun st =>
    let after := match x.done.find? e with
      | some d => nextTick s.rate d
      | none => st
    let after := match x.stand with
      | some d => if e == x.roles.spare then tickMax after d.first else after
      | none => after
    -- a single-run instance that was shed goes on after its substitutes
    let after := if isSingle b then x.decided.elim after fun d => tickMax after (nextTick s.rate d) else after
    let k := tickMax after st
    execFrom s.rate b (x.settingsAt k) k

/-- A retired engine still executes the tick in which it was retired (R193). -/
def Engine.runs (g : Engine) (k : Nat × Nat) : Bool := !g.retired || !tickLt g.lastTick k

/-- The engine holds or held a role of the instance. -/
def Inst.mayRun (x : Inst) (e : Nat) (k : Nat × Nat) : Bool :=
  e == x.roles.primary || e == x.roles.twin || e == x.holder true k || e == x.holder false k

/-- An uncorrectable word that an execution meets (R28): it is met once. -/
def State.meetEcc (e n : Nat) (s : State) : Bool × State :=
  let cl := (e / 8, n)
  let bad := (s.engine e).bad || s.eng.badCluster.contains cl
  (bad, if bad then
      let s := s.modEngine e fun g => { g with bad := false }
      { s with eng := { s.eng with badCluster := s.eng.badCluster.filter (· != cl) } }
    else s)

/-- A record lands in the slot of its engine (R181). -/
def State.land (e n : Nat) (b : Bytes) (k : Nat × Nat) (rerun : Bool) (upset : U32) (s : State) : State :=
  let (ecc, s) := s.meetEcc e n
  let (r, st) := s.execution n b k upset
  let ns := min (Config.execNs e s.free) (s.place.insts.get { } n).cost
  let s := { s with free := s.free + 1 }
  let s := s.modEngine e fun g =>
    { g with executions := satAdd 32 g.executions 1, busyNs := g.busyNs + ns, tickNs := g.tickNs + ns
             peakNs := max g.peakNs (g.tickNs + ns), reruns := if rerun then satAdd 32 g.reruns 1 else g.reruns }
  let s := s.modInst n fun x =>
    { x with hist := if x.hist.any (fun h => h.1 == k) then x.hist
               else (((k, st) :: x.hist.filter fun h => tickLt h.1 k).take 4)
             done := if rerun then x.done else x.done.put e k }
  { s with eng := { s.eng with landed := s.eng.landed ++ [{ eng := e, k, rec_ := r, at_ := s.now, rerun, ecc }] } }

/-- The divergence whose re-run a spare has to execute next (R189). -/
def Inst.rerunDue (x : Inst) : Option Duel := x.duels.find? fun d => d.cause != 0 && !d.ran && d.spare.isNone

/-- The spare re-runs a tick (R180, R189): it loads the primary's checkpoint, or the twin's where that one is bad; where both
are, no record comes. -/
def State.rerun (e n : Nat) (b : Bytes) (upset : U32) (s : State) : State :=
  let x := s.inst n
  match x.rerunDue with
  | none => s
  | some d =>
    if e != x.roles.spare || !(s.engine e).runs d.tick then s
    else
      let s' := s.modInst n fun x => { x with duels := x.duels.map fun y => if y.tick == d.tick then { y with ran := true } else y }
      if s.eng.badCluster.contains (x.roles.primary / 8, n) && s.eng.badCluster.contains (x.roles.twin / 8, n) then s'
      else s'.land e n b d.tick true upset

/-- An engine finishes an execution or a re-run (R175, R181). Nothing happens where it has none to finish: the instance does
not run on it, its window has not been released, or the engine is retired. -/
def State.executionComplete (e n : Nat) (rerun : Bool) (upset : U32) (s : State) : State :=
  match s.rec? 0x501 n with
  | none => s
  | some b =>
    let x := s.inst n
    if !s.enginesRun || x.stopped || (isSingle b && 3 ≤ s.pwr.stage) then s
    else if rerun then s.rerun e n b upset
    else
      match s.nextExec e n b with
      | none => s
      | some k =>
        if x.mayRun e k && (s.engine e).runs k && !(x.dead.any fun f => !tickLt k f) && s.released n b k then s.land e n b k false upset else s

/-- EXECUTION_COMPLETE (R181). -/
def execExecutionComplete (dt : Nat) (eng : Fin 64) (inst : Fin 1024) (rerun : Bool) (upset : U32) (s : State) :
    Host.Outcome State Fault Refusal :=
  if s.isL && 32 ≤ eng.val then .fault .notProvided
  else goOn dt (State.executionComplete eng.val inst.val rerun upset) s

end Sys2Proof.Machine
end

