-- ==== Sys2Proof/Machine/Time.lean ====
section
/-!
DEFINITION. Domain clocks, servo and domain states, working time, time inputs and pulse outputs (R80 to R105, R118).
-/
namespace Sys2Proof.Machine

/-! ### Records (R118) -/

/-- The least and the most increment of R81. -/
def incMin : Nat := 0x00FFBE76C9
@[inherit_doc incMin] def incMax : Nat := 0x0100418937

/-- The records of TIME_CONFIGURE. -/
def timeSpec (l : Bool) (rtype obj : Nat) (b : Bytes) : Option RecSpec :=
  match rtype with
  | 0x201 => some (fixedRec 4 [(0, b.u16 0 == 4800 || b.u16 0 == 14400), (2, zeroAt b 2 2)] (obj == 0))
  | 0x202 => some (fixedRec 0x14
      [(0, b.u8 0 ≤ 4), (1, b.u8 1 ≤ 1), (3, b.u8 3 ≤ 1), (4, within 20 1000 (b.u16 4)), (6, within 10 1000 (b.u16 6)),
       (8, within 1 3600 (b.u16 8)), (0xA, b.u16 0xA ≤ 255), (0xE, onlyBits 3 (b.u16 0xE)), (0x10, b.u16 0x10 ≤ 1000),
       (0x12, zeroAt b 0x12 2)] (obj ≤ 1) (if b.u8 3 = 1 then [10] else []))
  | 0x203 => some (fixedRec 0xC
      [(0, b.u8 0 ≤ 1), (1, onlyBits 3 (b.u8 1)), (2, within 10 1000 (b.u16 2)), (4, within 1000 1000000 (b.u32 4)),
       (8, within 10 3600 (b.u16 8)), (0xA, zeroAt b 0xA 2)] (obj == 0))
  | 0x204 => some (fixedRec 8
      [(0, onlyBits 3 (b.u8 0)), (1, b.u8 1 ≤ 2), (2, withinZ (-3) 0 (b.sle 2 1)), (3, zeroAt b 3 1),
       (4, withinZ (-1000) 1000 (b.sle 4 2)), (6, withinZ (-1000) 1000 (b.sle 6 2))] (obj < numPorts l))
  | 0x205 => some (fixedRec 0x10
      [(0, b.u8 0 ≤ 1), (1, b.u8 1 ≤ 1), (2, b.u8 2 ≤ 1), (3, zeroAt b 3 1), (4, withinZ (-100000) 100000 (b.sle 4 4)),
       (8, withinZ (-100000) 100000 (b.sle 8 4)), (0xC, within 2000 2199 (b.u16 0xC)), (0xE, zeroAt b 0xE 2)] (obj == 0))
  | 0x206 =>
    let pm := b.u8 0
    let w := b.u32 4
    some (fixedRec 0x20
      [(0, pm ≤ 5), (1, b.u8 1 ≤ 2), (2, zeroAt b 2 2),
       (4, pm == 0 || (10 ≤ w && (pm != 1 || w + 10 ≤ b.u64 8) && (pm != 3 || w + 10 ≤ tMin 4800) && (pm != 4 || w + 10 ≤ 10000))),
       (8, pm != 1 || within 1000 100000000000 (b.u64 8)), (0x18, withinZ (-1000000000) 1000000000 (b.sle 0x18 4)),
       (0x1C, zeroAt b 0x1C 4)] (obj ≤ 1))
  | 0x207 =>
    let ch := if b.u8 0 = 0 then numSvCh l else numAcq l
    some (fixedRec 0x1C
      [(0, b.u8 0 ≤ 1), (1, b.u8 1 == 50 || b.u8 1 == 60), (2, zeroAt b 2 2), (4, b.u16 4 < ch), (6, b.u16 6 < ch),
       (8, b.u16 8 < ch), (0xA, zeroAt b 0xA 2), (0xC, within 20 500 (b.u16 0xC)), (0xE, within 500 1000 (b.u16 0xE)),
       (0x10, within 20 500 (b.u16 0x10)), (0x12, within 20 2000 (b.u16 0x12)), (0x18, Fp.isFinite (b.fp 0x18))] (obj ≤ 7))
  | 0x208 =>
    let a := b.u8 3
    some (fixedRec 0xC
      [(0, b.u8 0 ≤ 7), (1, b.u8 1 ≤ 3), (2, within 1 6 (b.u8 2)),
       (3, match b.u8 2 with
         | 1 => a ≤ 1
         | 2 => true
         | 3 => a ≤ 3
         | 4 => true
         | 5 => 192 ≤ a
         | _ => a == 0),
       (4, b.u8 1 != 2 || 2 ≤ b.u16 4), (6, zeroAt b 6 2)] (obj ≤ 255))
  | _ => none

/-- SOURCE of a domain: 4 without a DOMAIN record (R84). -/
def State.domSource (s : State) (x : Dom) : Nat := s.fld 0x202 x.num 4 (·.u8 0)
/-- The servo of a domain is the host's (R84). -/
def State.hostServo (s : State) (x : Dom) : Bool := s.fld 0x202 x.num 0 (·.u8 3) == 1
/-- LOCK_THR in 2^-16 ns. -/
def State.lockThr (s : State) (x : Dom) : Nat := s.fld 0x202 x.num 100 (·.u16 4) * 65536
/-- LOOP_BW in mHz. -/
def State.loopBw (s : State) (x : Dom) : Nat := s.fld 0x202 x.num 100 (·.u16 6)
/-- HOLDOVER_LIMIT in s. -/
def State.holdoverLimit (s : State) (x : Dom) : Nat := s.fld 0x202 x.num 10 (·.u16 8)
/-- PREFERRED. -/
def State.preferred (s : State) : Dom := if s.fld 0x203 0 0 (·.u8 0) = 1 then .b else .a
/-- REVERTIVE and AUTO_SWITCH. -/
def State.revertive (s : State) : Bool := bitOf (s.fld 0x203 0 2 (·.u8 1)) 0
@[inherit_doc State.revertive] def State.autoSwitch (s : State) : Bool := bitOf (s.fld 0x203 0 2 (·.u8 1)) 1
/-- REVERT_HOLD of the WORKTIME record, in s. -/
def State.timeRevertHold (s : State) : Nat := s.fld 0x203 0 60 (·.u16 8)

/-! ### Clocks (R81 to R83, R90) -/

/-- One second of a domain's count. -/
def countSec : Nat := 1000000000 * 2 ^ 32

/-- A domain clock moved by a step, with the instants it keeps for itself. -/
def Domain.step (delta : Int) (d : Domain) : Domain :=
  let mv (n : Nat) : Nat := ((n : Int) + delta).toNat
  { d with count := (((d.count : Int) + delta) % 2 ^ 96).toNat, lastRef := d.lastRef.map mv, holdAt := mv d.holdAt
           lockedAt := mv d.lockedAt }

/-- A new increment accepted: it waits for the next multiple of 1,000 ns of the domain's time (R82). -/
def Domain.accept (inc : Nat) (d : Domain) : Domain :=
  { d with pend := some (inc, (d.count / (1000 * 2 ^ 32) + 1) * (1000 * 2 ^ 32)) }

/-- The instant a pending increment names has come. -/
def Domain.incDue (d : Domain) : Bool := d.pend.any fun p => p.2 ≤ d.count

/-- The pending increment takes effect (R82). -/
def Domain.takeInc (d : Domain) : Domain :=
  match d.pend with
  | none => d
  | some p => { d with inc := p.1, pend := none }

/-- Applies a change to one domain. -/
def State.modDom (x : Dom) (f : Domain → Domain) (s : State) : State :=
  { s with time := s.time.setDom x (f (s.time.dom x)) }

/-- EV_TIME_SWITCH with its cause and WORK_OFFSET as it now is (R89). -/
def State.timeSwitched (old new : Dom) (cause : Nat) (s : State) : State :=
  s.post { mkEv 0x12 0 s.now [] with
    payload := packLe [(1, old.num), (1, new.num), (1, cause), (1, 0)] ++ sleBytes 8 s.time.offset }

/-- The edges of pulse outputs whose instants a step passed are not produced (R105). -/
def State.skipPulses (s : State) : State :=
  { s with time := { s.time with pulses := s.time.pulses.map fun (p : Nat × PulseOut) =>
      (p.1, { p.2 with last := some (match s.fld 0x206 p.1 0 (·.u8 1) with
        | 0 => s.now
        | 1 => s.time.domA.t80
        | _ => s.time.domB.t80) }) } }

/-- A phase step of a domain by `delta` units of 2^-32 ns (R83). In SERVICE and STANDBY a step of the domain that supplies
working time goes into WORK_OFFSET and is bled away; otherwise it passes to working time (R90). -/
def State.stepDom (x : Dom) (delta : Int) (s : State) : State :=
  let absorbed := x == s.time.src && (s.gaf.mode == .service || s.gaf.mode == .standby)
  let before := s.time.dom x
  let s := s.modDom x (Domain.step delta)
  if absorbed then
    let moved : Int := (s.time.dom x).t80 - before.t80
    let s := { s with time := { s.time with workOff := s.time.workOff + moved * 1000000000 } }
    s.timeSwitched x x 4
  else s.skipPulses

/-! ### Domain states (R84, R85) -/

/-- Holds the increment of the Gaffer servo at the mean of the last 16 LOCKED intervals (R85). -/
def Domain.holdInc (d : Domain) : Domain :=
  if d.incs.isEmpty then d else d.accept (d.incs.foldl (· + ·) 0 / d.incs.length)

/-- A domain enters HOLDOVER. -/
def State.toHoldover (x : Dom) (s : State) : State :=
  let host := s.hostServo x
  s.modDom x fun d =>
    let d := { d with state := .holdover, holdAt := d.count, good := 0 }
    if host then d else d.holdInc

/-- A domain enters FREE; working time may lose its synchronisation (R85, R92). -/
def State.toFree (x : Dom) (s : State) : State :=
  s.modDom x fun d => { d with state := .free, good := 0 }

/-- The Gaffer servo takes an offset (R84): the loop's value is open, its range is that of R81. -/
def Domain.servo (ofs : Int) (bw : Nat) (d : Domain) : Domain :=
  let integ := d.integ + ofs
  { d with integ }.accept (clampInt incMin incMax (0x100000000 + Config.servo ofs integ bw)).toNat

/-- A valid reference with its measured offset, local minus reference, in 2^-16 ns (R84, R85). -/
def State.reference (x : Dom) (ofs : Int) (interval : Nat) (s : State) : State :=
  let thr := s.lockThr x
  let host := s.hostServo x
  let bw := s.loopBw x
  let inside := ofs.natAbs ≤ thr
  let d := s.time.dom x
  let mark (f : Domain → Domain) (s : State) : State :=
    s.modDom x fun d => f { d with lastRef := some d.count, interval }
  let slew (d : Domain) : Domain := if host then d else d.servo ofs bw
  match d.state with
  | .free | .holdover =>
    if !host && 1000000 * 65536 < ofs.natAbs then
      let s := mark (fun d => { d with state := .acquiring, good := 0, integ := 0 }) s
      s.stepDom x (-(ofs * 65536))
    else mark (fun d => slew { d with state := .acquiring, good := b2n inside, integ := 0 }) s
  | .acquiring =>
    mark (fun d => slew (if inside then
        (if 16 ≤ d.good + 1 then { d with state := .locked, good := 0, lockedAt := d.count, incs := [] }
         else { d with good := d.good + 1 })
      else { d with good := 0 })) s
  | .locked =>
    if 4 * thr < ofs.natAbs then (mark id s).toHoldover x
    else mark (fun d => slew { d with incs := (d.inc :: d.incs).take 16 }) s

/-- The instant from which a missing reference ends LOCKED: 3 intervals after the last one (R85). -/
def Domain.refLate (d : Domain) : Bool :=
  d.lastRef.elim true fun r => r + 3 * d.interval * 2 ^ 32 < d.count

/-- No valid reference for 3 intervals: LOCKED becomes HOLDOVER (R85). -/
def State.refTimeout (x : Dom) (s : State) : State :=
  let d := s.time.dom x
  if d.state == .locked && d.refLate then s.toHoldover x else s

/-- HOLDOVER_LIMIT expires: HOLDOVER becomes FREE (R85). -/
def State.holdoverExpiry (x : Dom) (s : State) : State :=
  let d := s.time.dom x
  if d.state == .holdover && decide (d.holdAt + s.holdoverLimit x * countSec ≤ d.count) then s.toFree x else s

/-! ### Switching working time (R88 to R91) -/

/-- Working time in units of 2^-16 ns times 10^-9. -/
def TimeUnit.nowUnits (t : TimeUnit) : Int := ((t.dom t.src).t80 : Int) * 1000000000 - t.workOff

/-- Takes working time from a domain, continuously (R89). -/
def State.switchTo (x : Dom) (cause : Nat) (s : State) : State :=
  let old := s.time.src
  let w := s.time.nowUnits
  let s := { s with time := { s.time with
      src := x, workOff := ((s.time.dom x).t80 : Int) * 1000000000 - w
      owedSwitch := if x == s.preferred then false else s.time.owedSwitch } }
  s.timeSwitched old x cause

/-- The preferred domain has been LOCKED without a break for REVERT_HOLD (R91). -/
def State.revertDue (s : State) : Bool :=
  let d := s.time.dom s.preferred
  s.revertive && s.time.src != s.preferred && d.state == .locked &&
  decide (d.lockedAt + s.timeRevertHold * countSec ≤ d.count)

/-- The switch that the rules of R91 ask for now, with its cause. -/
def State.switchDue (s : State) : Option (Dom × Nat) :=
  let x := s.time.src
  let locked (y : Dom) : Bool := (s.time.dom y).state == .locked
  if s.time.owedSwitch && x != s.preferred && locked s.preferred then some (s.preferred, 3)
  else if s.autoSwitch && !locked x && locked x.other then some (x.other, 1)
  else if s.revertDue then some (s.preferred, 2)
  else none

/-- Makes the switch that is due. -/
def State.switchIfDue (s : State) : State :=
  match s.switchDue with
  | none => s
  | some (x, c) => s.switchTo x c

/-- Notes the instant at which working time loses its synchronisation, given whether it had it before (R92, R202). -/
def State.noteSync (before : Bool) (s : State) : State :=
  if before && !s.timeSync then { s with time := { s.time with syncLostAt := some s.now } }
  else if s.timeSync then { s with time := { s.time with syncLostAt := none } } else s

/-! ### Time inputs (R102 to R104) -/

/-- A time input is on. -/
def State.ppsOn (s : State) : Bool := s.fld 0x205 0 0 (·.u8 0) == 1
@[inherit_doc State.ppsOn] def State.irigOn (s : State) : Bool := s.fld 0x205 0 0 (·.u8 1) == 1
/-- PPS_DELAY and IRIG_DELAY in 2^-16 ns. -/
def State.ppsDelay (s : State) : Int := ((s.rec? 0x205 0).elim 0 fun b => b.sle 4 4) * 65536
@[inherit_doc State.ppsDelay] def State.irigDelay (s : State) : Int := ((s.rec? 0x205 0).elim 0 fun b => b.sle 8 4) * 65536
/-- Control functions are decoded. -/
def State.irigCf (s : State) : Bool := s.fld 0x205 0 0 (·.u8 2) == 1

/-- Days from the PTP epoch to the first day of a year. -/
def daysTo (year : Nat) : Nat :=
  let y := year - 1
  365 * (year - 1970) + (y / 4 - 1969 / 4) - (y / 100 - 1969 / 100) + (y / 400 - 1969 / 400)

/-- The domain by whose clock the spacing of 1PPS edges is judged: the one that takes 1PPS, domain A if both or none do
(log entry 11). -/
def State.ppsDom (s : State) : Dom :=
  if s.domSource .b == 2 || s.domSource .b == 3 then
    (if s.domSource .a == 2 || s.domSource .a == 3 then .a else .b) else .a

/-- The offset of a stamp from the nearest second of the true time it should name: `tai` in 2^-16 ns. -/
def offsetFrom (stamp : Fine) (delay : Int) (tai : Int) : Int := (stamp : Int) - delay - tai

/-- The nearest second to an instant, in 2^-16 ns. -/
def nearestSec (t : Int) : Int := ((t + (secF / 2 : Nat)) / (secF : Nat)) * (secF : Nat)

/-- A 1PPS edge gives a domain its reference, where the domain takes it and has a time of day (R84, R102). -/
def State.ppsReference (x : Dom) (s : State) : State :=
  let stamp := (s.time.dom x).t80
  match s.domSource x with
  | 2 =>
    match s.time.irig.last with
    | some l =>
      if s.time.irig.valid then
        let at_ := match x with
          | .a => s.time.irig.lastA
          | .b => s.time.irig.lastB
        let tai := nearestSec ((l : Int) * 65536 + ((stamp : Int) - at_))
        s.reference x (offsetFrom stamp s.ppsDelay tai) 1000000000
      else s
    | none => s
  | 3 =>
    let o := s.time.dom x.other
    if o.synced then s.reference x (offsetFrom stamp s.ppsDelay (nearestSec o.t80)) 1000000000 else s
  | _ => s

/-- An on-time edge of the 1PPS input, with the times the ball was high and low since the one before (R102, R104). -/
def State.ppsEdge (high low : Nat) (rising : Bool) (s : State) : State :=
  let p := s.time.pps
  if !s.ppsOn || rising == p.reversed then s
  else
    let hi := if p.reversed then low else high
    let lo := if p.reversed then high else low
    let long := if lo < hi then p.longHigh + 1 else 0
    let d := s.time.dom s.ppsDom
    let last := match s.ppsDom with
      | .a => p.lastA
      | .b => p.lastB
    let gap : Int := (d.t80 : Int) - last
    let ok := p.seen && decide ((gap - (secF : Int)).natAbs ≤ 100000 * 65536)
    let flip := 3 ≤ long
    let s := { s with time := { s.time with pps := { p with
        lastW := s.now, lastA := s.time.domA.t80, lastB := s.time.domB.t80, seen := true
        good := if ok then p.good + 1 else 0
        valid := ok || p.valid
        longHigh := if flip then 0 else long
        reversed := if flip then !p.reversed else p.reversed } } }
    if ok then (s.ppsReference .a).ppsReference .b else s

/-- 3 s without a valid edge make the 1PPS input invalid (R102). -/
def State.ppsTimeout (s : State) : State :=
  let p := s.time.pps
  let d := s.time.dom s.ppsDom
  let last := match s.ppsDom with
    | .a => p.lastA
    | .b => p.lastB
  if p.valid && 3 * secF ≤ d.t80 - last then { s with time := { s.time with pps := { p with valid := false, good := 0 } } }
  else s

/-- A valid IRIG-B frame gives a domain its reference; `tai` in ns by the UTC offset of that domain (R103). -/
def State.irigReference (x : Dom) (utcNs : Int) (s : State) : State :=
  if s.domSource x == 1 && s.time.irig.valid then
    s.reference x (offsetFrom (s.time.dom x).t80 s.irigDelay ((utcNs + s.utcOf x * 1000000000) * 65536)) 1000000000
  else s

/-- The TAI second at which an announced leap takes place: the end of the UTC minute in which the pending bit stands
(R103, log entry 11). -/
def leapAt (utcNs : Int) (utc : Int) : Nat := ((utcNs / 60000000000 + 1) * 60 + utc).toNat

/-- An IRIG-B frame, whose reference marker is the present instant (R103, R104). -/
def State.irigFrame (f : IrigFrame) (s : State) : State :=
  let g := s.time.irig
  if !s.irigOn then s
  else
    let decodes := f.inverted == g.reversed
    let bad := if decodes then 0 else g.inverted + 1
    let flip := 2 ≤ bad
    let s := { s with time := { s.time with irig := { g with
        inverted := if flip then 0 else bad, reversed := if flip then !g.reversed else g.reversed } } }
    if (!decodes && !flip) || (s.irigCf && f.worseThan1us) then s
    else
      let year := if 4 ≤ f.format.val then f.year else s.fld 0x205 0 2000 (·.u16 0xC)
      let utcNs : Nat := daysTo year * 86400000000000 + f.utcOfYear
      let x := if s.domSource .b == 1 && s.domSource .a != 1 then Dom.b else Dom.a
      let tai := ((utcNs : Int) + s.utcOf x * 1000000000).toNat
      let agrees := g.last.any fun l => l + 1000000000 == tai
      let s := { s with time := { s.time with irig := { s.time.irig with
          lastW := s.now, lastA := s.time.domA.t80, lastB := s.time.domB.t80, last := some tai, valid := agrees } } }
      let s := if agrees then (s.irigReference .a utcNs).irigReference .b utcNs else s
      if s.irigCf && f.leapPending then
        let note (y : Dom) (s : State) : State :=
          if within 1 2 (s.domSource y) then s.modDom y fun d => { d with leap := some (leapAt utcNs (s.utcOf y), f.leapNegative) }
          else s
        note .b (note .a s)
      else s

/-! ### Pulse outputs (R105) -/

/-- The latest instant at or before now, in the time base of the output, at which its record programs a rising edge. -/
def State.pulseProgram (out : Nat) (b : Bytes) (s : State) : Option Fine :=
  let ofs : Int := b.sle 0x18 4 * 65536
  let now : Int := match b.u8 1 with
    | 0 => s.now
    | 1 => s.time.domA.t80
    | _ => s.time.domB.t80
  let start : Int := (b.u64 0x10 : Int) * 65536 + ofs
  let w : Int := (s.now : Int) - ofs
  match b.u8 0 with
  | 1 =>
    let p : Int := (b.u64 8 : Int) * 65536
    if start ≤ now && 0 < p then some (start + (now - start) / p * p).toNat else none
  | 2 => if start ≤ now then some start.toNat else none
  | 3 => if 0 ≤ w then some ((tickStart s.rate (tickOf s.rate w.toNat) : Int) + ofs).toNat else none
  | 4 => if 0 ≤ w then some ((cycleStart (cycleOf w.toNat) : Int) + ofs).toNat else none
  | 5 => (s.time.pulses.get { } out).marver.getLast?.bind fun t =>
      if (t : Int) + ofs ≤ now then some ((t : Int) + ofs).toNat else none
  | _ => none

/-- A programmed rising edge leaves its output, once (R105). -/
def State.pulseEdge (out : Nat) (s : State) : State :=
  match s.rec? 0x206 out with
  | none => s
  | some b =>
    let p := s.time.pulses.get { } out
    match s.pulseProgram out b with
    | none => s
    | some t =>
      if p.last.any fun l => t ≤ l then
        if b.u8 0 = 5 then { s with time := { s.time with pulses := s.time.pulses.put out { p with marver := p.marver.dropLast } } }
        else s
      else
        let p := { p with last := some t, width := b.u32 4, count := p.count + 1
                          marver := if b.u8 0 = 5 then p.marver.dropLast else p.marver }
        ({ s with time := { s.time with pulses := s.time.pulses.put out p } }).emit (.pulse out t)

/-! ### Meanings -/

/-- A working time that lost its synchronisation in `f` notes when. -/
def State.keepSync (f : State → State) (s : State) : State := (f s).noteSync s.timeSync

/-- DOMAIN_REF_TIMEOUT (R85). -/
def execDomainRefTimeout (dt : Nat) (dom : Dom) (s : State) : Host.Outcome State Fault Refusal :=
  goOn dt (State.keepSync (State.refTimeout dom)) s

/-- HOLDOVER_LIMIT_EXPIRY (R85). -/
def execHoldoverLimitExpiry (dt : Nat) (dom : Dom) (s : State) : Host.Outcome State Fault Refusal :=
  goOn dt (State.keepSync (State.holdoverExpiry dom)) s

/-- WORKTIME_SWITCH: the switch that R91 asks for is made (R89). -/
def execWorktimeSwitch (dt : Nat) (s : State) : Host.Outcome State Fault Refusal :=
  goOn dt (State.keepSync State.switchIfDue) s

/-- REVERT_HOLD_EXPIRY: working time returns to PREFERRED (R91). -/
def execRevertHoldExpiry (dt : Nat) (s : State) : Host.Outcome State Fault Refusal :=
  goOn dt (State.keepSync fun s => if s.revertDue then s.switchTo s.preferred 2 else s) s

/-- PPS_EDGE (R102, R104). -/
def execPpsEdge (dt highNs lowNs : Nat) (rising : Bool) (s : State) : Host.Outcome State Fault Refusal :=
  goOn dt (State.keepSync (State.ppsEdge highNs lowNs rising)) s

/-- PPS_TIMEOUT (R102). -/
def execPpsTimeout (dt : Nat) (s : State) : Host.Outcome State Fault Refusal := goOn dt State.ppsTimeout s

/-- IRIG_FRAME (R103, R104). -/
def execIrigFrame (dt : Nat) (f : IrigFrame) (s : State) : Host.Outcome State Fault Refusal :=
  goOn dt (State.keepSync (State.irigFrame f)) s

/-- PULSE_EDGE (R105). -/
def execPulseEdge (dt : Nat) (out : Fin 2) (s : State) : Host.Outcome State Fault Refusal :=
  goOn dt (State.pulseEdge out.val) s

/-- WORK_OFFSET_BLEED: the bleed, which every passing of time carries out, has brought WORK_OFFSET across OFFSET_LIMIT
(R89, R92); working time gains or loses its synchronisation. -/
def execWorkOffsetBleed (dt : Nat) (s : State) : Host.Outcome State Fault Refusal :=
  goOn dt (fun t => t.noteSync s.timeSync) s

end Sys2Proof.Machine
end

