-- ==== Sys2Proof/Machine/Tracker.lean ====
section
/-!
DEFINITION. Angle trackers and the Marver's windows (R111 to R117).
-/
namespace Sys2Proof.Machine

/-- A tracker. -/
def State.tracker (s : State) (n : Nat) : Tracker := s.trk.get { } n
/-- Changes a tracker. -/
def State.modTracker (n : Nat) (f : Tracker → Tracker) (s : State) : State := { s with trk := s.trk.put n (f (s.tracker n)) }

/-- The angle that a frequency covers in a time: `2^32 f t`, rounded down (R112, R115). -/
def angleIn (f : Fp) (t : Fine) : Int := (2 ^ 32 * Fp.val f * t).fdiv (2 ^ 150 * 1000000000 * 65536)

/-- The time a frequency needs for an angle, rounded down; nothing for a frequency of 0 or below. -/
def timeFor (f : Fp) (a : Nat) : Fine :=
  if Fp.val f ≤ 0 then 0 else ((a : Int) * 2 ^ 150 * 1000000000 * 65536 / (2 ^ 32 * Fp.val f)).toNat

/-- MIN_AMPL of a tracker, with `extra` per mille, as a part of NOM_AMPL. -/
def minAmpl (b : Bytes) (extra : Nat) : Fp := Fp.mul (b.fp 0x18) (Fp.ofRat (b.u16 0x10 + extra : Nat) 1000)

/-- The nominal frequency. -/
def trkNominal (b : Bytes) : Fp := Fp.ofInt (b.u8 1)

/-- The frequency at which the angle advances (R114). -/
def Tracker.rate (b : Bytes) (x : Tracker) : Fp :=
  match x.state with
  | .unlocked => trkNominal b
  | .coast => x.held
  | _ => x.freq

/-- One update of the loop at the instant of its inputs (R111, R114). The loop's values are open (log entry 53); the states
follow R114. -/
def Tracker.update (b : Bytes) (t : Fine) (xs : List Fp) (valid : Bool) (x : Tracker) : Tracker :=
  let r := Config.pll xs [x.theta, x.freq, x.rocof, x.ampl, x.integ] b
  let at_ (i : Nat) : U32 := r.getD i 0
  let adv : U32 := x.theta + BitVec.ofInt 32 (angleIn (x.rate b) (t - x.thetaAt))
  let freq := at_ 1
  let ampl := at_ 3
  let low := Fp.lt ampl (minAmpl b 0)
  let high := Fp.le (minAmpl b 20) ampl && valid
  let edge := Fp.le freq (fpOf 40) || Fp.le (fpOf 70) freq
  let inside := Fp.lt (Fp.abs (at_ 4)) (fpOf 5 100) && Fp.lt (Fp.abs (at_ 5)) Fp.one
  let loop := x.state == .locking || x.state == .locked
  let y : Tracker :=
    { x with theta := if loop && valid then at_ 0 else adv, thetaAt := t, ampl, rocof := at_ 2, integ := at_ 6
             freq := if loop && valid then freq else x.rate b }
  if edge && loop then { y with state := .unlocked, freq := trkNominal b, within := none }
  else match x.state with
    | .unlocked => if high then { y with state := .locking, within := none, freq } else y
    | .locking =>
      if low then { y with state := .unlocked, freq := trkNominal b, within := none }
      else { y with within := if inside && valid then some (x.within.getD t) else none }
    | .locked => if low || !valid then { y with state := .coast, held := x.freq, freq := x.freq, since := t } else y
    | .coast => if high then { y with state := .locking, within := none } else y

/-- The inputs of an SV tracker for a tick, in engineering units, and whether they are valid. -/
def State.trkSv (b : Bytes) (k : Nat × Nat) (s : State) : List Fp × Bool :=
  let xs := [4, 6, 8].map fun o => (s.window (b.u16 o) k 1).headD (0, qInvalid)
  (xs.map (·.1), !qHas (qInvalid ||| qMissing) (qOr (xs.map (·.2))))

/-- The inputs of an acquisition tracker: the latest outputs. -/
def State.trkAcq (b : Bytes) (s : State) : List Fp × Bool :=
  let xs := [4, 6, 8].map fun o => match (s.chan (b.u16 o)).recent.head? with
    | some v => (s.acqValue (b.u16 o) v.x, v.q)
    | none => (0, qInvalid)
  (xs.map (·.1), !qHas (qInvalid ||| qMissing) (qOr (xs.map (·.2))))

/-- The ticks that have been frozen for an SV tracker since its last update, at most `fuel`. -/
def State.trkTicks (b : Bytes) (s : State) : Nat → Nat × Nat → List (Nat × Nat)
  | 0, _ => []
  | n + 1, k =>
    let frozen := [4, 6, 8].all fun o => match s.rec? 0x302 (b.u16 o) with
      | some c => (s.stream (c.u16 0)).isFrozen s.rate k
      | none => true
    if frozen && tickStart s.rate k ≤ s.now then k :: s.trkTicks b n (nextTick s.rate k) else []

/-- Updates and publishes one tracker at the start of fast cycle `c` (R112). -/
def State.trackerCycle (c : Nat × Nat) (s : State) (r : Nat × Bytes) : State :=
  let b := r.2
  let x := s.tracker r.1
  let t := cycleStart c
  let x :=
    if b.u8 0 = 0 then
      let from_ := if x.started then nextTick s.rate (tickOf s.rate x.thetaAt) else subTicks s.rate s.tick 1
      (s.trkTicks b 8 from_).foldl (fun x k =>
        let (xs, ok) := s.trkSv b k
        x.update b (tickStart s.rate k) xs ok) { x with started := true, thetaAt := if x.started then x.thetaAt else tickStart s.rate from_ }
    else
      let (xs, ok) := s.trkAcq b
      { x with thetaAt := if x.started then x.thetaAt else t, started := true }.update b t xs ok
  let ang : U32 := x.theta + BitVec.ofInt 32 (angleIn (x.rate b) (t - x.thetaAt)) + BitVec.ofNat 32 (b.u32 0x14)
  s.modTracker r.1 fun _ => { x with angle := ang, freq := x.rate b }

/-- Errors have been within their limits for 100 ms: LOCKING becomes LOCKED (R114). -/
def State.trackerLock (n : Nat) (s : State) : State :=
  let x := s.tracker n
  if x.state == .locking && x.within.any fun t => t + 100000000 * nsF ≤ s.now then
    s.modTracker n fun x => { x with state := .locked }
  else s

/-- COAST has lasted COAST_LIMIT: UNLOCKED (R114). -/
def State.coastExpiry (n : Nat) (s : State) : State :=
  match s.rec? 0x207 n with
  | some b =>
    let x := s.tracker n
    if x.state == .coast && x.since + b.u16 0x12 * 1000000 * nsF ≤ s.now then
      s.modTracker n fun x => { x with state := .unlocked, freq := trkNominal b }
    else s
  | none => s

/-- The flags that items of a tracker carry (R114, R92). -/
def State.trkQ (x : Tracker) (s : State) : Quality :=
  (match x.state with
    | .locked => 0
    | .unlocked => qInvalid
    | _ => qQuestionable) ||| s.qSync

/-- The code of a tracker state (R79). -/
def TrkState.code : TrkState → Nat
  | .unlocked => 0
  | .locking => 1
  | .locked => 2
  | .coast => 3

/-- A tracker in the tick input image (R177). -/
def State.trkImage (n : Nat) (s : State) : TrkImage :=
  let x := s.tracker n
  { angle := x.angle, freq := x.freq, rocof := x.rocof, ampl := x.ampl, state := x.state.code, q := s.trkQ x }

/-! ### The Marver (R115 to R117) -/

/-- A Marver event. -/
def State.mar? (s : State) (n : Nat) : MarEvent := s.mar.events.get { } n

/-- Puts a firing into the order of stamps, then event numbers (R116). -/
def firingLe (a b : Firing) : Bool := a.stamp < b.stamp || (a.stamp == b.stamp && a.event ≤ b.event)

/-- One event against its tracker's window of a cycle: `lo` its start, `len` its length. -/
def State.marverEvent (c : Nat × Nat) (win : Table (U32 × Nat)) (s : State) (r : Nat × Bytes) : State :=
  let b := r.2
  let e := s.mar? r.1
  let x := s.tracker (b.u8 0)
  let (lo, len) := win.get (0, 0) (b.u8 0)
  let t := cycleStart c
  let ev : U32 := BitVec.ofNat 32 (b.u32 8)
  if e.emode = 0 || t < e.from_ || !decide ((ev - lo).toNat < len) then s
  else
    let fires := e.emode != 2 || e.count = 0
    -- the angle has been passed at the cycle's start
    let passed := decide ((ev - lo).toNat < (x.angle - lo).toNat ∧ (x.angle - lo).toNat < 2 ^ 31)
    let stamp := if passed then t else t + timeFor x.freq (ev - x.angle).toNat
    let e' : MarEvent :=
      { e with count := if e.emode = 2 then (e.count + 1) % max 1 (b.u16 4) else e.count
               emode := if e.emode = 3 then 0 else e.emode
               firings := if fires then satAdd 32 e.firings 1 else e.firings }
    let f : Firing := { event := r.1, stamp, cycle := cycleNum c, state := x.state, angle := ev }
    { s with mar := { events := s.mar.events.put r.1 e', queue := if fires then insertBy firingLe f s.mar.queue else s.mar.queue } }

/-- The Marver at the start of fast cycle `c` (R115): every tracker's window, then every event. -/
def State.marverCycle (c : Nat × Nat) (s : State) : State :=
  let trks := s.recs 0x207
  let win : Table (U32 × Nat) := trks.foldl (fun t r =>
    let x := s.tracker r.1
    let end_ : U32 := x.angle + BitVec.ofInt 32 (angleIn x.freq (10000 * nsF))
    let lo := if x.wStarted then x.window else x.angle
    let len := (end_ - lo).toNat
    t.put r.1 (lo, if len < 2 ^ 31 then len else 0)) []
  let s := (s.recs 0x208).foldl (State.marverEvent c win) s
  trks.foldl (fun s r => s.modTracker r.1 fun x =>
    let w := win.get (0, 0) r.1
    { x with window := w.1 + BitVec.ofNat 32 w.2, wStarted := true }) s

/-- TRACKER_LOCK_TIMER (R114). -/
def execTrackerLockTimer (dt : Nat) (trk : Fin 8) (s : State) : Host.Outcome State Fault Refusal :=
  goOn dt (State.trackerLock trk.val) s

/-- COAST_LIMIT_EXPIRY (R114). -/
def execCoastLimitExpiry (dt : Nat) (trk : Fin 8) (s : State) : Host.Outcome State Fault Refusal :=
  goOn dt (State.coastExpiry trk.val) s

end Sys2Proof.Machine
end

