-- ==== Sys2Proof/Machine/Converter.lean ====
section
/-!
DEFINITION. The converter control engine over the state: block latch and deblock (R287 to R290), set-points and ramps (R284 to
R286), compensation tables (R281 to R283), and one fast cycle of a converter (R270 to R280, R291).
-/
namespace Sys2Proof.Machine

/-- A converter, and changing it. -/
def State.cv (s : State) (c : Nat) : Conv := s.conv.convs.get { } c
@[inherit_doc State.cv] def State.modCv (c : Nat) (f : Conv → Conv) (s : State) : State :=
  { s with conv := { s.conv with convs := s.conv.convs.put c (f (s.cv c)) } }
/-- The CONVERTER record of an enabled converter. -/
def State.cvRec (s : State) (c : Nat) : Option Bytes := convOn s.cfg c
/-- The latch is set (R288). -/
def Conv.latched (x : Conv) : Bool := x.st.cause != 0
/-- A lane. -/
def State.lane (s : State) (n : Nat) : Lane := s.valve.lanes.get { } n
@[inherit_doc State.lane] def State.modLane (n : Nat) (f : Lane → Lane) (s : State) : State :=
  { s with valve := { s.valve with lanes := s.valve.lanes.put n (f (s.lane n)) } }
/-- A hub position counts as joined (R314). -/
def Lane.joined (x : Lane) (p : Nat) : Bool := (x.hubs.get { } p).uid.isSome

/-- The value of logic flag `f` in the tick input image or at an instant: a flag below 192 as written by its task; a Marver flag
while a firing to it lies in the tick before the instant's tick (R353). -/
def State.flagAt (s : State) (k : Nat × Nat) (f : Nat) : Bool :=
  if f < 192 then bitOf s.log.flags f
  else
    let t0 := tickStart s.rate (subTicks s.rate k 1)
    let t1 := tickStart s.rate k
    s.log.marver.any fun m => m.1 == f && decide (t0 ≤ m.2 ∧ m.2 < t1)

/-- A single input as read (R358): its filtered state, inverted where its record says so; 0 where it is not enabled. -/
def State.siValue (s : State) (i : Nat) : Bool :=
  match s.rec? 0x909 i with
  | some b => b.u8 0 == 1 && ((s.fio.balls.get { } (64 + i)).state != (b.u8 1 == 1))
  | none => false

/-! ### Sub-modules (R268, R278) -/

/-- The report keys of an arm's sub-modules, by arm index. -/
def armKeys (rs : List Rec) (c a : Nat) : List Nat :=
  (armHubs rs c a).flatMap fun h => (List.range h.nSm).map fun i => h.lane * 4096 + h.pos * 128 + i
/-- The lane of a report key. -/
def keyLane (k : Nat) : Nat := k / 4096

/-- The capacitor voltage of a sub-module as last reported. -/
def State.uc (s : State) (key : Nat) : Fp :=
  Fp.mul (fpOf (s.conv.reports.get { } key).vcode) ((s.rec? 0x801 (keyLane key)).elim (fpOf 5 100) (·.fp 0xC))

/-- A sub-module is available in fast cycle `n` (R278). -/
def State.available (s : State) (b : Bytes) (n : Nat) (key : Nat) : Bool :=
  match s.conv.reports.find? key with
  | some r =>
    decide (n < cycleNum r.cycle + b.u8 6) && !bitOf r.smstat.toNat 2 && !bitOf r.smstat.toNat 3 &&
    Fp.le (b.fp 0x3C) (s.uc key) && Fp.le (s.uc key) (b.fp 0x40)
  | none => false

/-- Arm indices of the available sub-modules of an arm, in rising order of voltage code and index (R279). -/
def State.sorted (s : State) (b : Bytes) (c a n : Nat) : List Nat :=
  let ks := armKeys s.cfg c a
  let code (i : Nat) : Nat := (s.conv.reports.get { } (ks.getD i 0)).vcode
  sortBy (fun i j => decide (code i < code j) || (code i == code j && decide (i ≤ j)))
    ((List.range ks.length).filter fun i => s.available b n (ks.getD i 0))

/-- Available sub-modules of an arm. -/
def State.navOf (s : State) (b : Bytes) (c n a : Nat) : Nat :=
  ((armKeys s.cfg c a).filter (s.available b n)).length

/-! ### Block latch (R287 to R290) -/

/-- Finishes a waiting CONV_SETPOINT with its inline data (R286). -/
def setpointData (t : Fine) (superseded : Bool) (start cycles : Nat) : Bytes :=
  packLe [(8, t / nsF), (4, (cycleOf t).2), (2, b2n superseded), (2, 0), (4, start), (4, cycles)]

/-- A pending DEBLOCK fails with the NO_RESOURCE of R289. -/
def State.abandon (c detail : Nat) (data : Bytes) (s : State) : State :=
  match (s.cv c).deblock with
  | some d => (s.modCv c fun x => { x with deblock := none, released := false }).finishOp d.op .noResource detail data
  | none => s

/-- Data of DETAIL 0x0702. -/
def causeData (cause : Nat) : Bytes := leBytes 4 cause ++ zeros 36

/-- A trace trigger has come (R294). -/
def State.traceTrig (kind arg : Nat) (s : State) : State :=
  let t := s.conv.trace
  if t.state == .armed && t.args.any (fun a => a.trig.toNat == kind && (kind == 3 || a.trigArg.toNat == arg)) then
    { s with conv := { s.conv with trace := { t with fired := true } } }
  else s

/-- Causes arise at a converter (R287, R288, R290): the latch takes them, EV_BLOCK is raised but for INIT alone, and a pending
DEBLOCK is abandoned. The first BLOCK slot is that of the next basic cycle. -/
def State.latch_ (c : Nat) (bits : BitVec 12) (s : State) : State :=
  let x := s.cv c
  if (s.cvRec c).isNone || bits = 0 then s
  else
    let s := s.abandon c 0x0702 (causeData (x.st.cause ||| bits).toNat)
    let fresh := bits &&& ~~~x.st.cause
    if fresh = 0 then s
    else
      let first := x.slotSince.getD (cycleNum s.cycle + 1)
      let s := if x.latched then s else s.traceTrig 3 0
      let s := s.modCv c fun x => { x with st := { x.st with cause := x.st.cause ||| bits }, slotSince := some first, track := true }
      if fresh &&& 0x7FF = 0 then s
      else
        (s.modCv c fun x => { x with blockedAlarm := true }).post
          (mkEv 0x16 c s.now [(4, (x.st.cause ||| bits).toNat), (4, first % 100000)])

/-- Whether a BLOCK_SOURCE is true (R287). An instance that has published nothing asks for no BLOCK (log entry 63). -/
def State.sourceOn (s : State) (b : Bytes) : Bool :=
  let i := b.u16 2
  let inv := bitOf (b.u8 5) 0
  match b.u8 0 with
  | 0 => (s.eng.results.find? i).any fun r => r.outbits.getLsbD (b.u8 4) != inv
  | 1 => s.flagAt s.tick i != inv
  | 2 => (s.fio.duals.get { } i).value != inv
  | _ => s.siValue i != inv

/-- Causes 1 to 3 present at a converter. -/
def State.sourceCauses (s : State) (c : Nat) : BitVec 12 :=
  ((s.recs 0x706).filter fun r => bitOf (r.2.u8 1) c && s.sourceOn r.2).foldl
    (fun m r => m ||| (if r.2.u8 0 = 0 then 2 else if r.2.u8 0 = 1 then 4 else 8)) 0

/-- Converter modes in which the latch holds MODE (R287, R291). -/
def State.modeBlocks (s : State) : Bool :=
  (s.gaf.mode == .commission || s.gaf.mode == .test || s.gaf.mode == .safeHold || s.pwr.stage == 5)

/-- Causes 1 to 10 that are present (R287, R289), from the measurements and reports of the present fast cycle. -/
def State.present (s : State) (c : Nat) : BitVec 12 :=
  match s.cvRec c with
  | none => 0
  | some b =>
    let x := s.cv c
    let n := cycleNum s.cycle
    let oc := (List.range 6).any fun i => Fp.lt (b.fp 0x30) (Fp.abs (x.meas.raw.getD i 0))
    let few := (List.range 6).any fun a => decide (s.navOf b c n a < b.u16 0x1E)
    let bit (p : Bool) (i : Nat) : BitVec 12 := if p then BitVec.ofNat 12 (2 ^ i) else 0
    s.sourceCauses c ||| bit s.modeBlocks 4 ||| bit s.conv.bad 5 ||| bit oc 6 ||| bit few 7 ||| bit (2 ≤ x.measBad) 8 |||
      bit ((s.tracker (b.u8 3)).state == .unlocked) 9 ||| bit (Fp.lt (b.fp 0x34) (x.meas.raw.getD 9 0)) 10

/-- Every converter takes the sources that are true now (R25, R287). -/
def State.blockSources (s : State) : State := [0, 1].foldl (fun s c => s.latch_ c (s.sourceCauses c)) s

/-- The first condition of R289 that fails. -/
def State.deblockBad (s : State) (c : Nat) (b : Bytes) : Option (Nat × Bytes) :=
  let x := s.cv c
  let p := s.present c
  if p != 0 then some (0x0702, causeData (x.st.cause ||| p).toNat)
  else if (s.tracker (b.u8 3)).state != .locked then some (0x0703, [])
  else if (List.range 6).any fun a => decide (s.navOf b c (cycleNum s.cycle) a < b.u16 0x1E) then some (0x0704, [])
  else if Fp.lt (x.meas.raw.getD 9 0) (b.fp 0x38) then some (0x0705, [])
  else if (List.range 6).any fun a => (armHubs s.cfg c a).any fun h => !(s.lane h.lane).joined h.pos then some (0x0706, [])
  else none

/-- The boundary of an accepted DEBLOCK has come (R289): the latch clears. -/
def State.deblockEffect (c : Nat) (s : State) : State :=
  let x := s.cv c
  match x.deblock with
  | some d =>
    if x.released && d.event.isNone && decide (d.at_ ≤ s.now) then
      let s := s.modCv c fun x =>
        { x with st := { x.st with cause := 0 }, deblock := none, released := false, slotSince := none, openAt := d.at_
                 blockedAlarm := false }
      let s := s.postIf x.blockedAlarm (mkEv 0x16 c d.at_ [(4, 0), (4, (cycleOf d.at_).2)] true)
      s.finishOp d.op .ok 0 (setpointData d.at_ false 0 0)
    else s
  | none => s

/-- Before fast cycle `n` runs: a DEBLOCK whose boundary starts the next cycle is checked once more and releases the loops; one
whose boundary has passed without that goes to the next boundary (R289). -/
def State.deblockCheck (c : Nat) (b : Bytes) (t : Fine) (s : State) : State :=
  match (s.cv c).deblock with
  | some d =>
    if d.event.isSome || (s.cv c).released then s
    else if d.at_ ≤ t then s.modCv c fun x => { x with deblock := some { d with at_ := nextMatrix t } }
    else if d.at_ ≤ t + 10000 * nsF then
      match s.deblockBad c b with
      | some (detail, data) => s.abandon c detail data
      | none => s.modCv c fun x => { x with released := true }
    else s
  | none => s

/-! ### Set-points (R284 to R286) -/

/-- The unit of a quantity for one per unit (R273, R284). -/
def qtyBase (p : ConvPar) (q : Nat) : Fp := if q < 2 then p.sB else if q = 2 then p.vB else p.b.fp 0xC

/-- The measured mean of a quantity over the last outer cycle, in its unit. -/
def Conv.mean (x : Conv) (p : ConvPar) (q : Nat) : Fp := Fp.mul (x.means.getD q 0) (qtyBase p q)

/-- Outer cycles that a ramp takes (R284). -/
def rampCycles (target r0 slope : Fp) : Nat :=
  let step := Fp.mul slope tOuter
  if Fp.mag step = 0 then 0xFFFFFFFF else min 0xFFFFFFFF (ceilDiv (Fp.mag (Fp.sub target r0)) (Fp.mag step))

/-- Starts the ramp of a quantity from the measured mean. -/
def State.startRamp (c q : Nat) (r0 target slope : Fp) (s : State) : State :=
  s.modCv c fun x =>
    { x with st := { x.st with ramps := x.st.ramps.put q { active := true, ref := r0, target, slope } }, fresh := q :: x.fresh }

/-- Due set-points of a quantity (R284 to R286): the latest parsed of those due takes effect, and every one before it is
superseded. While the converter is blocked it is held. `t` is the start of the outer cycle. -/
def State.setpointDue (c q : Nat) (t : Fine) (s : State) : State :=
  match s.cvRec c with
  | none => s
  | some b =>
    let x := s.cv c
    let p := convPar b
    let mine := x.pend.filter fun e => e.qty == q
    match (mine.filter fun e => e.event.isNone && decide (e.at_ ≤ t)).getLast? with
    | none =>
      let r := x.st.ramps.get { } q
      if r.held && !x.latched && decide (x.openAt ≤ t) then s.startRamp c q (x.mean p q) r.target r.slope else s
    | some w =>
      let old := mine.takeWhile fun e => e.op != w.op
      let s := s.modCv c fun x => { x with pend := x.pend.filter fun e => !old.contains e }
      let s := old.foldl (fun s e => s.finishOp e.op .ok 0 (setpointData t true 0 0)) s
      if x.latched || decide (t < x.openAt) then
        s.modCv c fun x =>
          { x with st := { x.st with ramps := x.st.ramps.modify { } q fun r => { r with held := true, target := w.target, slope := w.slope } } }
      else
        let r0 := x.mean p q
        let s := s.startRamp c q r0 w.target w.slope
        let s := s.modCv c fun x => { x with pend := x.pend.filter (· != w) }
        s.finishOp w.op .ok 0 (setpointData t false r0.toNat (rampCycles w.target r0 w.slope))

/-- The references of an outer cycle (R284, R285). -/
def State.stepRamps (c : Nat) (b : Bytes) (t : Fine) (s : State) : State :=
  let p := convPar b
  let s := [0, 1, 2, 3].foldl (fun s q => s.setpointDue c q t) s
  let blocked := (s.cv c).latched
  let s := s.modCv c fun x =>
    { x with fresh := [], track := blocked && x.track
             st := { x.st with ramps := [0, 1, 2, 3].foldl (fun (rs : Table Ramp) q =>
               rs.modify { } q fun r =>
                 if x.fresh.contains q then r
                 else if x.track then { r with active := false, ref := x.mean p q }
                 else if !r.active then r
                 else
                   let step := Fp.mul r.slope tOuter
                   let d := Fp.sub r.target r.ref
                   if Fp.le (Fp.abs d) step then { r with ref := r.target, active := false }
                   else { r with ref := if Fp.sign d then Fp.sub r.ref step else Fp.add r.ref step }) x.st.ramps } }
  s

/-- CONV_SETPOINT (R286) as the Gaffer accepts it; mode refusals come before. `seq` is its operation. -/
def State.convSetpoint (seq : Nat) (kind : Byte) (a : SetPointArgs) (s : State) : State × Reply :=
  let c := a.conv.toNat
  match if c ≤ 1 then s.cvRec c else none with
  | none => (s, badAt 0)
  | some b =>
    let q := a.qty.toNat
    let limit := limitOf s.cfg c q
    let bad := firstBad
      [(1, decide (kind.toNat ≤ 2)), (2, if kind = 0 then decide (q ≤ 3) else q == 0), (3, kind == 2 || decide (a.apply.toNat ≤ 2)),
       (4, if kind = 0 then Fp.isFinite a.value && Fp.le (Fp.abs a.value) limit else a.value == 0),
       (8, a.apply != 2 || kind == 2 || decide (a.event.toNat ≤ 31)), (9, a.rsv == 0), (0xC, fpNonNeg a.slope)]
    match bad with
    | some o => (s, badAt o)
    | none =>
      let at_ (len : Nat) : Fine :=
        let first := (s.now / (len * nsF) + 1) * (len * nsF)
        if a.apply = 1 then max first (ceilTo (len * nsF) (a.tApply.toNat * nsF)) else first
      let ev := if a.apply = 2 then some a.event.toNat else none
      if kind = 2 then ((s.latch_ c 1), .wait (.setpoint c 8))
      else if kind = 1 then
        match s.deblockBad c b with
        | some (d, data) => (s, .done .noResource d data false [])
        | none =>
          let s := match (s.cv c).deblock with
            | some d => s.finishOp d.op .ok 0 (setpointData s.now true 0 0)
            | none => s
          (s.modCv c fun x => { x with deblock := some { at_ := at_ 160000, event := ev, op := seq }, released := false },
            .wait (.deblock c))
      else
        let slope := if Fp.isZero a.slope then slopeOf s.cfg c q else a.slope
        (s.modCv c fun x => { x with pend := x.pend ++ [{ qty := q, target := a.value, slope, at_ := at_ 50000, event := ev, op := seq }] },
          .wait (.setpoint c q))

/-- A Marver firing with TARGET CONV_EVENT (R286): what waits for the event has its instant. -/
def State.convEvent (e : Nat) (stamp : Fine) (s : State) : State :=
  [0, 1].foldl (fun s c => s.modCv c fun x =>
    { x with pend := x.pend.map fun p => if p.event == some e then { p with event := none, at_ := ceilTo (50000 * nsF) stamp } else p
             deblock := x.deblock.map fun p =>
               if p.event == some e then { p with event := none, at_ := ceilTo (160000 * nsF) stamp } else p }) s

/-- BLOCK commands complete when their slot has come (R286, R288). -/
def State.blockDone (c : Nat) (t : Fine) (s : State) : State :=
  if (s.cv c).slotSince.any fun n => n ≤ cycleNum (cycleOf t) then
    s.finishWaiting (fun o => o.wait == .setpoint c 8 && decide (o.at_ < t)) fun _ => (.ok, 0, setpointData t false 0 0)
  else s

/-! ### Measurements (R272) -/

/-- The latched measurements of a converter at fast cycle start `t`: value, age in ns and whether it is bad. -/
def State.latchMeas (c : Nat) (t : Fine) (s : State) : List (Fp × Int × Bool) :=
  match s.rec? 0x703 c with
  | none => List.replicate 11 (0, 0, true)
  | some m => (List.range 11).map fun i =>
      let ch := m.u8 i
      if ch = 0xFF then (0, 0, false)
      else match (s.chan ch).recent.head? with
        | some o =>
          let missing := o.t + 15000 * nsF < t
          (s.acqValue ch o.x, ((t / nsF : Nat) : Int) - (o.t / nsF : Nat), missing || qHas (qInvalid ||| qMissing) o.q)
        | none => (0, 0, true)

/-- Idc has no channel (R296). -/
def State.noIdc (s : State) (c : Nat) : Bool := s.fld 0x703 c 0xFF (·.u8 10) == 0xFF

/-! ### Compensation tables -/

/-- A table contributes: it is not in INDEX_MODE 1, or its first firing has come (R283). -/
def State.tableOn (s : State) (hdr : Bytes) (t : Nat) : Bool :=
  hdr.u8 3 == 0 || (s.cv (hdr.u8 0)).st.tableStarted.get false t

/-- The tables of a converter with a destination. -/
def State.tablesOf (s : State) (c dest : Nat) : List (Nat × Bytes) :=
  (s.recs 0x707).filter fun r => r.2.u8 0 == c && r.2.u8 1 == dest

/-- The contribution of one table to a phase, faded (R281, R282). -/
def State.tableTerm (s : State) (r : Nat × Bytes) (vB : Fp) (thC : U32) (x : Nat) : Fp :=
  if s.tableOn r.2 r.1 then
    Fp.mul (s.conv.tables.get { } r.1).k (tableAt r.2 ((s.rec? 0x708 r.1).getD (zeros 4100)) vB thC x)
  else 0

/-- Fades every table of a converter in an outer cycle (R282). -/
def State.fadeTables (c : Nat) (s : State) : State :=
  ((s.recs 0x707).filter fun r => r.2.u8 0 == c).foldl (fun s r =>
    let q := (s.cv c).means.getD (3 + r.2.u8 8) 0
    let run := s.conv.tables.get { } r.1
    let (k, bound) := fade r.2 q
    let s := { s with conv := { s.conv with tables := s.conv.tables.put r.1 { k, faded := bound } } }
    let ev (bnd : Nat) (clr : Bool) : Ev :=
      mkEv 0x0F r.1 s.now [(1, r.2.u8 8), (1, bnd), (2, 0), (4, k.toNat), (4, q.toNat)] clr
    match run.faded, bound with
    | none, some bnd => s.post (ev bnd false)
    | some bnd, none => s.post (ev bnd true)
    | _, _ => s) s

/-- A Marver firing with TARGET COMP_INDEX (R283). -/
def State.compIndex (t : Nat) (s : State) : State :=
  match s.rec? 0x707 t with
  | some h => s.modCv (h.u8 0) fun x => { x with st := { x.st with tableStarted := x.st.tableStarted.put t true } }
  | none => s

/-! ### One fast cycle of a converter (R270) -/

/-- The arms of a converter in fast cycle `n`: modulation, balancing and what traces read (R278 to R280). -/
def State.armsCycle (c : Nat) (b : Bytes) (n : Nat) (run : Bool) (s : State) : State :=
  let x := s.cv c
  let p := convPar b
  let one (a : Nat) : List Nat × Nat × Nat × Nat × Nat × Fp × Fp × Nat :=
    let ks := armKeys s.cfg c a
    let av := s.sorted b c a n
    let u (i : Nat) : Fp := s.uc (ks.getD i 0)
    let usum := Config.treeSum (av.map u)
    let nav := av.length
    let prev := (x.st.inserted.get [] a)
    let level := if run then levelOf (x.meas.uref.getD a 0) p.vB usum nav else 0
    let i := x.meas.raw.getD a 0
    let (ins, swaps) := if run then
        balance level av prev (!(Fp.lt i 0)) u (Fp.div (Fp.mul (b.fp 0x2C) usum) (fpOf nav)) (b.u8 7)
      else ([], 0)
    let changed := (ins.filter fun k => !prev.contains k).length + (prev.filter fun k => !ins.contains k).length
    let half := Fp.div (b.fp 0x18) (fpOf 2)
    let w := Fp.div (Config.treeSum (av.map fun k => Fp.mul half (Fp.mul (u k) (u k)))) p.wNom
    let ov := (ks.filter fun k => (s.conv.reports.find? k).isSome && Fp.lt (b.fp 0x40) (s.uc k)).length
    (ins, level, nav, swaps, changed, usum, w, ov)
  let r := (List.range 6).map one
  s.modCv c fun x =>
    { x with st := { x.st with inserted := (List.range 6).map fun a => (a, (r.getD a ([], 0, 0, 0, 0, 0, 0, 0)).1) }
             ovBypass := r.map fun y => y.2.2.2.2.2.2.2
             meas := { x.meas with nArm := r.map fun y => y.2.1, nav := r.map fun y => y.2.2.1, swaps := r.map fun y => y.2.2.2.1
                                   switchings := r.map fun y => y.2.2.2.2.1, usum := r.map fun y => y.2.2.2.2.2.1
                                   warm := r.map fun y => y.2.2.2.2.2.2.1 } }

/-- Sums and means over an outer cycle (R275, R282, R284). -/
def Conv.accumulate (p : ConvPar) (last : Bool) (x : Conv) : Conv :=
  let env := [Fp.div (Fp.mul (vecMag (x.meas.idq.getD 0 0) (x.meas.idq.getD 1 0)) p.iB) (Fp.sqrt (fpOf 2)),
    Fp.abs (Fp.mul (x.meas.pq.getD 0 0) p.sB), Fp.abs (x.meas.raw.getD 10 0)]
  let sums := List.zipWith Fp.add x.sums (x.meas.pq ++ env)
  let count := x.count + 1
  if last then { x with means := sums.map fun v => Fp.div v (fpOf count), sums := List.replicate 7 0, count := 0 }
  else { x with sums, count }

/-- The state that the active module mirrored, as a standby takes it (R291, R426). -/
def takeMirrored (m : ConvState) : ConvState := { m with cause := m.cause &&& 0x7CF }

/-- Fast cycle `n` of a converter, starting at `t` (R270 to R291). -/
def State.convCycle (n : Nat × Nat) (s : State) (c : Nat) : State :=
  match s.cvRec c with
  | none => s
  | some b =>
    let t := cycleStart n
    let p := convPar b
    let trk := s.tracker (b.u8 3)
    -- the standby takes the mirrored state
    let s := match s.gaf.mode == .standby, s.pair.converters.find? c with
      | true, some m =>
        let s := { s with pair := { s.pair with converters := s.pair.converters.erase c } }
        s.modCv c fun x => { x with st := takeMirrored m }
      | _, _ => s
    let ms := s.latchMeas c t
    let bad := ms.any fun m => m.2.2
    let vbad := ((ms.take 6) ++ (ms.drop 9)).any fun m => m.2.2
    let s := s.modCv c fun x =>
      { x with measBad := if vbad then x.measBad + 1 else 0
               meas := { x.meas with raw := ms.map (·.1), age := ms.map (·.2.1), bad := ms.map (·.2.2), q := qIf bad qMissing } }
    let s := s.deblockEffect c
    let s := s.latch_ c (s.present c)
    let s := s.deblockCheck c b t
    let run := !(s.cv c).latched || (s.cv c).released
    let thM := trk.angle + BitVec.ofInt 32 (angleIn trk.freq (1000 * nsF))
    let thC := trk.angle + BitVec.ofInt 32 (angleIn trk.freq (15000 * nsF))
    let s := if n.2 % 5 = 0 then
        let s := s.stepRamps c b t
        let s := s.fadeTables c
        let x := s.cv c
        let refs := [0, 1, 2, 3].map fun q => Fp.div (x.st.ramps.get { } q).ref (qtyBase p q)
        let (st, wsum) := outerLoops (gainOf s.cfg c) p refs x.means x.meas.warm run x.st
        s.modCv c fun x => { x with st, meas := { x.meas with wsum, outer := [st.idRef, st.iqRef] } }
      else s
    let tab (dest x : Nat) : Fp := (s.tablesOf c dest).foldl (fun a r => Fp.add a (s.tableTerm r p.vB thC x)) 0
    let e : LawIn := { raw := ms.map (·.1), noIdc := s.noIdc c, freq := trk.freq, thM, thC, tab, run }
    let (st, m) := fastLoops (gainOf s.cfg c) p e (s.cv c).st (s.cv c).meas
    let tabs := [0, 1, 2, 3].map fun i => match s.rec? 0x707 i with
      | some h => if h.u8 0 = c then s.tableTerm (i, h) p.vB thC 0 else 0
      | none => 0
    let s := s.modCv c fun x => { x with st, meas := { m with thc := thC, tab := tabs } }
    let s := s.armsCycle c b (cycleNum n) run
    s.modCv c (Conv.accumulate p (n.2 % 5 == 4))

/-- The converter sends commands in this cycle: the latch is clear, or the loops run released before a deblock (R288, R289). -/
def Conv.sends (x : Conv) : Bool := !x.latched || x.released

/-- A change of a CONVERTER or CONV_ARM record sets INIT (R287). -/
def State.convInit (c : Nat) (s : State) : State :=
  if (s.cvRec c).isSome then s.latch_ c 0x800 else s

end Sys2Proof.Machine
end

