-- ==== Sys2Proof/Machine/LogicTables.lean ====
section
/-!
DEFINITION. The records of LOGIC_LOAD, the instruction table of the logic engine and the checks of a program image (R332, R335,
R341 to R347, R351, R352, R354, R361, R362).
-/
namespace Sys2Proof.Machine

/-- Whether a SUB of a LOGIC_INPUT entry fits its kind and space (R352); `word` tells a word address. -/
def inputSubOk (kind sub : Nat) (word : Bool) : Bool :=
  match kind with
  | 0 => decide (sub ≤ 1) && !word
  | 1 => sub == 0 && !word
  | 2 => decide (sub ≤ 1)
  | 3 => if word then within 64 127 sub else decide (sub ≤ 31) || sub == 128
  | 4 => decide (sub ≤ 3) && word
  | 5 => decide (sub ≤ 1) && !word
  | _ => decide (sub ≤ 3) && !word

/-- The largest INDEX of a source kind. -/
def inputIndexMax (l : Bool) (kind : Nat) : Nat :=
  match kind with
  | 0 | 5 => 31
  | 1 => 23
  | 2 => 2047
  | 3 => numInsts l - 1
  | 4 => 7
  | _ => 0

/-- The records of LOGIC_LOAD (R361). -/
def logicSpec (l : Bool) (rtype obj : Nat) (b : Bytes) : Option RecSpec :=
  let word := bitOf obj 8
  let code : RecSpec :=
    { objOk := decide (obj < 8 * 65536), fixed := 4, counts := [(0, within 1 1000 (b.u16 0))], len := 4 + 4 * b.u16 0
      checks := [(2, zeroAt b 2 2)] }
  match rtype with
  | 0x901 => some (fixedRec 0x10
      [(0, decide (b.u8 0 ≤ 1)), (1, decide (b.u8 1 ≤ 3)), (2, onlyBits 7 (b.u8 2)), (3, zeroAt b 3 1), (4, decide (0 < b.u16 4)),
       (6, decide (b.u16 6 < b.u16 4)), (8, within 2 16384 (b.u16 8)), (0xA, decide (b.u16 0xA ≤ 1280))] (decide (obj < 8)))
  | 0x902 => some code
  | 0x903 => some code
  | 0x904 => some (fixedRec 4
      [(0, decide (b.u8 0 ≤ 6)), (1, inputSubOk (b.u8 0) (b.u8 1) word), (2, decide (b.u16 2 ≤ inputIndexMax l (b.u8 0)))]
      (decide (obj < 4096)))
  | 0x905 =>
    let enc := b.u8 1
    some (fixedRec 12
      [(0, decide (b.u8 0 ≤ 2) && (b.u8 0 == 1 || !word)),
       (1, if b.u8 0 = 1 then decide (enc ≤ 3) && (word == (enc == 1 || enc == 2)) else enc == 0),
       (2, decide (b.u16 2 < (if b.u8 0 = 0 then 32 else if b.u8 0 = 1 then 8192 else 192))),
       (4, word || decide (b.u32 4 ≤ 1)),
       (8, if enc = 1 then fpNonNeg (b.fp 8) else if enc = 2 then decide (b.u32 8 < 2 ^ 31) else b.u32 8 == 0)] (decide (obj < 4096)))
  | 0x906 =>
    let n := b.u8 0x10
    some (fixedRec 0x54
      [(0, bitOf (b.u8 0) 0), (6, decide (b.u16 6 ≤ 0x3FFF)), (8, decide (b.u16 8 < 2 ^ numPorts l)), (0xA, within 1 128 (b.u8 0xA)),
       (0xB, onlyBits 1 (b.u8 0xB)), (0xC, decide (1 ≤ b.u32 0xC)), (0x10, within 1 64 n), (0x11, zeroAt b 0x11 3),
       (0x14, ((Bytes.slice b 0x14 64).drop n).all (· == 0))] (decide (obj < 128)))
  | 0x907 => some (fixedRec 12
      [(0, decide (b.u16 0 < 128)), (2, decide (b.u8 2 < 128)), (3, decide (b.u8 3 ≤ 4)), (4, decide (b.u8 4 < 128) || b.u8 4 == 0xFF),
       (5, zeroAt b 5 3)] (decide (obj < 2048)))
  | 0x908 => some (fixedRec 12
      [(0, decide (b.u8 0 ≤ 1)), (1, decide (b.u8 1 ≤ 1)), (2, decide (b.u8 2 ≤ 1)), (3, zeroAt b 3 1),
       (4, within 1000 500000 (b.u32 4)), (8, decide (b.u16 8 ≤ 20000)), (0xA, zeroAt b 0xA 2)] (decide (obj < 32)))
  | 0x909 => some (fixedRec 4
      [(0, decide (b.u8 0 ≤ 1)), (1, decide (b.u8 1 ≤ 1)), (2, decide (b.u16 2 ≤ 20000))] (decide (obj < 24)))
  | 0x90A => some (fixedRec 12
      [(0, decide (b.u8 0 ≤ 2)), (1, decide (b.u8 1 ≤ 1)), (2, onlyBits 0xF (b.u8 2)), (3, decide (b.u8 3 ≤ 31)),
       (4, decide (b.u16 4 < numInsts l)), (6, within 10 10000 (b.u16 6)), (8, within 100 2000 (b.u16 8)),
       (0xA, within 1 60 (b.u16 0xA))] (decide (obj < 32)))
  | _ => none

/-! ### Programs -/

/-- What an operand field of an instruction names (R344). -/
inductive OpKind where
  | none
  | bit
  | word
  | imm
  deriving DecidableEq, Repr

/-- An instruction of R344: what D and S name, whether D is written, the cycles, whether a second word follows and whether it
owns state. -/
structure OpInfo where
  d : OpKind
  s : OpKind
  writes : Bool
  cycles : Nat
  two : Bool := false
  owns : Bool := false
  deriving Repr

/-- The instruction table (R344). -/
def opInfo (op : Nat) : Option OpInfo :=
  match op with
  | 0x00 => some { d := .none, s := .none, writes := false, cycles := 1 }
  | 0x01 | 0x02 | 0x03 | 0x04 | 0x05 => some { d := .bit, s := .bit, writes := true, cycles := 1 }
  | 0x06 | 0x07 | 0x0C => some { d := .bit, s := .none, writes := true, cycles := 1 }
  | 0x08 | 0x09 | 0x0A => some { d := .none, s := .bit, writes := false, cycles := 1 }
  | 0x0B => some { d := .none, s := .none, writes := false, cycles := 1 }
  | 0x0D | 0x0E => some { d := .bit, s := .bit, writes := true, cycles := 2, owns := true }
  | 0x10 | 0x12 | 0x13 | 0x16 | 0x17 | 0x18 | 0x24 => some { d := .word, s := .word, writes := true, cycles := 1 }
  | 0x11 => some { d := .word, s := .imm, writes := true, cycles := 1 }
  | 0x14 | 0x20 | 0x21 | 0x22 | 0x25 | 0x26 => some { d := .word, s := .word, writes := true, cycles := 2 }
  | 0x15 | 0x23 => some { d := .word, s := .word, writes := true, cycles := 8 }
  | 0x28 | 0x29 | 0x2A | 0x2B | 0x2C | 0x2D => some { d := .word, s := .word, writes := false, cycles := 1 }
  | 0x30 | 0x31 | 0x32 => some { d := .bit, s := .bit, writes := true, cycles := 4, two := true, owns := true }
  | 0x33 | 0x34 => some { d := .bit, s := .bit, writes := true, cycles := 3, two := true, owns := true }
  | 0x3E => some { d := .none, s := .imm, writes := false, cycles := 1 }
  | 0x3F => some { d := .none, s := .none, writes := false, cycles := 1 }
  | _ => none

/-- Fields of an instruction word (R342). -/
def lwOp (w : U32) : Nat := w.toNat / 2 ^ 26
@[inherit_doc lwOp] def lwP (w : U32) : Nat := w.toNat / 2 ^ 24 % 4
@[inherit_doc lwOp] def lwD (w : U32) : Nat := w.toNat / 2 ^ 12 % 4096
@[inherit_doc lwOp] def lwS (w : U32) : Nat := w.toNat % 4096

/-- The word at a position of a task's code (0x902) or constants (0x903): that of the last record which covers it. -/
def progWord (rs : List Rec) (rtype task i : Nat) : Option U32 :=
  (rs.foldl (fun (m : Option (Nat × U32)) r =>
    let f := r.obj % 65536
    if r.rtype == rtype && r.obj / 65536 == task && decide (f ≤ i ∧ i < f + r.body.u16 0) && m.all (fun x => decide (x.1 ≤ f))
    then some (f, r.body.fp (4 + 4 * (i - f))) else m) none).map (·.2)

/-- The code words of a task, a word not supplied as 0. -/
def codeWords (rs : List Rec) (task n : Nat) : List U32 := (List.range n).map fun i => (progWord rs 0x902 task i).getD 0

/-- An instruction with its position and second word. -/
structure LIns where
  pos : Nat
  w : U32
  w2 : U32 := 0
  deriving DecidableEq, Repr

/-- Splits code into instructions; `pos` is the position of the first word. -/
def splitCode : Nat → List U32 → List LIns
  | _, [] => []
  | pos, [w] => [{ pos, w }]
  | pos, w :: w2 :: r =>
    if (opInfo (lwOp w)).any (·.two) then { pos, w, w2 } :: splitCode (pos + 2) r else { pos, w } :: splitCode (pos + 1) (w2 :: r)

/-- A bit address may be read, or written (R341). -/
def bitReadOk (a : Nat) : Bool := decide (a < 0x800)
@[inherit_doc bitReadOk] def bitWriteOk (a : Nat) : Bool := within 0x100 0x1FF a || within 0x300 0x7FF a
/-- A word address may be read with `nConst` constants, or written (R341, R347). -/
def wordReadOk (nConst a : Nat) : Bool := decide (a < 0xB00 + nConst)
@[inherit_doc wordReadOk] def wordWriteOk (a : Nat) : Bool := within 0x100 0xAFF a

/-- One instruction keeps the rules of R347 about its OP, P, fields and operands. -/
def insOk (nConst : Nat) (i : LIns) : Bool :=
  match opInfo (lwOp i.w) with
  | none => false
  | some o =>
    let d := lwD i.w
    let s := lwS i.w
    let okD := match o.d with
      | .none => d == 0
      | .bit => if o.writes then bitWriteOk d && bitReadOk d else bitReadOk d
      | .word => if o.writes then wordWriteOk d else wordReadOk nConst d
      | .imm => true
    let okS := match o.s with
      | .none => s == 0
      | .bit => bitReadOk s
      | .word => wordReadOk nConst s
      | .imm => lwOp i.w != 0x3E || decide (1 ≤ s)
    let x := lwD i.w2
    let y := lwS i.w2
    let ok2 := !o.two || (i.w2.toNat / 2 ^ 24 == 0 && wordReadOk nConst y &&
      (wordWriteOk x || (decide (lwOp i.w ≤ 0x32) && x == 0xFFF)))
    lwP i.w != 3 && okD && okS && ok2

/-- No JMP annuls END or reaches past it: the instructions after it, END not counted, are at least S. -/
def jumpsOk : List LIns → Bool
  | [] => true
  | i :: r => (lwOp i.w != 0x3E || decide (lwS i.w < r.length)) && jumpsOk r

/-- Execution time of a program in ns (R334). -/
def progNs (is : List LIns) : Nat := 2 * (is.foldl (fun n i => n + (opInfo (lwOp i.w)).elim 0 (·.cycles)) 0) + 1500

/-- The instructions of a task. -/
def taskCode (rs : List Rec) (t : Nat) (b : Bytes) : List LIns := splitCode 0 (codeWords rs t (b.u16 8))

/-- The checks of R332 and R347 for one task; the record at fault. -/
def taskErr (rate : Nat) (rs : List Rec) (t : Nat) (b : Bytes) : Option CommitErr :=
  let n := b.u16 8
  let nc := b.u16 0xA
  let scan := b.u16 4
  let len := scan * 1000000000 / rate
  let is := taskCode rs t b
  let words := codeWords rs t n
  let consts := (List.range nc).map fun i => (progWord rs 0x903 t i).getD 0
  let ends := (is.filter fun i => lwOp i.w == 0x3F).length
  if rate % scan ≠ 0 || !within 250000 1000000000 len then some (.field 0x901 t 4)
  else if (List.range n).any fun i => (progWord rs 0x902 t i).isNone then some (.field 0x901 t 8)
  else if (List.range nc).any fun i => (progWord rs 0x903 t i).isNone then some (.field 0x901 t 0xA)
  else if (crc32c ((words ++ consts).flatMap fun w => leBytes 4 w.toNat)).toNat != b.u32 0xC then some (.field 0x901 t 0xC)
  else if ends != 1 || (is.getLast?.any fun i => lwOp i.w != 0x3F) then some (.field 0x902 (t * 65536) 4)
  else if !(is.all (insOk nc)) || !jumpsOk is then some (.field 0x902 (t * 65536) 4)
  else if 256 < (is.filter fun i => (opInfo (lwOp i.w)).any (·.owns)).length then some (.noRes 0x0902)
  else none

/-- Enabled tasks. -/
def tasksOn (rs : List Rec) : List (Nat × Bytes) := (recsOf rs 0x901).filter fun r => r.2.u8 0 == 1

/-- A core is overloaded (R335). -/
def coreFull (rate : Nat) (rs : List Rec) (core : Nat) : Bool :=
  let ts := (tasksOn rs).filter fun r => r.2.u8 1 == core
  let sum := ts.foldl (fun n r => n + progNs (taskCode rs r.1 r.2)) 0
  let least := ts.foldl (fun m r => min m (r.2.u16 4)) 65536
  !ts.isEmpty && decide (least * 1000000000 / rate < sum + 20000)

/-- The LOGIC_OUTPUT entries of a destination, with their tasks. -/
def outputsTo (rs : List Rec) (kind index : Nat) : List (Nat × Bytes) :=
  (recsOf rs 0x905).filter fun r => r.2.u8 0 == kind && r.2.u16 2 == index

/-- A control block is a logic one: it has no GOOSE_MEMBER records (R351). -/
def logicCb (rs : List Rec) (cb : Nat) : Bool := !((recsOf rs 0x5F1).any fun r => r.1 / 128 == cb)

/-- What a commit checks of logic, remote I/O and field I/O. -/
def logicCross (rate : Nat) (rs : List Rec) (single : Nat → Bool) : Option CommitErr :=
  let tasks := (tasksOn rs).filterMap fun r => taskErr rate rs r.1 r.2
  let outs := recsOf rs 0x905
  let twice := outs.find? fun r => 1 < (outputsTo rs (r.2.u8 0) (r.2.u16 2)).length
  let bos := recsOf rs 0x90A
  let src (n : Nat) : Nat := (recIn rs 0x90A n).elim 0 (·.u8 0)
  let named := outs.find? fun r => r.2.u8 0 == 0 && src (r.2.u16 2) != 1
  let unnamed := bos.find? fun r => r.2.u8 0 == 1 && (outputsTo rs 0 r.1).isEmpty
  let lone := bos.find? fun r => r.2.u8 0 == 2 && single (r.2.u16 4)
  let gooseBad := ((recsOf rs 0x5F0).filter fun r => logicCb rs r.1).find? fun r =>
    let ms := (List.range (r.2.u16 0xE)).map fun m => outputsTo rs 1 (r.1 * 128 + m)
    let tks := ms.flatMap fun o => o.map fun x => x.1 / 512
    ms.any (fun o => o.length != 1) || tks.any fun t => t != tks.headD 0
  let stray := outs.find? fun r => r.2.u8 0 == 1 &&
    !((recIn rs 0x5F0 (r.2.u16 2 / 128)).any fun b => decide (r.2.u16 2 % 128 < b.u16 0xE)) || (r.2.u8 0 == 1 && !logicCb rs (r.2.u16 2 / 128))
  let mem := (recsOf rs 0x907).find? fun r =>
    match recIn rs 0x906 (r.2.u16 0) with
    | some b => !(decide (r.2.u8 2 < b.u8 0xA)) || (decide (r.2.u8 3 < 3) && r.2.u8 4 != 0xFF && !(decide (r.2.u8 4 < b.u8 0xA)))
    | none => true
  let safe := (recsOf rs 0x907).find? fun r => r.2.u8 3 == 3 && !bitOf (r.2.u8 8) 0
  let inMem := (recsOf rs 0x904).find? fun r => r.2.u8 0 == 2 &&
    (match recIn rs 0x907 (r.2.u16 2) with
      | some b => bitOf r.1 8 == (r.2.u8 1 == 1 || b.u8 3 == 0)
      | none => true)
  match tasks.head? with
  | some e => some e
  | none =>
    if (List.range 4).any (coreFull rate rs) then some (.noRes 0x0901)
    else match twice with
    | some r => some (.field 0x905 r.1 2)
    | none => match named with
      | some r => some (.field 0x905 r.1 2)
      | none => match unnamed with
        | some r => some (.field 0x90A r.1 0)
        | none => match lone with
          | some r => some (.field 0x90A r.1 4)
          | none => match gooseBad with
            | some r => some (.field 0x5F0 r.1 0xE)
            | none => match stray with
              | some r => some (.field 0x905 r.1 2)
              | none => match mem with
                | some r => some (.field 0x907 r.1 2)
                | none => match safe with
                  | some r => some (.field 0x907 r.1 8)
                  | none => inMem.map fun r => .field 0x904 r.1 2

end Sys2Proof.Machine
end

