-- ==== Sys2Proof/Machine/Valve.lean ====
section
/-!
DEFINITION. The valve fabric controller (R297 to R330): authority, lane states, joining, reports, frames sent in a basic cycle,
VALVE_SLEEP and VALVE_WAKE, and the lane status block.
-/
namespace Sys2Proof.Machine

/-- The VALVE_LANE record of an enabled lane that the order code provides. -/
def State.laneRec (s : State) (n : Nat) : Option Bytes :=
  if n < numLanes s.isL then (s.rec? 0x801 n).filter fun b => b.u8 0 == 1 else none

/-- The EPOCH of frames sent at an instant (R317). -/
def State.epochAt (s : State) (t : Fine) : Nat := if !s.paired then 1 else if s.activeAt t then s.pair.epoch else 0

/-- Lane transmitters are off in reset and in BOOT (R325, R449). -/
def State.lanesOff (s : State) : Bool := s.part.inReset || s.gaf.mode == .boot

/-- T_SLEEP, WAKE_TIMEOUT and KEEPAWAKE_LIMIT of a lane. -/
def tSleep (b : Bytes) : Fine := b.u32 0x10 * 1000000 * nsF
@[inherit_doc tSleep] def wakeTimeout (b : Bytes) : Fine := b.u16 0x14 * 1000000 * nsF
@[inherit_doc tSleep] def keepLimit (b : Bytes) : Fine := b.u16 0x16 * secF
/-- SLEEP_EN, BALL_WAKE and HUB_WAKE. -/
def sleepEn (b : Bytes) : Bool := bitOf (b.u8 0x18) 0
@[inherit_doc sleepEn] def ballWake (b : Bytes) : Bool := bitOf (b.u8 0x18) 1
@[inherit_doc sleepEn] def hubWake (b : Bytes) : Bool := bitOf (b.u8 0x18) 2

/-- Enabled converters with hubs on a lane. -/
def State.laneConvs (s : State) (n : Nat) : List Nat :=
  [0, 1].filter fun c => (s.cvRec c).isSome && (List.range 6).any fun a => (armHubs s.cfg c a).any fun h => h.lane == n

/-- The master keep-alive of a lane (R320). -/
def State.masterKeep (s : State) (n : Nat) (b : Bytes) : Bool :=
  !(s.lane n).released || ((s.laneConvs n).any fun c => !(s.cv c).latched) || s.gaf.mode == .safeHold || !s.feat 4 || !sleepEn b

/-- Start of the matrix cycle that contains an instant. -/
def matrixStart (t : Fine) : Fine := t / (160000 * nsF) * (160000 * nsF)

/-! ### Joining (R309, R314 to R316, R322) -/

/-- An event of a lane's joining. -/
def State.evJoin (n pos kind result chain : Nat) (uid : U32) (delay : Nat) (s : State) : State :=
  s.post (mkEv 0x14 n s.now [(1, pos), (1, kind), (1, result), (1, chain), (4, uid.toNat), (4, delay)])

/-- The timing conditions of R309 for a status window, a command window and a one-way delay in bit times. -/
def delayOk (status command : Nat × Nat) (delay : Nat) : Bool :=
  decide (delay * 16 + 25000 ≤ status.1 * 1056) && decide ((command.1 + command.2) * 1056 + 1056 + delay * 16 + 25000 ≤ 1000000)

/-- HUB_ID of a position (R322). -/
def hubIdOf (rs : List Rec) (lane pos : Nat) : Nat :=
  match hubArm rs lane pos with
  | some (c, a, _) => 0x100 * c + a
  | none => 0xFF00 + lane

/-- The spare that a position owns. -/
def Lane.spareOf (x : Lane) (pos : Nat) : Option Nat := (List.range 2).find? fun i => x.spares.getD i 0xFF == pos

/-- The RESULT of a request (R314), with the spare it gets. -/
def State.joinResult (n : Nat) (b : Bytes) (claim : Bool) (f : HubRequest) (s : State) : Nat × Nat :=
  let x := s.lane n
  let pos := f.src.val
  let h := x.hubs.get { } pos
  let up := upWindows b
  let dn := downWindows (c0Of s.cfg) b
  let m : Int := ((f.m : Int) - f.txLag - 66 * f.resid)
  let fits (k : Nat) : Bool := decide (0 ≤ m) && delayOk (winOf up k) (winOf dn k) (m / 2).toNat
  if h.uid.any (· != f.uid) then (6, 0xFF)
  else if h.uid.isSome then (0, (x.spareOf pos).getD 0xFF)
  else if !claim && laneNsm b pos = 0 then (3, 0xFF)
  else if claim && !bitOf (laneLate b) pos then (5, 0xFF)
  else if !claim && f.nSm != laneNsm b pos then (2, 0xFF)
  else if claim && (decide (laneSpare b < f.nSm) || (hubArm s.cfg n pos).any fun y => y.2.2.nSm != f.nSm) then (2, 0xFF)
  else if claim then
    match (x.spareOf pos).orElse fun _ => (List.range 2).find? fun i => x.spares.getD i 0xFF == 0xFF with
    | none => (4, 0xFF)
    | some i => if fits (8 + i) then (0, i) else (1, 0xFF)
  else if fits pos then (0, 0xFF) else (1, 0xFF)

/-- A JOIN_REQ or CLAIM_REQ (R314, R315): answered in the next master window. -/
def State.joinRequest (n : Nat) (claim : Bool) (f : HubRequest) (s : State) : State :=
  match s.laneRec n with
  | none => s
  | some b =>
    let x := s.lane n
    if !(x.state == .awake || x.state == .announce) then s
    else if !f.crcOk then s.modLane n fun x => { x with crcErr := satAdd 32 x.crcErr 1 }
    else
      let (r, slot) := s.joinResult n b claim f
      let pos := f.src.val
      let delay := (((f.m : Int) - f.txLag - 66 * f.resid) / 2).toNat
      let hubId : U16 := BitVec.ofNat 16 (hubIdOf s.cfg n pos)
      let hubData : U32 := BitVec.ofNat 32 (b.u32 (0x1C + 4 * pos))
      let a : PendAck := { claim, pos, uid := f.uid, result := r, slot, delay, hubId, hubData }
      s.modLane n fun x =>
        { x with acks := x.acks ++ [a]
                 spares := if r = 0 && slot < 2 then x.spares.set slot pos else x.spares
                 hubs := if r = 0 then x.hubs.modify { } pos fun h =>
                     { h with accepted := some f.uid, delay := some delay, nSm := f.nSm, chain := f.chain, hubId, hubData, known := true }
                   else x.hubs }

/-- The second to which a basic cycle number of a frame received now belongs, and the cycle. -/
def State.cycleOfFrame (s : State) (bcycle : Nat) : Nat × Nat :=
  let c := s.cycle
  if c.2 + 1 < bcycle then (c.1 - 1, bcycle) else (c.1, bcycle)

/-- A STATUS frame arrives in its window (R271, R304, R314): the position is joined from the first, its flags and reports are
taken, and a report past its arm's cut-off is counted. -/
def State.valveStatus (n : Nat) (f : HubStatus) (s : State) : State :=
  match s.laneRec n with
  | none => s
  | some _ =>
    let x := s.lane n
    let pos := f.src.val
    let h := x.hubs.get { } pos
    if !(x.state == .awake || x.state == .announce) then s
    else if !f.crcOk || f.ver != 1 then s.modLane n fun x => { x with crcErr := satAdd 32 x.crcErr 1 }
    else if h.uid != some f.uid && h.accepted != some f.uid then s
    else
      let first := h.uid.isNone
      let cyc := s.cycleOfFrame f.bcycle
      let s := if first then s.evJoin n pos 0 0 (b2n h.chain) f.uid (h.delay.getD 0) else s
      let s := s.modLane n fun x =>
        { x with keep := if f.ka then s.now else x.keep
                 state := if f.ka && x.state == .announce then .awake else x.state
                 hubs := x.hubs.modify { } pos fun h =>
                   { h with uid := some f.uid, accepted := none, lastStatus := some cyc, kaAt := if f.ka then some s.now else h.kaAt
                            hold := f.hold, localBlock := f.localBlock, other := f.other } }
      let late := match hubArm s.cfg n pos with
        | some (c, a, _) => decide (cycleStart cyc + cutOff s.cfg c a * 1056 * nsF / 100 < s.now)
        | none => false
      let s := if late then
          let s := s.modLane n fun x => { x with lateReport := satAdd 32 x.lateReport 1 }
          { s with conv := { s.conv with lateReport := satAdd 32 s.conv.lateReport 1 } }
        else s
      let valid := (f.body.take h.nSm).zipIdx.filter fun e => bitOf e.1.2.toNat 5
      { s with conv := { s.conv with reports := valid.foldl (fun (t : Table SmReport) e =>
          t.put (n * 4096 + pos * 128 + e.2) { vcode := e.1.1.toNat, smstat := e.1.2, cycle := cyc }) s.conv.reports } }

/-- EV_FRAME_DEFER at the first deferral of a source in a second, on a lane (R310). -/
def State.laneDefer (n src : Nat) (s : State) : State :=
  let sec := s.now / secF
  let x := s.lane n
  let told := if x.deferSec = sec then x.deferTold else []
  if told.contains src then s
  else (s.modLane n fun x => { x with deferSec := sec, deferTold := src :: told }).post (mkEv 0x10 (0x100 + n) s.now [(1, src)])

/-- An EVENT frame of a hub (R305, R310): passed to the event system, COUNTS taken as deferrals. -/
def State.valveEvent (n : Nat) (f : HubEvent) (s : State) : State :=
  match s.laneRec n with
  | none => s
  | some b =>
    let x := s.lane n
    if !(x.state == .awake || x.state == .announce) then s
    else if !f.crcOk then s.modLane n fun x => { x with crcErr := satAdd 32 x.crcErr 1 }
    else
      let prio := f.arbId.toNat / 0x1000
      let cls : EClass := if prio = 0 then .alarm else if prio = 1 then .state else .log
      let t := cycleStart (s.cycleOfFrame f.bcycle) + f.tOfs.toNat * nsF
      let e := mkEv 0x19 n t [(1, f.src.val), (1, f.ecode.toNat), (1, f.sm.toNat), (1, b.u8 1), (8, f.data.toNat)]
      let s := s.post { e with cls, oneShot := true }
      if f.ecode = 9 then
        (s.modLane n fun x => { x with deferHub := satAdd 32 x.deferHub (f.data.toNat / 2 ^ 32)
                                       arbDrop := satAdd 32 x.arbDrop (f.data.toNat % 2 ^ 32) }).laneDefer n f.src.val
      else s

/-- A joined position has been silent for 32 basic cycles (R316). -/
def State.joinLost (n pos : Nat) (s : State) : State :=
  let x := s.lane n
  let h := x.hubs.get { } pos
  match h.uid, h.lastStatus with
  | some uid, some c =>
    if cycleNum c + 32 ≤ cycleNum s.cycle then
      (s.modLane n fun x =>
        { x with hubs := x.hubs.put pos { h with uid := none, accepted := none, lastStatus := none }
                 spares := x.spares.map fun o => if o == pos then 0xFF else o }).evJoin n pos 2 0 (b2n h.chain) uid (h.delay.getD 0)
    else s
  | _, _ => s

/-! ### Lane states and selection (R320 to R324) -/

/-- All hubs of a lane are selected (R323). -/
def Lane.selectAll (x : Lane) : Lane := { x with allSel := true, reach := 7 }

/-- A wake of a lane at an instant: from ASLEEP it sends idle blocks for 200 µs. -/
def Lane.wakeUp (t : Fine) (x : Lane) : Lane :=
  match x.state with
  | .asleep => { x with state := .waking, since := t, keep := t }
  | .announce => { x with state := .awake, keep := t }
  | _ => { x with keep := t }

/-- Positions that a WAKE frame selects among those configured or in LATE_MASK (R322, R323). -/
def Lane.selects (b : Bytes) (w : U16 × U16 × U32 × U32) (x : Lane) : List Nat :=
  (List.range 8).filter fun p =>
    let h := x.hubs.get { } p
    (0 < laneNsm b p || bitOf (laneLate b) p) &&
    (!h.known || (((h.hubId ^^^ w.1) &&& w.2.1) == 0 && ((h.hubData ^^^ w.2.2.1) &&& w.2.2.2) == 0))

/-- VALVE_WAKE takes effect on a lane (R323, R329). -/
def State.wakeLane (n : Nat) (b : Bytes) (w : U16 × U16 × U32 × U32) (s : State) : State :=
  let all := (w.2.1 == 0 && w.2.2.2 == 0) || !sleepEn b
  let t := s.now
  s.modLane n fun x =>
    let fresh := x.state == .asleep
    let y := { x.wakeUp t with released := false, pendRelease := false, wake := some w, wakeUntil := t + wakeTimeout b }
    if all || (!fresh && x.allSel) then y.selectAll
    else
      let sel := y.selects b w ++ (if fresh then [] else (List.range 8).filter fun p => (x.hubs.get { } p).selected)
      { y with allSel := false, reach := sel.foldl max 0
               hubs := sel.foldl (fun (t : Table HubPos) p => t.modify { } p fun h => { h with selected := true }) y.hubs }

/-- No keep-alive has been seen for T_SLEEP at matrix boundary `t`: AWAKE becomes ANNOUNCE (R321). -/
def State.sleepCheck (n : Nat) (t : Fine) (s : State) : State :=
  match s.laneRec n with
  | none => s
  | some b =>
    let s := if s.masterKeep n b then s.modLane n fun x => { x with keep := max x.keep t } else s
    let x := s.lane n
    if x.state == .awake && s.activeAt t && decide (x.keep + tSleep b ≤ t) then
      s.modLane n fun x => { x with state := .announce, since := t, announced := 0 }
    else s

/-- 200 µs of idle blocks have been sent (R321). -/
def State.wakeDone (n : Nat) (s : State) : State :=
  s.modLane n fun x =>
    if x.state == .waking && x.since + 200000 * nsF ≤ s.now then
      { x with state := .awake, resume := ceilTo (160000 * nsF) (x.since + 200000 * nsF) }
    else x

/-- The selection clears and the transmitter turns off (R321, R323). -/
def Lane.goAsleep (t : Fine) (x : Lane) : Lane :=
  { x with state := .asleep, since := t, allSel := false, reach := 0, wake := none, acks := []
           hubs := x.hubs.map fun h => (h.1, { h.2 with selected := false, uid := none, accepted := none }), spares := [0xFF, 0xFF] }

/-- The keep-awake condition of R324. -/
def State.keepAwakeCond (n : Nat) (b : Bytes) (s : State) : Bool :=
  (s.lane n).released && (s.lane n).state == .awake && !s.masterKeep n b

/-- A lane at matrix boundary `t` (R321, R325, R326). A standby follows what the active module mirrored. -/
def State.laneMatrix (t : Fine) (s : State) (n : Nat) : State :=
  match s.laneRec n with
  | none => s.modLane n fun x => { x with state := .off, acks := [] }
  | some b =>
    if s.lanesOff then s.modLane n fun x => { x with state := .off, acks := [], hubs := [], spares := [0xFF, 0xFF] }
    else
      let x := s.lane n
      let mirrored : Option LaneMirror := s.pair.lanes.find? n
      let s : State := match mirrored with
        | some m =>
          let st : LaneState := match m.mstate with
            | 0 => .awake
            | 1 => .announce
            | 2 => .asleep
            | 3 => .waking
            | _ => .off
          let s := { s with pair := { s.pair with lanes := s.pair.lanes.erase n } }
          s.modLane n fun x => { x with state := st, released := m.released, allSel := m.allSel, reach := m.reach.val
                                        spares := m.spareOwner.map (·.toNat) }
        | none => if x.state == .off then
            s.modLane n fun _ => { state := .awake, since := t, keep := t, resume := t, locked := x.locked, polRev := x.polRev }
          else s
      let s := s.modLane n fun x => if x.pendRelease then { x with released := true, releasedAt := t, pendRelease := false } else x
      let s := s.wakeDone n
      let s := s.modLane n fun x =>
        if x.state == .announce && 16 ≤ x.announced && x.keep ≤ x.since then x.goAsleep t else x
      let s := s.sleepCheck n t
      if s.keepAwakeCond n b then s.modLane n fun x => { x with keepAwakeFrom := some (x.keepAwakeFrom.getD t) }
      else s.modLane n fun x => { x with keepAwakeFrom := none }

/-- KEEPAWAKE_LIMIT has passed (R324). -/
def State.keepAwake (n : Nat) (s : State) : State :=
  match s.laneRec n, (s.lane n).keepAwakeFrom with
  | some b, some f =>
    if s.keepAwakeCond n b && decide (f + keepLimit b ≤ s.now) then
      let x := s.lane n
      let pos := maskOf 8 fun p => (x.hubs.get { } p).kaAt.any fun t => s.now ≤ t + tSleep b
      (s.modLane n fun x => { x with keepAwakeFrom := some (f + keepLimit b) }).post
        (mkEv 0x0B n s.now [(1, pos), (3, 0), (4, (s.now - x.releasedAt) / secF)])
    else s
  | _, _ => s

/-- The VALVE_WAKE ball (R321): a rising edge after which it stays high for 1 ms wakes the lanes with BALL_WAKE. -/
def State.wakeBall (high : Bool) (s : State) : State :=
  let v := s.valve
  if !high then { s with valve := { v with ball := false, ballAt := none } }
  else if !v.ball then { s with valve := { v with ball := true, ballAt := some s.now } }
  else if v.ballAt.any fun t => t + 1000000 * nsF ≤ s.now then
    let s := { s with valve := { v with ballAt := none } }
    (List.range 24).foldl (fun s n =>
      match s.laneRec n with
      | some b => if ballWake b && s.activeAt s.now then
          s.modLane n fun x => if x.state == .off then x else { (x.wakeUp s.now).selectAll with released := false }
        else s
      | none => s) s
  else s

/-- Signal on the receiver of a lane (R321). -/
def State.rxSignal (n : Nat) (s : State) : State :=
  match s.laneRec n with
  | some b =>
    if (s.lane n).state == .asleep then
      if hubWake b then s.modLane n fun x => (x.wakeUp s.now).selectAll
      else s.modLane n fun x => { x with ignoredSignal := satAdd 32 x.ignoredSignal 1 }
    else s
  | none => s

/-- The receiver of a lane locks or loses lock (R299). -/
def State.laneLock (n : Nat) (lock inverted : Bool) (s : State) : State :=
  s.modLane n fun x => { x with locked := lock, polRev := lock && inverted }

/-! ### Frames of a basic cycle -/

/-- The BLOCK bit of a lane in basic cycle `c` (R288): a converter with hubs on it is blocked, or none has hubs on it (log entry
65). -/
def State.laneBlock (n c : Nat) (s : State) : Bool :=
  let cs := s.laneConvs n
  cs.isEmpty || cs.any fun i => (s.cv i).latched && (s.cv i).slotSince.all fun f => f ≤ c

/-- Insertion codes of a hub of an arm (R280, R303): INSERT for the inserted set, BYPASS for the rest. -/
def State.hubCodes (c a : Nat) (h : ArmHub) (s : State) : List Nat :=
  let before := (armHubs s.cfg c a).takeWhile fun y => y != h
  let base := before.foldl (fun n y => n + y.nSm) 0
  let ins := (s.cv c).st.inserted.get [] a
  (List.range h.nSm).map fun i => if ins.contains (base + i) then 2 else 1

/-- The frames of the master window that fit after the TABLE: acknowledgements in order, the others wait (R310). -/
def fitAcks : Nat → List PendAck → List PendAck × List PendAck
  | _, [] => ([], [])
  | room, a :: as => if 6 ≤ room then let (x, y) := fitAcks (room - 6) as; (a :: x, y) else ([], a :: as)

/-- The master window of a lane: TABLE in MPOS 0, acknowledgements, WAKE (R310, R314, R323). -/
def State.masterWindow (n : Nat) (b : Bytes) (mpos : Nat) (t : Fine) (s : State) : State :=
  let x := s.lane n
  let room := c0Of s.cfg - 6
  let s := if mpos = 0 then s.emit (.table n (tableId s.cfg b) x.spares) else s
  let room := if mpos = 0 then room - 15 else room
  let (go, stay) := fitAcks room x.acks
  let s := s.modLane n fun x => { x with acks := stay }
  let s := go.foldl (fun s a =>
    let s := s.emit (.ack n a)
    if a.result = 0 then s
    else (s.modLane n fun x => { x with joinNak := satAdd 32 x.joinNak 1 }).evJoin n a.pos 1 a.result
      (b2n (x.hubs.get { } a.pos).chain) a.uid a.delay) s
  let left := room - 6 * go.length
  let wake := x.wake.filter fun _ => decide (t < max x.wakeUntil (x.resume + wakeTimeout b))
  let noRoom := wake.isSome && decide (left < 5)
  let s := match wake with
    | some w => if noRoom then s else s.emit (.wake n w)
    | none => s
  if stay.isEmpty && !noRoom then s
  else (s.modLane n fun x => { x with deferOwn := satAdd 32 x.deferOwn (stay.length + b2n noRoom) }).laneDefer n 0xF0

/-- The frames of one lane in basic cycle `c` (R302, R307, R321). -/
def State.laneCycle (c : Nat × Nat) (s : State) (n : Nat) : State :=
  match s.laneRec n with
  | none => s
  | some b =>
    let t := cycleStart c
    let s := s.modLane n fun x => if x.state == .announce && (s.masterKeep n b || x.since < x.keep) then { x with state := .awake } else x
    let x := s.lane n
    if s.lanesOff || !(x.state == .awake || x.state == .announce) || t < x.resume then s
    else
      let ep := s.epochAt t
      let sleep := x.state == .announce
      let s := s.emit (.cs n { epoch := ep, second := c.1 % 2 ^ 32, bcycle := c.2, block := s.laneBlock n (cycleNum c), sleep
                               allSel := x.allSel, reach := x.reach, tableId := tableId s.cfg b })
      let s := s.modLane n fun x => { x with announced := if sleep then x.announced + 1 else 0 }
      let s := s.masterWindow n b (c.2 % 16) t
      if ep = 0 then s
      else ((allHubs s.cfg).filter fun h => h.2.2.lane == n).foldl (fun s h =>
        if (s.cvRec h.1).isSome && (s.cv h.1).sends && (0 < laneNsm b h.2.2.pos || (x.spareOf h.2.2.pos).isSome) then
          s.emit (.command n h.2.2.pos ep c.2 (s.hubCodes h.1 h.2.1 h.2.2))
        else s) s

/-- VALVE_WAKE completes once every lane it names has sent a CS with the new selection (R329). -/
def State.wakesDone (t : Fine) (s : State) : State :=
  let sent (n : Nat) : Bool := s.emitted.any fun o => match o with
    | .cs l _ => l == n
    | _ => false
  s.finishWaiting (fun o => match o.wait with
    | .valve true lanes => decide (o.at_ < t) && (List.range 24).all fun n => !bitOf lanes n || sent n
    | _ => false) fun _ => (.ok, 0, leBytes 8 (t / nsF))

/-- VALVE_SLEEP completes at the matrix boundary at which it released its lanes (R328). -/
def State.sleepsDone (t : Fine) (s : State) : State :=
  let asleep := maskOf 24 fun n => (s.lane n).state == .asleep
  s.finishWaiting (fun o => match o.wait with
    | .valve false _ => decide (o.at_ < t)
    | _ => false) fun _ => (.ok, 0, packLe [(8, t / nsF), (4, asleep)])

/-- A named lane is not enabled or has SLEEP_EN clear. -/
def State.lanesBad (lanes : U32) (s : State) : Bool :=
  (List.range 32).any fun n => bitOf lanes.toNat n && !((s.laneRec n).any sleepEn)

/-- VALVE_SLEEP (R328). -/
def State.valveSleep (lanes rsv : U32) (s : State) : State × Reply :=
  let named := (List.range 24).filter (bitOf lanes.toNat)
  if s.lanesBad lanes then (s, badAt 0)
  else if rsv ≠ 0 then (s, badAt 4)
  else if named.any fun n => (s.laneConvs n).any fun c => !(s.cv c).latched then (s, noRes 0x0801)
  else (named.foldl (fun s n => s.modLane n fun x => { x with pendRelease := true }) s, .wait (.valve false lanes.toNat))

/-- VALVE_WAKE (R329). -/
def State.valveWake (lanes : U32) (w : U16 × U16 × U32 × U32) (s : State) : State × Reply :=
  if s.lanesBad lanes then (s, badAt 0)
  else (((List.range 24).filter (bitOf lanes.toNat)).foldl (fun s n =>
      match s.laneRec n with
      | some b => s.wakeLane n b w
      | none => s) s, .wait (.valve true lanes.toNat))

/-- The TABLE_ID of a lane has changed: every hub rejoins, and spares are freed (R327). -/
def Lane.rejoin (x : Lane) : Lane := { x with hubs := [], spares := [0xFF, 0xFF], acks := [] }

/-- The status block of a lane (R330). -/
def State.laneBlockBytes (n : Nat) (s : State) : Bytes :=
  let x := s.lane n
  let b := s.laneRec n
  let mask (p : HubPos → Bool) : Nat := maskOf 8 fun i => p (x.hubs.get { } i)
  packLe [(1, n), (1, x.state.code), (1, b2n x.locked + 2 * b2n x.polRev), (1, x.reach), (4, s.epochAt s.now),
    (4, b.elim 0 fun b => (tableId s.cfg b).toNat), (1, mask (·.uid.isSome)), (1, mask (·.hold)), (1, mask (·.localBlock)),
    (1, mask (·.other)), (1, mask fun h => h.kaAt.any fun t => b.any fun b => s.now ≤ t + tSleep b),
    (1, x.spares.getD 0 0xFF), (1, x.spares.getD 1 0xFF), (1, 0), (4, x.crcErr), (4, x.deferOwn), (4, x.deferHub), (4, x.arbDrop),
    (4, x.joinNak), (4, x.lateReport), (4, 0)] ++
  (List.range 8).flatMap fun i => leBytes 2 ((x.hubs.get { } i).delay.getD 0xFFFF)

/-! ### Meanings -/

/-- A frame on a lane is received while its receiver holds lock (R299). -/
def State.onLane (n : Nat) (f : State → State) (s : State) : State := if (s.lane n).locked then f s else s

/-- VALVE_STATUS_RX (R271). -/
def execValveStatusRx (dt : Nat) (lane : Fin 24) (f : HubStatus) (s : State) : Host.Outcome State Fault Refusal :=
  goOn dt (State.onLane lane.val (State.valveStatus lane.val f)) s

/-- VALVE_EVENT_RX (R305). -/
def execValveEventRx (dt : Nat) (lane : Fin 24) (f : HubEvent) (s : State) : Host.Outcome State Fault Refusal :=
  goOn dt (State.onLane lane.val (State.valveEvent lane.val f)) s

/-- JOIN_REQ (R314). -/
def execJoinReq (dt : Nat) (lane : Fin 24) (f : HubRequest) (s : State) : Host.Outcome State Fault Refusal :=
  goOn dt (State.onLane lane.val (State.joinRequest lane.val false f)) s

/-- CLAIM_REQ (R315). -/
def execClaimReq (dt : Nat) (lane : Fin 24) (f : HubRequest) (s : State) : Host.Outcome State Fault Refusal :=
  goOn dt (State.onLane lane.val (State.joinRequest lane.val true f)) s

/-- JOIN_LOST (R316). -/
def execJoinLost (dt : Nat) (lane : Fin 24) (pos : Fin 8) (s : State) : Host.Outcome State Fault Refusal :=
  goOn dt (State.joinLost lane.val pos.val) s

/-- T_SLEEP_EXPIRY (R321). -/
def execTSleepExpiry (dt : Nat) (lane : Fin 24) (s : State) : Host.Outcome State Fault Refusal :=
  goOn dt (fun s => s.sleepCheck lane.val (matrixStart s.now)) s

/-- LANE_WAKE_DONE (R321). -/
def execLaneWakeDone (dt : Nat) (lane : Fin 24) (s : State) : Host.Outcome State Fault Refusal :=
  goOn dt (State.wakeDone lane.val) s

/-- VALVE_WAKE_BALL (R321). -/
def execValveWakeBall (dt : Nat) (high : Bool) (s : State) : Host.Outcome State Fault Refusal := goOn dt (State.wakeBall high) s

/-- LANE_RX_SIGNAL (R321). -/
def execLaneRxSignal (dt : Nat) (lane : Fin 24) (s : State) : Host.Outcome State Fault Refusal :=
  goOn dt (State.rxSignal lane.val) s

/-- KEEPAWAKE_LIMIT (R324). -/
def execKeepawakeLimit (dt : Nat) (lane : Fin 24) (s : State) : Host.Outcome State Fault Refusal :=
  goOn dt (State.keepAwake lane.val) s

end Sys2Proof.Machine
end

