-- ==== Sys2Proof/Machine/FieldIo.lean ====
section
/-!
DEFINITION. Field I/O: filters, dual and single binary inputs, binary outputs with their supervision and test pulses (R355 to R360).
-/
namespace Sys2Proof.Machine

/-- A ball: 0 to 31 BIn_A, 32 to 63 BIn_B, 64 to 87 SIn. -/
def State.ball (s : State) (n : Nat) : InBall := s.fio.balls.get { } n
/-- A dual input. -/
def State.dual (s : State) (n : Nat) : DualIn := s.fio.duals.get { } n
/-- A binary output. -/
def State.bo (s : State) (n : Nat) : BinOut := s.fio.outs.get { } n
@[inherit_doc State.bo] def State.modBo (n : Nat) (f : BinOut → BinOut) (s : State) : State :=
  { s with fio := { s.fio with outs := s.fio.outs.put n (f (s.bo n)) } }

/-- The µs tick of an instant. -/
def usTick (t : Fine) : Nat := t / (1000 * nsF)

/-- FILTER of a ball; a ball without a record is not filtered. -/
def State.filterOf (s : State) (n : Nat) : Nat :=
  if n < 64 then s.fld 0x908 (n % 32) 0 (·.u16 8) else s.fld 0x909 (n - 64) 0 (·.u16 2)

/-- The channel state of a ball at tick `u`: the new level once it has been held for FILTER ticks, the present one counted (R355,
log entry 66). -/
def InBall.filter (flt u : Nat) (b : InBall) : InBall :=
  if b.level != b.state && decide (b.since + flt ≤ u + 1) then { b with state := b.level } else b

/-- A ball shows a level in tick `u`. -/
def State.ballLevel (n u : Nat) (level : Bool) (s : State) : State :=
  let b := s.ball n
  let b := if b.level == level then b else { b with level, since := u }
  { s with fio := { s.fio with balls := s.fio.balls.put n (b.filter (s.filterOf n) u) } }

/-- Channel states of a dual input, B inverted in MODE 1. -/
def State.dualCh (s : State) (b : Bytes) (n : Nat) : Bool × Bool := ((s.ball n).state, (s.ball (32 + n)).state != (b.u8 2 == 1))

/-- A dual input in tick `u` (R356). -/
def State.dualTick (u : Nat) (s : State) (n : Nat) : State :=
  let put (d : DualIn) (s : State) : State := { s with fio := { s.fio with duals := s.fio.duals.put n d } }
  match s.rec? 0x908 n with
  | none => s
  | some b =>
    let safe := b.u8 1 == 1
    let (x, y) := s.dualCh b n
    let d := s.dual n
    let ev (first : Nat) (clr : Bool) : Ev :=
      mkEv 0x0C n (u * 1000 * nsF) [(1, b2n (s.ball n).state), (1, b2n (s.ball (32 + n)).state), (8, first * 1000)] clr
    if b.u8 0 = 0 then put { value := safe } s
    else if d.latched then
      if x == safe && y == safe then (put { value := safe } s).post (ev (d.first.getD 0) true) else put { d with value := safe } s
    else if x == y then put { value := x } s
    else
      let first := d.first.getD u
      if b.u32 4 ≤ u + 1 - first then (put { first := some first, latched := true, value := safe } s).post (ev first false)
      else put { first := some first, value := safe } s

/-! ### Binary outputs -/

/-- RB_TIME, TP_WIDTH and TP_PERIOD. -/
def rbTime (b : Bytes) : Fine := b.u16 6 * 1000 * nsF
@[inherit_doc rbTime] def tpWidth (b : Bytes) : Fine := b.u16 8 * 1000 * nsF
@[inherit_doc rbTime] def tpPeriod (b : Bytes) : Fine := b.u16 0xA * secF

/-- The incoming module of a planned transfer drives its outputs from 16 cycles before AT (R429). -/
def State.predrives (s : State) : Bool := s.gaf.mode == .standby && s.pair.predriven

/-- The command of an output: its source under the mode (R338, R359). -/
def State.boWant (s : State) (b : Bytes) (n : Nat) : Bool :=
  let src := match b.u8 0 with
    | 1 => (s.bo n).logic
    | 2 => (s.eng.results.find? (b.u16 4)).any fun r => r.outbits.getLsbD (b.u8 3)
    | _ => false
  if s.part.inReset then false
  else match s.gaf.mode with
    | .service => s.serves && src
    | .standby => (s.serves || s.predrives) && src
    | .test => bitOf (b.u8 2) 3 && src
    | .safeHold => b.u8 1 == 1
    | _ => false

/-- The level of an output's ball (R359, R360): SAFE where a fault latches it, low during a test pulse. -/
def State.boBall (s : State) (n : Nat) : Bool :=
  let o := s.bo n
  match s.rec? 0x90A n with
  | some b => if o.fault != 0 && bitOf (b.u8 2) 2 then b.u8 1 == 1 else o.cmd && o.pulseAt.isNone
  | none => false

/-- EV_OUTPUT_FAULT (R360). -/
def evOutput (n fault : Nat) (t : Fine) (clr : Bool) : Ev := mkEv 0x17 n t [(1, fault)] clr

/-- A fault of an output clears. -/
def State.boClear (n : Nat) (s : State) : State :=
  let f := (s.bo n).fault
  if f = 0 then s else (s.modBo n fun o => { o with fault := 0 }).post (evOutput n f s.now true)

/-- A fault of an output latches; one latched earlier stays. -/
def State.boFault (n f : Nat) (s : State) : State :=
  if (s.bo n).fault != 0 then s else (s.modBo n fun o => { o with fault := f }).post (evOutput n f s.now false)

/-- An output takes its command (R359): a change ends a test pulse, and switching off clears DRIVE and OPEN (R360). -/
def State.boTake (s : State) (n : Nat) : State :=
  match s.rec? 0x90A n with
  | none => s
  | some b =>
    let want := s.boWant b n
    let o := s.bo n
    if o.cmd == want then s
    else
      let s := s.modBo n fun o => { o with cmd := want, cmdAt := s.now, misAt := some s.now, openAt := none, pulseAt := none
                                           pulseNext := s.now + tpPeriod b }
      if !want && (o.fault == 1 || o.fault == 3) then s.boClear n else s

/-- Every output takes its command. -/
def State.outputs (s : State) : State := ((s.recs 0x90A).map (·.1)).foldl State.boTake s

/-- Checks of an output against its readbacks at an instant (R360). -/
def State.boCheck (n : Nat) (s : State) : State :=
  match s.rec? 0x90A n with
  | none => s
  | some b =>
    let o := s.bo n
    if s.part.inReset || o.pulseAt.isSome then s
    else
      let mis := o.fb != o.cmd
      let open_ := bitOf (b.u8 2) 1 && o.cmd && o.fb && !o.ls
      let s := s.modBo n fun o => { o with misAt := if mis then some (o.misAt.getD s.now) else none
                                           openAt := if open_ then some (o.openAt.getD s.now) else none }
      let o := s.bo n
      let late (t : Option Fine) : Bool := t.any fun t => t + rbTime b ≤ s.now
      let passed := (o.fault == 1 && o.cmd && o.fb) || (o.fault == 2 && !o.cmd && !o.fb) ||
        (o.fault == 3 && o.cmd && o.fb && (o.ls || !bitOf (b.u8 2) 1))
      let s := if passed then s.boClear n else s
      if mis && late o.misAt then s.boFault n (if o.cmd then 1 else 2)
      else if open_ && late o.openAt then s.boFault n 3
      else s

/-- The next cycle end of the task that drives an output. -/
def State.nextCycleEnd (s : State) (n : Nat) : Option Fine :=
  ((outputsTo s.cfg 0 n).head?.bind fun r => s.rec? 0x901 (r.1 / 512)).map fun b =>
    let k := nextTick s.rate s.tick
    let scan := max 1 (b.u16 4)
    tickStart s.rate (addTicks s.rate k ((scan + b.u16 6 % scan - k.2 % scan) % scan))

/-- A test pulse starts when it is due and ends after TP_WIDTH (R360). -/
def State.boPulse (n : Nat) (s : State) : State :=
  match s.rec? 0x90A n with
  | none => s
  | some b =>
    let o := s.bo n
    match o.pulseAt with
    | some t =>
      if t + tpWidth b ≤ s.now then
        let s := s.modBo n fun o => { o with pulseAt := none, misAt := none, pulseNext := t + tpPeriod b }
        if o.pulseOk then (if o.fault == 2 then s.boClear n else s) else s.boFault n 2
      else s
    | none =>
      let near := (s.nextCycleEnd n).any fun e => e < s.now + 2 * tpWidth b
      if bitOf (b.u8 2) 0 && o.cmd && !s.part.inReset && o.fault == 0 && decide (o.pulseNext ≤ s.now) && !near then
        s.modBo n fun o => { o with pulseAt := some s.now, pulseOk := false }
      else s

/-- The readbacks of an output in a tick. -/
def State.boRead (fb ls : Nat) (s : State) (n : Nat) : State :=
  (s.modBo n fun o => { o with fb := bitOf fb n, ls := bitOf ls n, pulseOk := o.pulseOk || (o.pulseAt.isSome && !bitOf fb n) }).boCheck n

/-- The readback as tasks see it: the commanded state during a test pulse (R360). -/
def State.boReadback (s : State) (n : Nat) : Bool := let o := s.bo n; if o.pulseAt.isSome then o.cmd else o.fb

/-- A supervision tick with the levels of the balls (R355 to R360). -/
def State.fieldTick (a b si fb ls : Nat) (s : State) : State :=
  let u := usTick s.now
  let s := (List.range 32).foldl (fun s n => (s.ballLevel n u (bitOf a n)).ballLevel (32 + n) u (bitOf b n)) s
  let s := (List.range 24).foldl (fun s n => s.ballLevel (64 + n) u (bitOf si n)) s
  let s := (List.range 32).foldl (State.dualTick u) s
  (((s.recs 0x90A).map (·.1)).foldl (State.boRead fb ls) s).blockSources

/-- FILTER has passed for a ball (R355). -/
def State.filterExpiry (ch : Nat) (s : State) : State :=
  let u := usTick s.now
  let s := s.ballLevel ch u (s.ball ch).level
  (if ch < 64 then s.dualTick u (ch % 32) else s).blockSources

/-- FIELD_SUPERVISION_TICK (R355). -/
def execFieldSupervisionTick (dt : Nat) (biA biB diS boFb boLs : U32) (s : State) : Host.Outcome State Fault Refusal :=
  goOn dt (State.fieldTick biA.toNat biB.toNat diS.toNat boFb.toNat boLs.toNat) s

/-- INPUT_FILTER_EXPIRY (R355). -/
def execInputFilterExpiry (dt : Nat) (ch : Fin 88) (s : State) : Host.Outcome State Fault Refusal :=
  goOn dt (State.filterExpiry ch.val) s

/-- DISCREPANCY_LATCH (R356). -/
def execDiscrepancyLatch (dt : Nat) (n : Fin 32) (s : State) : Host.Outcome State Fault Refusal :=
  goOn dt (fun s => (s.dualTick (usTick s.now) n.val).blockSources) s

/-- BO_READBACK_TIMEOUT (R360). -/
def execBoReadbackTimeout (dt : Nat) (n : Fin 32) (s : State) : Host.Outcome State Fault Refusal :=
  goOn dt (State.boCheck n.val) s

/-- BO_TEST_PULSE (R360). -/
def execBoTestPulse (dt : Nat) (n : Fin 32) (s : State) : Host.Outcome State Fault Refusal :=
  goOn dt (State.boPulse n.val) s

end Sys2Proof.Machine
end

