-- ==== Sys2Proof/Machine/Publish.lean ====
section
/-!
DEFINITION. Publication: GOOSE control blocks and C37.118.2 streams (R195 to R202), and their records.
-/
namespace Sys2Proof.Machine

/-! ### Records (R197, R201) -/

/-- Bytes of a text field of `n` bytes beyond its length are 0. -/
def textOk (b : Bytes) (off len n : Nat) : Bool := ((Bytes.slice b off n).drop len).all (· == 0)

/-- The GOOSE_PUB, GOOSE_MEMBER and C37_PUB records. -/
def pubSpec (l : Bool) (rtype obj : Nat) (b : Bytes) : Option RecSpec :=
  match rtype with
  | 0x5F0 =>
    let m := macAt b 0
    some (fixedRec 0xE4
      [(0, within 0x010CCD010000 0x010CCD0101FF m.toNat), (6, b.u16 6 ≤ 0x3FFF), (8, b.u16 8 ≤ 4094 || b.u16 8 == 0xFFFF),
       (0xA, b.u8 0xA ≤ 7), (0xB, onlyBits 7 (b.u8 0xB)), (0xC, b.u16 0xC != 0 && b.u16 0xC < 2 ^ numPorts l),
       (0xE, within 1 128 (b.u16 0xE)), (0x10, 1 ≤ b.u32 0x10), (0x14, within 100 60000 (b.u32 0x14)),
       (0x18, within 500 100000 (b.u32 0x18) && b.u32 0x18 < 1000 * b.u32 0x14),
       (0x1C, b.u32 0x14 < b.u32 0x1C && b.u32 0x1C ≤ 4 * b.u32 0x14), (0x20, within 1 64 (b.u8 0x20)),
       (0x21, within 1 64 (b.u8 0x21)), (0x22, within 1 64 (b.u8 0x22)), (0x23, zeroAt b 0x23 1),
       (0x24, textOk b 0x24 (b.u8 0x20) 64), (0x64, textOk b 0x64 (b.u8 0x21) 64), (0xA4, textOk b 0xA4 (b.u8 0x22) 64)] (obj ≤ 63))
  | 0x5F1 =>
    let k := b.u8 2
    let enc := b.u8 4
    some (fixedRec 0xC
      [(0, b.u16 0 < numInsts l), (2, k ≤ 3),
       (3, match k with
         | 0 => b.u8 3 ≤ 31
         | 1 => b.u8 3 ≤ 35
         | _ => b.u8 3 == 0),
       (4, match k with
         | 0 => enc == 0
         | 1 => enc == 1 || enc == 2
         | 2 => enc == 3
         | _ => enc == 4),
       (5, b.u8 5 ≤ 1), (6, zeroAt b 6 2),
       (8, match enc with
         | 1 => fpNonNeg (b.fp 8)
         | 2 => b.u32 8 < 2 ^ 31
         | _ => b.u32 8 == 0)] (obj < 64 * 128))
  | 0x5F2 =>
    let n := b.u8 0xC
    some
      { objOk := obj ≤ 7, fixed := 0x14, counts := [(0xC, within 1 32 n)], len := 0x14 + 4 * n
        checks := [(0, within 1 65534 (b.u16 0)), (2, c37Rates.contains (b.u16 2)), (0xA, b.u16 0xA < 2 ^ numPorts l),
          (0xD, onlyBits 0xF (b.u8 0xD)), (0xE, zeroAt b 0xE 2), (0x10, within 100 20000 (b.u32 0x10))] ++
          (List.range n).map fun i => (0x14 + 4 * i, decide (b.u16 (0x14 + 4 * i) < numInsts l))
        needs := [15] }
  | _ => none

/-- The largest encoding of a control block's frame in bytes: tag and length bytes, the fixed members of the PDU, and per
member at most tag, length and value (R196). -/
def gooseFrameMax (b : Bytes) (encs : List Nat) : Nat :=
  26 + 8 + 4 + (2 + b.u8 0x20) + 6 + (2 + b.u8 0x21) + (2 + b.u8 0x22) + 10 + 7 + 7 + 3 + 7 + 3 + 4 + 4 +
  (encs.map fun e => match e with
    | 0 => 3
    | 1 => 7
    | 2 => 7
    | 3 => 5
    | _ => 10).foldl (· + ·) 0

/-! ### GOOSE (R195 to R199) -/

/-- The IEC 61850 quality of a quality word (R198). -/
def iecOf (q : Quality) (test : Bool) : IecQual :=
  { validity := if qHas qInvalid q then 1
      else if qHas (qQuestionable ||| qHold ||| qSettle ||| qLate ||| qSkewcal) q then 3 else 0
    failure := qHas qMissing q, outOfRange := qHas qOverrange q, oldData := qHas qHold q
    inaccurate := qHas (qSettle ||| qSkewcal) q, substituted := qHas qSubst q, test := test || qHas qTest q }

/-- The members of a control block in order, with their records. -/
def State.gooseMembers (cb : Nat) (s : State) : List Bytes :=
  (List.range (s.fld 0x5F0 cb 0 (·.u16 0xE))).filterMap fun m => s.rec? 0x5F1 (cb * 128 + m)

/-- UTC in ns of an instant (R198). -/
def State.utcNs (t : Fine) (s : State) : Nat := ((t / nsF : Nat) - s.utc * 1000000000 : Int).toNat

/-- The value of a member (R197); one without a result reads FALSE, 0 or validity invalid (log entry 50). -/
def State.memberVal (b : Bytes) (s : State) : GooseVal :=
  let r := s.eng.results.find? (b.u16 0)
  match b.u8 4 with
  | 0 => .bool (r.elim false fun r => r.outbits.getLsbD (b.u8 3))
  | 1 => .f32 (r.elim 0 fun r => r.values.getD (b.u8 3) 0)
  | 2 => .i32 (r.elim 0 fun r => r.values.getD (b.u8 3) 0)
  | 3 => .qual (r.elim { validity := 1 } fun r => iecOf r.quality s.inTest)
  | _ => .utc (r.elim 0 fun r => s.utcNs r.tDecide) (r.elim true fun r => qHas qSyncLost r.quality)

/-- Whether a member has changed state (R199): `prev` as at the last pass, `sent` in the last state-change frame. -/
def memberMoved (b : Bytes) (prev sent now : GooseVal) : Bool :=
  match now, sent with
  | .f32 x, .f32 y => !Fp.isZero (b.fp 8) && Fp.le (b.fp 8) (Fp.abs (Fp.sub x y))
  | .i32 x, .i32 y => b.u32 8 != 0 && decide ((b.u32 8 : Int) ≤ (x.toInt - y.toInt).natAbs)
  | .utc _ _, .utc _ _ => false
  | _, _ => prev != now

/-- The next of stNum and sqNum: they wrap from 0xFFFF_FFFF to 1 (R199). -/
def nextNum (n : U32) : U32 := if n = 0xFFFFFFFF then 1 else n + 1

/-- GOOSE is sent (R195), and carries the test flag. -/
def State.gooseSent (cb : Nat) (s : State) : Bool :=
  s.serves || s.gaf.mode == .safeHold || (s.gaf.mode == .test && !bitOf (s.fld 0x5F0 cb 0 (·.u8 0xB)) 2)

/-- Sends a frame of a control block, where the mode lets it. -/
def State.gooseFrame (cb : Nat) (launch : Option Fine) (s : State) : State :=
  let g := s.eng.goose.get { } cb
  if s.gooseSent cb then s.emit (.goose cb g.stNum g.sqNum g.t g.vals (s.gaf.mode == .test) g.syncLost launch) else s

/-- A state change of a control block (R199): values, t, whether t is not synchronised, launch time of the frame. -/
def State.gooseChange (cb : Nat) (vals : List GooseVal) (t : Fine) (lost : Bool) (launch : Option Fine) (s : State) : State :=
  let g := s.eng.goose.get { } cb
  let t1 := s.fld 0x5F0 cb 1000 (·.u32 0x18) * 1000 * nsF
  let g' : GooseCb := { g with stNum := nextNum g.stNum, sqNum := 0, t, vals, sent := vals, syncLost := lost
                               next := some (s.now + t1), interval := t1, running := true }
  ({ s with eng := { s.eng with goose := s.eng.goose.put cb g' } }).gooseFrame cb launch

/-- The position in the publication order of a member's instance. -/
def pubRank (order : List Nat) (inst : Nat) : Nat := (order.findIdx? (· == inst)).getD order.length

/-- At the end of a pass, each control block takes its members' values and changes state where R199 says so; frames leave in
the publication order of the first changed member. -/
def State.goosePass (order : List Nat) (s : State) : State :=
  let look := (s.recs 0x5F0).filterMap fun r =>
    let ms := s.gooseMembers r.1
    if ms.isEmpty then none
    else
      let g := s.eng.goose.get { } r.1
      let vals := ms.map fun m => s.memberVal m
      let moved := (ms.zip (vals.zipIdx)).filter fun m =>
        !g.running || memberMoved m.1 (g.vals.getD m.2.2 m.2.1) (g.sent.getD m.2.2 m.2.1) m.2.1
      let given := g.running || ms.any fun m => order.contains (m.u16 0)
      some (r.1, vals, if given then moved.map fun m => m.1.u16 0 else [])
  let rk (x : Nat × List GooseVal × List Nat) : Nat := x.2.2.foldl (fun m i => min m (pubRank order i)) order.length
  let changed := sortBy (fun a b => decide (rk a ≤ rk b)) (look.filter fun x => !x.2.2.isEmpty)
  let quiet := look.filter fun x => x.2.2.isEmpty
  let s := quiet.foldl (fun s x =>
    let g := s.eng.goose.get { } x.1
    { s with eng := { s.eng with goose := if g.running then s.eng.goose.put x.1 { g with vals := x.2.1 } else s.eng.goose } }) s
  changed.foldl (fun s x =>
    let rs := x.2.2.filterMap fun i => s.eng.results.find? i
    let t := rs.foldl (fun (m : Option Fine) r => some (m.elim r.tDecide (min r.tDecide))) none
    s.gooseChange x.1 x.2.1 (t.getD s.now) (rs.any fun r => qHas qSyncLost r.quality) none) s

/-- The values of a control block in SAFE_HOLD (R198); `now` is the time of entry. -/
def State.gooseSafeVals (cb : Nat) (s : State) : List GooseVal :=
  let g := s.eng.goose.get { } cb
  (s.gooseMembers cb).zipIdx.map fun m =>
    match m.1.u8 4 with
    | 0 => .bool (m.1.u8 5 == 1)
    | 1 => g.vals.getD m.2 (.f32 0)
    | 2 => g.vals.getD m.2 (.i32 0)
    | 3 => .qual { validity := 1 }
    | _ => .utc (s.utcNs s.now) (!s.timeSync)

/-- Entry into and exit from SAFE_HOLD are state changes of every control block with members (R198, R199). -/
def State.gooseSafeHold (enter : Bool) (s : State) : State :=
  ((s.recs 0x5F0).filter fun r => !(s.gooseMembers r.1).isEmpty).foldl (fun s r =>
    let vals := if enter then s.gooseSafeVals r.1 else (s.gooseMembers r.1).map fun m => s.memberVal m
    s.gooseChange r.1 vals s.now (!s.timeSync) none) s

/-- A repeat of a control block (R199): sqNum rises, and the interval doubles until it would reach T0. -/
def State.gooseRepeat (cb : Nat) (s : State) : State :=
  let g := s.eng.goose.get { } cb
  match g.next with
  | some t =>
    if s.part.inReset || s.now < t || !g.running then s
    else
      let t0 := s.fld 0x5F0 cb 1000 (·.u32 0x14) * 1000000 * nsF
      let iv := if 2 * g.interval < t0 then 2 * g.interval else t0
      let g' := { g with sqNum := nextNum g.sqNum, next := some (t + iv), interval := iv }
      ({ s with eng := { s.eng with goose := s.eng.goose.put cb g' } }).gooseFrame cb none
  | none => s

/-! ### C37.118.2 (R200 to R202) -/

/-- A stream. -/
def State.c37 (s : State) (n : Nat) : C37 := s.eng.c37.get { } n
/-- Changes a stream. -/
def State.modC37 (n : Nat) (f : C37 → C37) (s : State) : State :=
  { s with eng := { s.eng with c37 := s.eng.c37.put n (f (s.c37 n)) } }

/-- The PMU list of a stream: the instances. -/
def pmuList (b : Bytes) : List Nat := (List.range (b.u8 0xC)).map fun i => b.u16 (0x14 + 4 * i)

/-- Data frames are sent (R195, R200, and stage 3 of R444). -/
def State.c37Sent (b : Bytes) (s : State) : Bool :=
  s.feat 15 && s.pwr.stage < 3 && (s.serves || (s.gaf.mode == .test && !bitOf (b.u8 0xD) 1))

/-- The STAT word of a block (R202). -/
def State.c37Stat (c : C37) (r : Option ResultRec) (s : State) : Nat :=
  let q := r.elim qInvalid (·.quality)
  let d := s.time.dom s.time.src
  let since := s.time.syncLostAt.elim 0 fun t => (s.now - t) / secF
  (if r.isNone || qHas qInvalid q then 3 else if qHas qTest q || s.inTest then 2 else 0) * 2 ^ 14 +
  b2n (qHas qSyncLost q) * 2 ^ 13 +
  b2n (c.changedAt.any fun t => s.now < t + 60 * secF) * 2 ^ 10 +
  b2n (qHas (qHold ||| qSubst ||| qInterp ||| qSettle) q) * 2 ^ 9 +
  (if !s.timeSync then 7 else if d.state == .holdover then 3 else 1) * 2 ^ 6 +
  (if s.timeSync || since < 10 then 0 else if since < 100 then 1 else if since < 1000 then 2 else 3) * 2 ^ 4

/-- The values of a block (R200, R218): its eight phasors, rectangular or polar, FREQ and DFREQ; NaN where it is missing. -/
def c37Vals (polar : Bool) (r : Option ResultRec) : List U32 :=
  match r with
  | none => List.replicate 18 Fp.nan
  | some r =>
    let v (i : Nat) : U32 := r.values.getD i 0
    let ph (i : Nat) : List U32 :=
      if polar then [({ re := v i, im := v (i + 1) } : Cx).mag, Config.fatan2 (v (i + 1)) (v i)] else [v i, v (i + 1)]
    ([0, 2, 4, 6, 9, 11, 13, 15].flatMap ph) ++ [v 8, v 17]

/-- The time-quality code (R202). -/
def State.c37Tq (s : State) : Nat :=
  if !s.timeSync then 0xF else if (s.time.dom s.time.src).state == .holdover then 4 else 0

/-- Sends the data frame of a reporting instant and forgets it. -/
def State.c37Send (n : Nat) (b : Bytes) (f : C37Frame) (s : State) : State :=
  let c := s.c37 n
  let utc := s.utcNs f.t
  let blocks := (pmuList b).map fun i =>
    let r := f.blocks.find? i
    (s.c37Stat c r, c37Vals (bitOf (b.u8 0xD) 0) r)
  let s := s.modC37 n fun c => { c with frames := c.frames.filter fun g => g.tick != f.tick, last := some f.tick }
  if s.c37Sent b && c.on then
    s.emit (.c37Data n (utc / 1000000000 : Nat) (utc % 1000000000 / 1000) s.c37Tq blocks)
  else s

/-- A published result of a PHASOR enters the frames of the streams that name it; a frame with all its blocks is sent. -/
def State.c37Take (r : ResultRec) (s : State) : State :=
  (s.recs 0x5F2).foldl (fun s p =>
    if !(pmuList p.2).contains r.inst || (s.c37 p.1).last.any (fun l => !tickLt l r.tick) then s
    else
      let c := s.c37 p.1
      let f := ((c.frames.find? fun f => f.tick == r.tick).getD { tick := r.tick, t := r.tDecide, firstAt := s.now })
      let f := { f with blocks := f.blocks.put r.inst r }
      if (pmuList p.2).all fun i => (f.blocks.find? i).isSome then s.c37Send p.1 p.2 f
      else s.modC37 p.1 fun c => { c with frames := c.frames.filter (fun g => g.tick != r.tick) ++ [f] }) s

/-- PUB_WAIT has passed since the first block of a frame was published: the frame is sent with what it has (R200). -/
def State.c37Expire (n : Nat) (s : State) : State :=
  match s.rec? 0x5F2 n with
  | none => s
  | some b =>
    ((s.c37 n).frames.filter fun f => f.firstAt + b.u32 0x10 * 1000 * nsF ≤ s.now).foldl (fun s f => s.c37Send n b f) s

/-- A command frame (R200): 1 off, 2 on, 5 send CFG-2, where the stream of that IDCODE accepts commands; every other is
counted. -/
def State.c37Command (idcode cmd : Nat) (s : State) : State :=
  (s.recs 0x5F2).foldl (fun s p =>
    if p.2.u16 0 != idcode then s
    else if !bitOf (p.2.u8 0xD) 2 || !s.feat 15 then s.modC37 p.1 fun c => { c with ignored := satAdd 32 c.ignored 1 }
    else match cmd with
      | 1 => s.modC37 p.1 fun c => { c with on := false }
      | 2 => s.modC37 p.1 fun c => { c with on := true }
      | 5 => if s.c37Sent p.2 then s.emit (.c37Cfg p.1) else s
      | _ => s.modC37 p.1 fun c => { c with ignored := satAdd 32 c.ignored 1 }) s

end Sys2Proof.Machine
end

