-- ==== Sys2Proof/Machine/NetTables.lean ====
section
/-!
DEFINITION. Records of the Ethernet ports and the switch core, their checks, and what the records say of a port, a class, an
address and a window (R365 to R388).
-/
namespace Sys2Proof.Machine

/-! ### Records (R388) -/

/-- The records of PORT_CONFIGURE and SWITCH_CONFIGURE. -/
def netSpec (l : Bool) (rtype obj : Nat) (b : Bytes) : Option RecSpec :=
  let ports := numPorts l
  match rtype with
  | 0xA01 =>
    let fl := b.u16 2
    some (fixedRec 0x1C
      [(0, decide (b.u8 0 ≤ 1)), (1, decide (b.u8 1 ≤ 2)), (2, onlyBits 0xFF fl), (4, decide (b.u8 4 ≤ 1) || b.u8 4 == 0xFF),
       (5, decide (b.u8 5 ≤ 6)), (6, within 1 4094 (b.u16 6)), (8, within 1522 9216 (b.u16 8)), (0xB, zeroAt b 0xB 1),
       (0xC, within 16 8192 (b.u16 0xC)), (0xE, within 10 10000 (b.u16 0xE)), (0x10, decide (b.u32 0x10 ≤ 100000)),
       (0x14, decide (b.u32 0x14 ≤ 100000)), (0x18, onlyBits 0xF (b.u8 0x18)), (0x19, zeroAt b 0x19 3)] (decide (obj < ports))
      ((if bitOf fl 2 then [8] else []) ++ if bitOf fl 3 then [9] else []))
  | 0xA02 =>
    let pcp := b.u32 0xC
    some (fixedRec 0x40
      ([(6, onlyBits 1 (b.u16 6)), (8, within 1 1000 (b.u16 8)), (0xA, decide (b.u16 0xA ≤ 1000)),
        (0xC, decide (pcp < 2 ^ 24) && (List.range 8).all fun i => decide (pcp / 8 ^ i % 8 < 7)),
        (0x10, decide (b.u8 0x10 ≤ 6)), (0x11, decide (b.u8 0x11 ≤ 6))] ++
       ((List.range 4).map fun i => (0x12 + i, within 1 127 (b.u8 (0x12 + i)))) ++ [(0x16, zeroAt b 0x16 2)] ++
       ((List.range 7).map fun i => (0x18 + 2 * i, within 256 32512 (b.u16 (0x18 + 2 * i)))) ++
       [(0x26, zeroAt b 0x26 2), (0x2C, within 1 32 (b.u8 0x2C)), (0x2D, zeroAt b 0x2D 1)]) (decide (obj = 0)))
  | 0xA03 => some (fixedRec 8
      [(0, decide (b.u16 0 < 2 ^ ports)), (2, decide (b.u16 2 < 2 ^ ports)), (4, decide (b.u16 4 < 2 ^ ports)), (6, zeroAt b 6 2)]
      (within 1 4094 obj))
  | 0xA04 => some (fixedRec 0x10
      [(6, within 1 4094 (b.u16 6)), (8, onlyBits (2 ^ ports - 1 + 0x30000) (b.u32 8)), (0xC, zeroAt b 0xC 4)]
      (decide (obj < 4096)))
  | 0xA05 => some (fixedRec 8
      [(0, decide (b.u8 0 ≤ 2)), (2, within 100 10000 (b.u16 2)), (4, zeroAt b 4 4)] (decide (2 * obj < ports))
      (match b.u8 0 with
        | 1 => [6]
        | 2 => [7]
        | _ => []))
  | 0xA06 => some (fixedRec 0x10
      [(1, zeroAt b 1 1), (2, decide (1 ≤ b.u16 2)), (4, decide (b.u16 4 < b.u16 2)), (6, zeroAt b 6 2),
       (0xC, decide (1000 ≤ b.u32 0xC))] (decide (obj < 8 * ports)))
  | 0xA07 => some (fixedRec 8
      [(0, decide (1 ≤ b.u32 0)), (4, within 2048 524288 (b.u32 4))] (decide (obj < 8 * ports) && obj % 8 != 7))
  | 0xA08 => some (fixedRec 0x48
      [(0, decide (b.u16 0 < 2 ^ ports)), (6, within 1 4 (b.u8 6)), (7, zeroAt b 7 1)] (decide (obj = 0)) [11])
  | _ => none

/-- The line rate of a PHY type, in Mb/s (R365). -/
def lineRate : Nat → Nat
  | 0 => 1000
  | 1 => 10000
  | _ => 25000

/-! ### The static entries of the MAC table (R369, R370) -/

/-- The static entries of a configuration: the VLAN (none for every VLAN), address and ports as a mask. -/
def staticEntries (rs : List Rec) : List (Option Nat × BitVec 48 × Nat) :=
  ((recsOf rs 0xA04).map fun r => (some (r.2.u16 6), macAt r.2 0, r.2.u32 8)) ++
  ((recsOf rs 0x301).map fun r => (if r.2.u16 8 = 0xFFFF then none else some (r.2.u16 8), macAt r.2 0, 0x10000)) ++
  ((recsOf rs 0x906).map fun r => (none, macAt r.2 0, 0x10000))

/-- The ports of the static entry of an address in a VLAN: the entries for them merged. -/
def staticPorts (rs : List Rec) (vid : Nat) (mac : BitVec 48) : Option Nat :=
  let es := (staticEntries rs).filter fun e => e.2.1 == mac && e.1.all (· == vid)
  if es.isEmpty then none else some (es.foldl (fun m e => m ||| e.2.2) 0)

/-- The bucket of an address in a VLAN (R370). -/
def macBucket (vid : Nat) (mac : BitVec 48) : Nat :=
  (crc32c (leBytes 2 vid ++ (leBytes 6 mac.toNat).reverse)).toNat % 4096

/-- Adds an element that is not there yet. -/
def addNew {α : Type} [DecidableEq α] (x : α) (xs : List α) : List α := if xs.contains x then xs else xs ++ [x]

/-- The static ways that a configuration takes: an entry for every VLAN takes one in each VLAN that has a record. -/
def staticWays (rs : List Rec) : List (Nat × BitVec 48) :=
  let vids := (recsOf rs 0xA03).map (·.1)
  (staticEntries rs).foldl (fun ws e =>
    match e.1 with
    | some v => addNew (v, e.2.1) ws
    | none => vids.foldl (fun ws v => addNew (v, e.2.1) ws) ws) []

/-- The static ways in a bucket. -/
def waysIn (ws : List (Nat × BitVec 48)) (k : Nat) : Nat := (ws.filter fun w => macBucket w.1 w.2 == k).length

/-! ### Protected windows (R378) -/

/-- The windows of a port: number and record. -/
def windowsOf (rs : List Rec) (p : Nat) : List (Nat × Bytes) :=
  (List.range 8).filterMap fun w => (recIn rs 0xA06 (8 * p + w)).map fun b => (w, b)

/-- Two windows of a port fall in a common tick and overlap there. -/
def windowsOverlap (a b : Bytes) : Bool :=
  let g := Nat.gcd (a.u16 2) (b.u16 2)
  decide (a.u16 4 % g = b.u16 4 % g) && decide (a.u32 8 < b.u32 8 + b.u32 0xC) && decide (b.u32 8 < a.u32 8 + a.u32 0xC)

/-- The ticks of a second, by number, in which the windows of a port cover more than 80 % of the tick. -/
def windowsCover (rate : Nat) (ws : List Bytes) (k : Nat) : Bool :=
  let total := (ws.filter fun b => k % b.u16 2 == b.u16 4).foldl (fun t b => t + b.u32 0xC) 0
  decide (8 * secF < 10 * total * nsF * rate)

/-- The ticks that show every way the windows of a port fall together: below the least common multiple of their EVERY. -/
def windowPeriod (ws : List Bytes) : Nat := ws.foldl (fun l b => Nat.lcm l (b.u16 2)) 1

/-- What is wrong with a window on its own or with those before it. -/
def windowErr (rate : Nat) (rs : List Rec) (p : Nat) (w : Nat × Bytes) : Option CommitErr :=
  let obj := 8 * p + w.1
  let b := w.2
  if rate % b.u16 2 ≠ 0 then some (.field 0xA06 obj 2)
  else if tMin rate < b.u32 8 + b.u32 0xC then some (.field 0xA06 obj 8)
  else
    let before := (windowsOf rs p).filter fun v => v.1 < w.1
    if before.any fun v => windowsOverlap v.2 b then some (.field 0xA06 obj 8)
    else
      let ws := b :: before.map (·.2)
      if (List.range (windowPeriod ws)).any (windowsCover rate ws) then some (.field 0xA06 obj 0xC) else none

/-- The rules across records of the switch core (R370, R378, R383, R388). -/
def netCross (l : Bool) (rate : Nat) (rs : List Rec) : Option CommitErr :=
  let pairs := (recsOf rs 0xA05).find? fun r =>
    r.2.u8 0 != 0 && (recIn rs 0xA01 (2 * r.1)).elim 0 (·.u8 1) != (recIn rs 0xA01 (2 * r.1 + 1)).elim 0 (·.u8 1)
  let pol := (recsOf rs 0xA07).find? fun r =>
    (recIn rs 0xA01 (r.1 / 8)).any fun b => decide (lineRate (b.u8 1) < r.2.u32 0)
  let wins := (List.range (numPorts l)).filterMap fun p => (windowsOf rs p).findSome? (windowErr rate rs p)
  let ways := staticWays rs
  if 256 < (recsOf rs 0xA03).length then some (.noRes 0xA02)
  else match pairs, wins, pol with
    | some r, _, _ => some (.field 0xA05 r.1 0)
    | none, e :: _, _ => some e
    | none, [], some r => some (.field 0xA07 r.1 0)
    | none, [], none =>
      if ways.any fun w => decide (4 < waysIn ways (macBucket w.1 w.2)) then some (.noRes 0xA01) else none

/-! ### What the records say -/

/-- A port. -/
def State.port (s : State) (p : Nat) : Port := s.net.ports.get { } p
/-- Changes a port. -/
def State.modPort (p : Nat) (f : Port → Port) (s : State) : State :=
  { s with net := { s.net with ports := s.net.ports.put p (f (s.port p)) } }

/-- A port is on: it has a PORT record with ENABLE (log entry 70). -/
def State.portOn (s : State) (p : Nat) : Bool := s.fld 0xA01 p 0 (·.u8 0) == 1
/-- A bit of PFLAGS. -/
def State.portFlag (s : State) (p bit : Nat) : Bool := bitOf (s.fld 0xA01 p 0xC0 (·.u16 2)) bit
/-- MAX_FRAME. -/
def State.maxFrame (s : State) (p : Nat) : Nat := s.fld 0xA01 p 1522 (·.u16 8)
/-- RX_PAUSE with its default (R380). -/
def State.rxPause (s : State) (p : Nat) : Bool :=
  match s.fld 0xA01 p 0xFF (·.u8 4) with
  | 0 => false
  | 1 => true
  | _ => !s.portFlag p 1
/-- LT_TOL of a launch queue (R100). -/
def State.ltTol (s : State) (p q : Nat) : Fine := s.fld 0xA01 p 1000 (·.u32 (0x10 + 4 * q)) * nsF
/-- LT_LATE and LT_GUARD of a launch queue. -/
def State.ltLate (s : State) (p q : Nat) : Bool := bitOf (s.fld 0xA01 p 0 (·.u8 0x18)) q
@[inherit_doc State.ltLate] def State.ltGuard (s : State) (p q : Nat) : Bool := bitOf (s.fld 0xA01 p 0 (·.u8 0x18)) (2 + q)
/-- The actual line rate of a port in Mb/s; an internal port runs at 32 Gb/s (R367, R382). -/
def State.rateOf (s : State) (p : Nat) : Nat := if 16 ≤ p then 32000 else lineRate (s.port p).mode
/-- The time that `bits` bits take on a port. -/
def State.bitsTime (s : State) (p bits : Nat) : Fine := bits * 1000 * nsF / s.rateOf p
/-- The device's own Ethernet address (R388). -/
def State.devMac (s : State) : BitVec 48 := (s.rec? 0xA02 0).elim 0 fun b => macAt b 0
/-- ROLE of a port in PTP (R93). -/
def State.ptpRole (s : State) (p : Nat) : Nat := s.fld 0x204 p 0 (·.u8 1)
/-- The redundancy pair of a port and its RMODE, where it is 1 or 2 (R383). -/
def State.redOf (s : State) (p : Nat) : Option (Nat × Nat) :=
  if 16 ≤ p then none
  else match s.fld 0xA05 (p / 2) 0 (·.u8 0) with
    | 0 => none
    | m => some (p / 2, m)
/-- The members, untagged members and flooded members of a VLAN; without a record there are none. -/
def State.vlanMembers (s : State) (vid : Nat) : Nat := s.fld 0xA03 vid 0 (·.u16 0)
@[inherit_doc State.vlanMembers] def State.vlanUntagged (s : State) (vid : Nat) : Nat := s.fld 0xA03 vid 0 (·.u16 2)
@[inherit_doc State.vlanMembers] def State.vlanFlood (s : State) (vid : Nat) : Nat := s.fld 0xA03 vid 0 (·.u16 4)
/-- The class of a PCP. -/
def State.pcpClass (s : State) (pcp : Nat) : Nat := s.fld 0xA02 0 0xDAC688 (·.u32 0xC) / 8 ^ pcp % 8
/-- CLASS_MAX of a class. -/
def State.classMax (s : State) (c : Nat) : Nat := s.fld 0xA02 0 8192 (·.u16 (0x18 + 2 * c))
/-- The ports of a list named by a mask. -/
def portsOf (mask : Nat) : List Nat := (List.range 20).filter (bitOf mask)

/-- EEE is in use on a port (R381). -/
def State.eeeOn (s : State) (p : Nat) : Bool := s.feat 8 && s.portFlag p 2 && s.portOn p
/-- Tw of a port: the agreed value, or the default of its PHY type (R381). -/
def State.portTw (s : State) (p : Nat) : Fine :=
  let t := (s.port p).tw
  (if t = 0 then (if (s.port p).mode = 0 then 17000 else 5000) else t) * nsF

/-- The class of a received frame; none where it is discarded, with whether MOE_REJECT counts it (R368, R70). -/
def State.classify (p : Nat) (f : EthFrame) (s : State) : Option Nat × Bool :=
  let byTag : Nat := match f.tag with
    | some t => s.pcpClass t.pcp.toNat
    | none =>
      match f.body with
      | .sv => s.fld 0xA02 0 6 (·.u8 0x10)
      | .goose => s.fld 0xA02 0 5 (·.u8 0x11)
      | _ => s.fld 0xA01 p 0 (·.u8 5)
  let ip := s.devMac != 0
  match f.body with
  | .ptp _ _ => if s.ptpRole p = 0 then (none, false) else (some 7, false)
  | .moe src port mb =>
    let b := (s.rec? 0xA08 0).getD []
    if !ip || port.toNat != s.fld 0xA08 0 47800 (·.u16 2) then (some byTag, false)
    else
      let listed := (List.range (b.u8 6)).any fun i => Bytes.slice b (8 + 16 * i) 16 == (leBytes 16 src.toNat).reverse
      if s.feat 11 && bitOf (b.u16 0) p && listed && s.isMoe mb.toNat then (some 7, false) else (none, true)
  | .mgmtIp => if ip then (some 7, false) else (some byTag, false)
  | .lldp _ => (some 7, false)
  | _ => if f.dst &&& 0xFFFFFFFFFFF0 == 0x0180C2000000 then (none, false) else (some byTag, false)

/-! ### Windows in time (R378, R379) -/

/-- A window is open at an instant. -/
def windowOpen (rate : Nat) (b : Bytes) (t : Fine) : Bool :=
  let k := tickOf rate t
  let a := tickStart rate k + b.u32 8 * nsF
  k.2 % b.u16 2 == b.u16 4 && decide (a ≤ t ∧ t < a + b.u32 0xC * nsF)

/-- The next opening of a window after an instant. -/
def windowNext (rate : Nat) (b : Bytes) (t : Fine) : Fine :=
  let k := tickOf rate t
  let a := tickStart rate k + b.u32 8 * nsF
  if k.2 % b.u16 2 = b.u16 4 ∧ t < a then a
  else
    let n := b.u16 2
    let d := (b.u16 4 + n - (k.2 + 1) % n) % n
    tickStart rate (addTicks rate k (d + 1)) + b.u32 8 * nsF

/-- The window of a port that is open now. -/
def State.openWindow (s : State) (p : Nat) : Option Bytes :=
  ((windowsOf s.cfg p).find? fun w => windowOpen s.rate w.2 s.now).map (·.2)

/-- The next opening of a window of a port, with its record. -/
def State.nextWindow (s : State) (p : Nat) : Option (Fine × Bytes) :=
  (windowsOf s.cfg p).foldl (fun m w =>
    let t := windowNext s.rate w.2 s.now
    match m with
    | none => some (t, w.2)
    | some x => if t < x.1 then some (t, w.2) else m) none

/-- Whether a frame of a class that takes `len` on the wire may start now, by the windows and LT_GUARD (R101, R379). -/
def State.mayStart (p cls : Nat) (len : Fine) (s : State) : Bool :=
  let win := match s.openWindow p with
    | some b => bitOf (b.u8 0) cls
    | none =>
      match s.nextWindow p with
      | some (t, b) => bitOf (b.u8 0) cls || decide (s.now + len ≤ t)
      | none => true
  let guard (q : Nat) : Bool :=
    !s.ltGuard p q || ((((s.port p).launch.get [] q).head?.bind (·.launch)).all fun t => decide (s.now + len ≤ t))
  win && guard 0 && guard 1

end Sys2Proof.Machine
end

