-- ==== Sys2Proof/Machine/Switch.lean ====
section
/-!
DEFINITION. The switch buffer, the queues of the ports, the residue, launch queues, transmit stamps, the transmitters, links, low-power
idle and the Cullet audit (R95 to R101, R366, R371 to R375, R379 to R382, R384, R385).
-/
namespace Sys2Proof.Machine

/-! ### Cells (R372) -/

/-- Cells that a frame of a length takes. -/
def cellsOf (len : Nat) : Nat := ceilDiv len 256
/-- Cells held by a class. -/
def Net.used (n : Net) (c : Nat) : Nat := n.frames.foldl (fun t f => if f.2.2.1 = c then t + f.2.1 else t) 0
/-- All cells allocated. -/
def Net.usedAll (n : Net) : Nat := n.frames.foldl (fun t f => t + f.2.1) 0
/-- Cells of the shared pool that are free: class 7 draws on it beyond its reserve, and stray cells are lost to it. -/
def Net.sharedFree (n : Net) : Nat :=
  let c7 := n.used 7
  32512 - (n.usedAll - c7) - (c7 - 256) - n.suspect.length
/-- Whether a frame can be allocated. -/
def State.cellsFit (c need : Nat) (s : State) : Bool :=
  let n := s.net
  if c = 7 then decide (need ≤ (256 - n.used 7) + n.sharedFree)
  else decide (n.used c + need ≤ s.classMax c) && decide (need ≤ n.sharedFree)

/-- One copy of a frame has left or is dropped: with the last one its cells are freed. -/
def State.release (id : Nat) (s : State) : State :=
  match s.net.frames.find? id with
  | none => s
  | some (cells, c, n) =>
    if n ≤ 1 then { s with net := { s.net with frames := s.net.frames.erase id, bad := s.net.bad.filter (· != id) } }
    else { s with net := { s.net with frames := s.net.frames.put id (cells, c, n - 1) } }

/-- One more copy of a frame exists. -/
def State.hold (id : Nat) (s : State) : State :=
  match s.net.frames.find? id with
  | none => s
  | some (cells, c, n) => { s with net := { s.net with frames := s.net.frames.put id (cells, c, n + 1) } }

/-- Frames whose transmission has ended give up their cells. -/
def State.netSettle (s : State) : State :=
  (List.range 16).foldl (fun s p =>
    match (s.port p).sending with
    | some id =>
      if (s.port p).busyUntil ≤ s.now then (s.modPort p fun r => { r with sending := none }).release id else s
    | none => s) s

/-! ### Queues (R372, R375) -/

/-- Cells in a class queue of a port. -/
def Port.queueCells (r : Port) (c : Nat) : Nat := (r.queues.get [] c).foldl (fun t q => t + q.cells) 0

/-- Q_MAX of a port. -/
def State.qMax (s : State) (p : Nat) : Nat := s.fld 0xA01 p 1024 (·.u16 0xC)

/-- A port is ready for a copy: its class queue has room, and no residue of that class waits for it. -/
def State.portReady (p c cells : Nat) (s : State) : Bool :=
  decide ((s.port p).queueCells c + cells ≤ s.qMax p) && !(s.net.residue.any fun r => r.port == p && r.q.cls == c)

/-- Puts a copy at the end of its class queue. A port in low-power idle wakes after Tw (R381). -/
def State.pushQueue (p : Nat) (q : QFrame) (s : State) : State :=
  let tw := s.portTw p
  let t := s.now
  s.modPort p fun r => { r with
    queues := r.queues.put q.cls (r.queues.get [] q.cls ++ [q])
    wakeAt := if r.lpiTx && r.wakeAt.isNone then some (t + tw) else r.wakeAt }

/-- Residue copies that a port has room for enter its queues in arrival order; those of a class wait behind one that does not fit. -/
def State.residueFlush (p : Nat) (s : State) : State :=
  let (s, _, rest) := s.net.residue.foldl (fun (x : State × List Nat × List Residue) r =>
    let (s, held, rest) := x
    if r.port != p || held.contains r.q.cls || decide (s.qMax p < (s.port p).queueCells r.q.cls + r.q.cells) then
      (s, if r.port == p then r.q.cls :: held else held, rest ++ [r])
    else (s.pushQueue p r.q, held, rest)) (s, [], [])
  { s with net := { s.net with residue := rest } }

/-- A copy offered to a class queue: a unicast copy that finds no room is dropped, a multicast copy waits as residue. -/
def State.offerCopy (p : Nat) (q : QFrame) (s : State) : State :=
  if s.portReady p q.cls q.cells then (s.pushQueue p q).hold q.id
  else if !q.frame.dst.getLsbD 40 then s.modPort p fun r => { r with qDrop := satAdd 32 r.qDrop 1 }
  else if s.net.residue.length < 1024 then
    State.hold q.id { s with net := { s.net with residue := s.net.residue ++ [{ port := p, q }] } }
  else s.modPort p fun r => { r with mcLagDrop := satAdd 32 r.mcLagDrop 1 }

/-! ### Launch queues (R99, R100) -/

/-- EV_LATE_LAUNCH of a copy. -/
def State.lateLaunch (p q : Nat) (t : Fine) (sent : Bool) (s : State) : State :=
  s.post (mkEv 0x11 p t [(1, q), (1, b2n sent), (2, 0), (4, min ((s.now - t) / nsF) 0xFFFFFFFF)])

/-- Insertion in launch-time order, behind those of the same time. -/
def insertLaunch (x : QFrame) : List QFrame → List QFrame
  | [] => [x]
  | y :: ys => if x.launch.getD 0 < y.launch.getD 0 then x :: y :: ys else y :: insertLaunch x ys

/-- Copies of a launch queue that could not start within LT_TOL are discarded, or sent late under LT_LATE; each raises
EV_LATE_LAUNCH once. -/
def State.launchLate (p q : Nat) (s : State) : State :=
  let tol := s.ltTol p q
  let keep := s.ltLate p q
  let now := s.now
  let due (x : QFrame) : Bool := !x.late && x.launch.any fun t => t + tol < now
  let all := (s.port p).launch.get [] q
  let lates := all.filter due
  let s := lates.foldl (fun s x => s.lateLaunch p q (x.launch.getD 0) keep) s
  if keep then s.modPort p fun r => { r with launch := r.launch.put q (all.map fun x => if due x then { x with late := true } else x) }
  else
    let s := lates.foldl (fun s x => s.release x.id) s
    s.modPort p fun r => { r with launch := r.launch.put q (all.filter fun x => !due x) }

/-- A copy offered to a launch queue: a full queue discards and counts it. -/
def State.offerLaunch (p q : Nat) (x : QFrame) (s : State) : State :=
  let l := (s.port p).launch.get [] q
  if 64 ≤ l.length then s.modPort p fun r => { r with qDrop := satAdd 32 r.qDrop 1 }
  else ((s.modPort p fun r => { r with launch := r.launch.put q (insertLaunch x l) }).hold x.id).launchLate p q

/-! ### Admission (R369, R372) -/

/-- A frame takes its cells, and a copy goes to each destination that is up; `forms` gives the frame as each port sends it, `ready` when
each copy may start, `q` the launch queue of R99. Internal ports take theirs at once. -/
def State.enqueue (ingress : Nat) (f : EthFrame) (cls : Nat) (forms : List (Nat × EthFrame × Fine))
    (launch : Option (Nat × Fine)) (stamp : Option (U16 × Fin 3)) (rx : Option Fine) (s : State) : State :=
  let (live, dead) := forms.partition fun x => decide (16 ≤ x.1) || (s.port x.1).up
  let s := dead.foldl (fun s x => s.modPort x.1 fun r => { r with downDrop := satAdd 32 r.downDrop 1 }) s
  let cells := cellsOf f.len
  if live.isEmpty then s
  else if !s.cellsFit cls cells then
    if ingress < 16 then s.modPort ingress fun r => { r with bufDrop := satAdd 32 r.bufDrop 1 } else s
  else
    let id := s.net.nextId
    let s := { s with net := { s.net with nextId := id + 1, frames := s.net.frames.put id (cells, cls, 1) } }
    let s := { s with net := { s.net with cellsPeak := max s.net.cellsPeak s.net.usedAll } }
    let s := live.foldl (fun s x =>
      let q : QFrame := { id, frame := x.2.1, cls, cells, arrived := s.now, ready := x.2.2, stamp, rx }
      if 16 ≤ x.1 then s.emit (.toInternal x.1 x.2.1)
      else match launch with
        | some (lq, t) => s.offerLaunch x.1 lq { q with launch := some t }
        | none => s.offerCopy x.1 q) s
    s.release id

/-! ### Transmission (R95 to R97, R373, R379) -/

/-- A stamp is written into the transmit time-stamp queue of a port (R96, R97). -/
def State.pushStamp (p : Nat) (t : TxStamp) (s : State) : State :=
  let q := s.time.tsq.get { } p
  if q.items.length < 8 then
    { s with time := { s.time with tsq := s.time.tsq.put p { q with items := q.items ++ [t] } } }
  else
    let was := s.time.tsqOvf.getLsbD p
    let s := { s with time := { s.time with
        tsq := s.time.tsq.put p { q with drops := satAdd 16 q.drops 1 }, tsqOvf := s.time.tsqOvf ||| BitVec.ofNat 16 (2 ^ p) } }
    s.postIf (!was) (mkEv 0x05 p s.now [(2, t.ident.toNat)])

/-- The present time of a time base: 0 domain A, 1 domain B, 2 working time. -/
def State.baseTime (s : State) : Nat → Fine
  | 0 => s.time.domA.t80
  | 1 => s.time.domB.t80
  | _ => s.now

/-- An instant moved by a signed number of ns. -/
def moveNs (t : Fine) (ns : Int) : Fine := ((t : Int) + ns * nsF).toNat

/-- The egress stamp of a frame whose message timestamp point is `ofs` from now, corrected by TX_LAT (R95). -/
def State.egressAt (p base : Nat) (ofs : Fine) (s : State) : Fine :=
  moveNs (s.baseTime base + ofs) ((s.rec? 0x204 p).elim 0 fun b => b.sle 6 2)

/-- The domain of a PTP message that a port sends: the one with its domainNumber. -/
def State.ptpBase (p : Nat) (m : PtpMsg) (s : State) : Nat :=
  if bitOf (s.fld 0x204 p 0 (·.u8 0)) 0 && s.fld 0x202 0 0 (·.u8 2) == m.domainNumber.toNat then 0 else 1

/-- A PTP message leaves a port with egress stamp `t` (R93, R94). A forwarded one-step event message, and the answer to a Pdelay_Req,
gains the time since its ingress stamp `rx`; that of a two-step Sync is kept for its Follow_Up. Hardware enters the origin of a
one-step Sync. -/
def State.ptpLeaves (p base : Nat) (m : PtpMsg) (rx : Option Fine) (t : Fine) (s : State) : State :=
  let mine (r : Residence) : Bool := r.dom == base && r.src == m.src && r.seq == m.seq && r.port == p
  match rx with
  | none => s.emit (.ptp { m with origin := if m.kind == .sync && !m.twoStep then t else m.origin, tx := t })
  | some r =>
    let stay : Int := (t : Int) - r
    if m.kind == .followUp || m.kind == .announce then
      let add := ((s.time.residence.find? mine).elim 0 (·.time) : Int)
      State.emit (.ptp { m with corr := if m.kind == .followUp then m.corr + add else m.corr, tx := t })
        { s with time := { s.time with residence := s.time.residence.filter fun r => !(mine r && m.kind == .followUp) } }
    else if m.kind == .sync && m.twoStep then
      let kept := s.time.residence.take 255
      let r : Residence := { dom := base, src := m.src, seq := m.seq, port := p, time := stay }
      State.emit (.ptp { m with tx := t }) { s with time := { s.time with residence := r :: kept } }
    else s.emit (.ptp { m with corr := if m.kind == .pdelayResp && m.twoStep then m.corr else m.corr + stay, tx := t })

/-- Transmission of a copy starts. `lead` is the time to the message timestamp point: 8 bytes for a frame from a queue, none for a
launch-time frame, whose point is at its launch time (R95, R99). The port is free after the frame, its FCS and the gap (R379). -/
def State.startTx (p : Nat) (q : QFrame) (lead : Fine) (s : State) : State :=
  let dur := s.bitsTime p ((q.frame.len + 12) * 8) + lead
  let s := s.modPort p fun r => { r with
    busyUntil := s.now + dur, sending := some q.id, emptySince := s.now + dur, txFrames := satAdd 32 r.txFrames 1
    ctBad := if q.frame.fcsOk then r.ctBad else satAdd 32 r.ctBad 1 }
  let s := match q.stamp with
    | some (id, base) => s.pushStamp p { ident := id, base, stamp := s.egressAt p base.val lead }
    | none => s
  let s := s.emit (.ethTx p q.frame (q.stamp.map (·.1)))
  match q.frame.body with
  | .ptpOwn m =>
    let base := s.ptpBase p m
    s.ptpLeaves p base m q.rx (s.egressAt p base lead)
  | _ => s

/-- Takes the head of a class queue off, and lets residue in. -/
def State.popQueue (p c : Nat) (s : State) : State :=
  (s.modPort p fun r => { r with queues := r.queues.put c ((r.queues.get [] c).drop 1) }).residueFlush p

/-- The head of a class queue that may start so far as its arrival goes; heads with an uncorrectable word are discarded (R28). -/
def State.readHead : Nat → Nat → Nat → State → Option QFrame × State
  | 0, _, _, s => (none, s)
  | n + 1, p, c, s =>
    match (s.port p).queues.get [] c with
    | [] => (none, s)
    | q :: _ =>
      if s.net.bad.contains q.id then
        let s := { s with net := { s.net with eccDrop := satAdd 32 s.net.eccDrop 1 } }
        ((s.popQueue p c).release q.id).readHead n p c
      else (if q.ready ≤ s.now then some q else none, s)

/-- Whether a head may start; one that may not is deferred, which is counted once, and told once per port and second (R379). -/
def State.tryStart (p c : Nat) (q : QFrame) (s : State) : Bool × State :=
  if s.mayStart p c (s.bitsTime p ((q.frame.len + 20) * 8)) then (true, s)
  else if q.deferred then (false, s)
  else
    let sec := s.now / secF
    let told := (s.port p).deferSec == some sec
    let s := s.modPort p fun r => { r with
      defer_ := satAdd 32 r.defer_ 1, deferSec := some sec
      queues := r.queues.put c ((r.queues.get [] c).map fun x => if x.id == q.id then { x with deferred := true } else x) }
    (false, s.postIf (!told) (mkEv 0x10 p s.now [(1, c)]))

/-- The first class of a list whose head may start. -/
def State.pickStrict (p : Nat) : List Nat → State → Option (Nat × QFrame) × State
  | [], s => (none, s)
  | c :: cs, s =>
    match s.readHead 64 p c with
    | (none, s) => s.pickStrict p cs
    | (some q, s) =>
      match s.tryStart p c q with
      | (true, s) => (some (c, q), s)
      | (false, s) => s.pickStrict p cs

/-- Deficit round robin over classes 0 to 3 (R373): a class whose deficit does not reach its head passes its turn and gains its
quantum when its turn comes again. The fuel covers the turns a longest frame can need. -/
def State.pickWrr : Nat → Nat → List (Nat × QFrame) → State → Option (Nat × QFrame) × State
  | 0, _, _, s => (none, s)
  | n + 1, p, heads, s =>
    let r := s.port p
    let c := r.wrrNext % 4
    let d := r.deficit.get 0 c
    match heads.find? fun h => h.1 == c && decide (h.2.frame.len ≤ d) with
    | some h => (some h, s.modPort p fun r => { r with deficit := r.deficit.put c (d - h.2.frame.len) })
    | none =>
      let c' := (c + 1) % 4
      let gain := s.fld 0xA02 0 1 (·.u8 (0x12 + c')) * 256
      let has := heads.any fun h => h.1 == c'
      State.pickWrr n p heads (s.modPort p fun r => { r with
        wrrNext := c'
        deficit := (if heads.any fun h => h.1 == c then r.deficit else r.deficit.put c 0).put c'
          (if has then r.deficit.get 0 c' + gain else 0) })

/-- The heads of classes 0 to 3 that may start. -/
def State.wrrHeads (p : Nat) : List Nat → State → List (Nat × QFrame) × State
  | [], s => ([], s)
  | c :: cs, s =>
    match s.readHead 64 p c with
    | (none, s) => s.wrrHeads p cs
    | (some q, s) =>
      let (ok, s) := s.tryStart p c q
      let (hs, s) := s.wrrHeads p cs
      (if ok then (c, q) :: hs else hs, s)

/-- The frame that the class queues offer next (R373). -/
def State.pickClass (p : Nat) (s : State) : Option (Nat × QFrame) × State :=
  match s.pickStrict p [7, 6, 5, 4] with
  | (some x, s) => (some x, s)
  | (none, s) =>
    if bitOf (s.fld 0xA02 0 0 (·.u16 6)) 0 then
      let (hs, s) := s.wrrHeads p [0, 1, 2, 3]
      if hs.isEmpty then (none, s) else State.pickWrr 200 p hs s
    else s.pickStrict p [3, 2, 1, 0]

/-- The launch-time frame that is due: the earlier launch time of the two queues, the one queued first where they are equal. -/
def State.launchHead (p : Nat) (s : State) : Option (Nat × QFrame) :=
  let head (q : Nat) : Option (Nat × QFrame) :=
    (((s.port p).launch.get [] q).head?.filter fun x => x.launch.any fun t => decide (t ≤ s.now)).map fun x => (q, x)
  match head 0, head 1 with
  | some a, some b =>
    let ka := a.2.launch.getD 0
    let kb := b.2.launch.getD 0
    some (if kb < ka || (kb == ka && decide (b.2.id < a.2.id)) then b else a)
  | some a, none => some a
  | none, b => b

/-- A port may transmit: it is up, its transmitter is free and not paused (R373, R380, R385). -/
def State.txFree (p : Nat) (s : State) : Bool :=
  let r := s.port p
  r.up && !s.part.inReset && s.gaf.mode != .boot && decide (r.busyUntil ≤ s.now) && r.pauseUntil.all fun t => decide (t ≤ s.now)

/-- The transmitter of a port chooses the next frame and starts it; in low-power idle it wakes first (R373). -/
def State.portSelect (p : Nat) (s : State) : State :=
  let s := s.netSettle
  if !s.txFree p then s
  else
    let s := (s.launchLate p 0).launchLate p 1
    if (s.port p).lpiTx then
      let r := s.port p
      let waiting := r.queues.any (fun q => !q.2.isEmpty) || (s.launchHead p).isSome
      if waiting && r.wakeAt.isNone then s.modPort p fun r => { r with wakeAt := some (s.now + s.portTw p) } else s
    else
      match s.launchHead p with
      | some (lq, q) =>
        let s := s.modPort p fun r => { r with launch := r.launch.put lq ((r.launch.get [] lq).drop 1) }
        if s.net.bad.contains q.id then
          State.release q.id { s with net := { s.net with eccDrop := satAdd 32 s.net.eccDrop 1 } }
        else s.startTx p q 0
      | none =>
        match s.pickClass p with
        | (none, s) => s
        | (some (c, q), s) => (s.popQueue p c).startTx p q (s.bitsTime p 64)

/-! ### Links (R366, R382, R385) -/

/-- Every copy that a port holds is dropped and counted in DOWN_DROP. -/
def State.dropQueued (p : Nat) (s : State) : State :=
  let r := s.port p
  let mine := (s.net.residue.filter fun x => x.port == p).map (·.q)
  let qs := (r.queues.flatMap (·.2)) ++ (r.launch.flatMap (·.2)) ++ mine
  let ids := qs.map (·.id) ++ r.sending.toList
  let s := { s with net := { s.net with residue := s.net.residue.filter fun x => x.port != p } }
  let s := s.modPort p fun r => { r with
    queues := [], launch := [], deficit := [], sending := none, downDrop := satAdd 32 r.downDrop qs.length }
  ids.foldl (fun s id => s.release id) s

/-- A port goes down: what it holds is dropped and its learned entries are removed. -/
def State.portDown (p : Nat) (s : State) : State :=
  let s := s.dropQueued p
  let s := { s with net := { s.net with macs := s.net.macs.filter fun e => e.port != p } }
  s.modPort p fun r => { r with
    up := false, polRev := false, lpiTx := false, wakeAt := none, pauseUntil := none, tw := 0, busyUntil := s.now, downAt := s.now }

/-- The configured PHY type of a port. -/
def State.cfgMode (s : State) (p : Nat) : Nat := s.fld 0xA01 p 0 (·.u8 1)

/-- A port is enabled or retrained: it starts at its configured PHY type. -/
def State.portStart (p : Nat) (s : State) : State :=
  (s.portDown p).modPort p fun r => { r with mode := s.cfgMode p, downshifted := false }

/-- A port's PCS has gained or lost lock. A link lost at a lower PHY type starts again at the configured one. -/
def State.linkChange (p : Nat) (up inverted : Bool) (s : State) : State :=
  let r := s.port p
  if s.part.inReset || s.gaf.mode == .boot || !s.portOn p || r.shed || numPorts s.isL ≤ p then s
  else if up then
    if r.up then s else s.modPort p fun r => { r with up := true, polRev := inverted, emptySince := s.now, busyUntil := s.now }
  else if r.up then s.portStart p else s

/-- 2 s without a link: the next lower PHY type is tried, and after 1000BASE-X the configured one (R382). -/
def State.downshift (p : Nat) (s : State) : State :=
  let r := s.port p
  let cfg := s.cfgMode p
  if s.part.inReset || s.gaf.mode == .boot || !(s.feat 9 && s.portFlag p 3 && s.portOn p) || r.shed || r.up || cfg = 0 ||
      s.now < r.downAt + 2 * secF then s
  else
    let m := if r.mode = 0 then cfg else r.mode - 1
    s.modPort p fun r => { r with mode := m, downshifted := decide (m < cfg), downAt := s.now }

/-- Stage 4 shuts every port without ESSENTIAL down, and recovery starts it again (R385). -/
def State.shedPorts (s : State) : State :=
  (List.range (numPorts s.isL)).foldl (fun s p =>
    if s.portOn p && !s.portFlag p 0 then (s.portDown p).modPort p fun r => { r with shed := true } else s) s
@[inherit_doc State.shedPorts] def State.unshedPorts (s : State) : State :=
  (List.range (numPorts s.isL)).foldl (fun s p =>
    if (s.port p).shed then (s.modPort p fun r => { r with shed := false }).portStart p else s) s

/-- Learned entries that a bucket has no way for, beside the static ones, and those of an address that is now static, go; of several
those last hit longest ago (log entry 71). -/
def State.trimBuckets (s : State) : State :=
  let ways := staticWays s.cfg
  let ms := s.net.macs.filter fun e => (staticPorts s.cfg e.vid e.mac).isNone
  let newest := sortBy (fun a b => decide (b.sec ≤ a.sec)) ms
  let kept := newest.foldl (fun (ks : List MacEntry) e =>
    if (ks.filter fun k => k.bucket == e.bucket).length + waysIn ways e.bucket < 4 then ks ++ [e] else ks) []
  { s with net := { s.net with macs := ms.filter fun e => kept.contains e } }

/-- Port and switch records take effect (R385): `old` is the configuration before. -/
def State.netApply (old : List Rec) (s : State) : State :=
  let s := (List.range (numPorts s.isL)).foldl (fun s p =>
    let was := recIn old 0xA01 p
    let on0 := was.any fun b => b.u8 0 == 1
    let on1 := s.portOn p
    if !on1 then (if on0 then s.portDown p else s)
    else if !on0 || was.elim 0 (·.u8 1) != s.cfgMode p then s.portStart p
    else s) s
  let gone := ((recsOf old 0xA03).map (·.1)).filter fun v => (s.rec? 0xA03 v).isNone
  let s := { s with net := { s.net with macs := s.net.macs.filter fun e => !gone.contains e.vid } }
  let moved := (List.range 8).filter fun p => recIn old 0xA05 p != s.rec? 0xA05 p
  let s := { s with net := { s.net with pairs := s.net.pairs.filter fun r => !moved.contains r.1 } }
  s.trimBuckets

/-! ### Low-power idle (R381) -/

/-- The first launch time or window opening of a port from now on. -/
def State.nextDeadline (p : Nat) (s : State) : Option Fine :=
  let ls := ((s.port p).launch.flatMap (·.2)).filterMap (·.launch)
  let ws := (s.nextWindow p).toList.map (·.1)
  (ls ++ ws).foldl (fun m t => some (m.elim t (min t))) none

/-- The queues of a port have been empty for LPI_IDLE: it enters low-power idle, unless a launch time or a window opening is near. -/
def State.lpiEnter (p : Nat) (s : State) : State :=
  let s := s.netSettle
  let r := s.port p
  let idle := s.fld 0xA01 p 100 (·.u16 0xE) * 1000 * nsF
  if s.eeeOn p && r.up && !r.lpiTx && (r.queues.all fun q => q.2.isEmpty) && r.sending.isNone &&
      !(s.net.residue.any fun x => x.port == p) && decide (r.emptySince + idle ≤ s.now) &&
      (s.nextDeadline p).all (fun t => decide (s.now + 2 * s.portTw p < t)) then
    s.modPort p fun r => { r with lpiTx := true, wakeAt := none }
  else s

/-- A port leaves low-power idle: Tw after a frame came, or Tw before a launch time or window opening. -/
def State.lpiWake (p : Nat) (s : State) : State :=
  let r := s.port p
  if r.lpiTx && (r.wakeAt.any (fun t => decide (t ≤ s.now)) || (s.nextDeadline p).any fun t => decide (t ≤ s.now + s.portTw p)) then
    (s.modPort p fun r => { r with lpiTx := false, wakeAt := none, emptySince := s.now }).portSelect p
  else s

/-! ### Timers and audits -/

/-- The pause time of a port has ended: launch-time frames are treated under R100, and transmission resumes (R380). -/
def State.pauseEnd (p : Nat) (s : State) : State :=
  if (s.port p).pauseUntil.any fun t => decide (t ≤ s.now) then (s.modPort p fun r => { r with pauseUntil := none }).portSelect p else s

/-- RESIDUE_MAX in µs. -/
def State.residueMax (s : State) : Nat := s.fld 0xA02 0 1000 (·.u16 0xA)

/-- Residue copies of a port that have waited RESIDUE_MAX are dropped and counted (R375). -/
def State.residueTimeout (p : Nat) (s : State) : State :=
  let due (x : Residue) : Bool := x.port == p && decide (x.q.arrived + s.residueMax * 1000 * nsF ≤ s.now)
  let gone := s.net.residue.filter due
  let s := { s with net := { s.net with residue := s.net.residue.filter fun x => !due x } }
  let s := s.modPort p fun r => { r with mcLagDrop := satAdd 32 r.mcLagDrop gone.length }
  (gone.foldl (fun s x => s.release x.q.id) s).residueFlush p

/-- AGE_TIME in s. -/
def State.ageTime (s : State) : Nat := s.fld 0xA02 0 300 (·.u16 8)

/-- The ageing sweep removes learned entries last hit more than AGE_TIME seconds ago (R371). -/
def State.ageSweep (s : State) : State :=
  let sec := s.now / secF
  { s with net := { s.net with macs := s.net.macs.filter fun e => decide (sec ≤ e.sec + s.ageTime) } }

/-- The Cullet audit (R384): `stray` are the cells that it finds neither FREE nor OWNED. Those marked at the last audit are reclaimed,
the others are marked. -/
def State.culletAudit (stray : List Nat) (s : State) : State :=
  if s.part.inReset || s.gaf.mode == .boot then s
  else
    let found := stray.foldl (fun xs x => addNew x xs) []
    let got := found.filter s.net.suspect.contains
    let low := got.foldl (fun m x => min m x) 32768
    let s := { s with net := { s.net with
        suspect := found.filter fun x => !got.contains x, culletReclaim := satAdd 32 s.net.culletReclaim got.length } }
    s.postIf (!got.isEmpty) (mkEv 0x0E 0 s.now [(4, got.length), (2, low)])

end Sys2Proof.Machine
end

