-- ==== Sys2Proof/Machine/Forward.lean ====
section
/-!
DEFINITION. Reception, policing, learning and forwarding of frames, redundancy pairs, and the frames that the block itself sends (R367 to
R371, R374, R376, R377, R380, R381, R383).
-/
namespace Sys2Proof.Machine

/-! ### Learning (R370, R371) -/

/-- The learned entry of an address in a VLAN. -/
def Net.learned (n : Net) (vid : Nat) (mac : BitVec 48) : Option MacEntry := n.macs.find? fun e => e.vid == vid && e.mac == mac

/-- Learns a source address. -/
def State.learn (p vid : Nat) (mac : BitVec 48) (s : State) : State :=
  let sec := s.now / secF
  if !s.portFlag p 6 || (staticPorts s.cfg vid mac).isSome then s
  else
    match s.net.learned vid mac with
    | some e =>
      { s with net := { s.net with
          moves := if e.port = p then s.net.moves else satAdd 32 s.net.moves 1
          macs := s.net.macs.map fun x => if x.vid == vid && x.mac == mac then { x with port := p, sec } else x } }
    | none =>
      let k := macBucket vid mac
      let inUse := (s.net.macs.filter fun e => e.bucket == k).length + waysIn (staticWays s.cfg) k
      if 4 ≤ inUse then { s with net := { s.net with learnFull := satAdd 32 s.net.learnFull 1 } }
      else { s with net := { s.net with macs := s.net.macs ++ [{ bucket := k, vid, mac, port := p, sec }] } }

/-! ### Policers (R376, R377) -/

/-- RATE in Mb/s, at most the actual line rate, and BURST in bytes of a policer; class 7 has fixed ones. -/
def State.policer (p c : Nat) (s : State) : Nat × Nat :=
  if c = 7 then (200, 16384)
  else
    let b := s.rec? 0xA07 (8 * p + c)
    (min (lineRate (s.port p).mode) (b.elim (lineRate (s.cfgMode p) / 2) (·.u32 0)), b.elim 32768 (·.u32 4))

/-- One byte of a token bucket. -/
def byteTok : Nat := 1000000000 * 65536

/-- Polices a frame: whether it conforms. A cut-through frame needs 64 bytes at its start and is charged its full length. -/
def State.police (p c len : Nat) (cut : Bool) (s : State) : Bool × State :=
  let (rate, burst) := s.policer p c
  let t := (s.port p).buckets.get { level := (burst * byteTok : Nat), at_ := s.now } c
  let level : Int := min ((burst * byteTok : Nat) : Int) (t.level + ((s.now - t.at_) * rate * 125000 : Nat))
  let ok := decide (((if cut then 64 else len) * byteTok : Nat) ≤ level)
  let level' := if ok then level - (len * byteTok : Nat) else level
  let s := s.modPort p fun r => { r with
    buckets := r.buckets.put c { level := level', at_ := s.now }
    policeDrop := if ok || c = 7 then r.policeDrop else satAdd 32 r.policeDrop 1 }
  (ok, if ok || c ≠ 7 then s else { s with net := { s.net with mgmtPolice := satAdd 32 s.net.mgmtPolice 1 } })

/-! ### Redundancy pairs (R383) -/

/-- A redundancy pair. -/
def State.red (s : State) (i : Nat) : RedPair := s.net.pairs.get { } i
/-- Changes a redundancy pair. -/
def State.modRed (i : Nat) (f : RedPair → RedPair) (s : State) : State :=
  { s with net := { s.net with pairs := s.net.pairs.put i (f (s.red i)) } }

/-- Looks a tagged frame up in the duplicate table: whether it is a duplicate. A first copy is entered; a full table passes it. -/
def State.redSeen (i : Nat) (src : BitVec 48) (seq : U16) (s : State) : Bool × State :=
  let live := (s.red i).dups.filter fun d => decide (s.now < d.at_ + 400000000 * nsF)
  if live.any fun d => d.src == src && d.seq == seq then (true, s.modRed i fun r => { r with dups := live })
  else if 2048 ≤ live.length then
    (false, { (s.modRed i fun r => { r with dups := live }) with net :=
      { (s.modRed i fun r => { r with dups := live }).net with ddFull := satAdd 32 s.net.ddFull 1 } })
  else (false, s.modRed i fun r => { r with dups := live ++ [{ src, seq, at_ := s.now }] })

/-- The next sequence number of an interior source; a source that finds the proxy table full has an open number. -/
def State.redSeqOf (i : Nat) (src : BitVec 48) (s : State) : U16 × State :=
  let ps := (s.red i).proxies
  match ps.find? fun x => x.1 == src with
  | some x => (x.2, s.modRed i fun r => { r with proxies := ps.map fun y => if y.1 == src then (y.1, y.2 + 1) else y })
  | none =>
    if ps.length < 512 then (0, s.modRed i fun r => { r with proxies := ps ++ [(src, 1)] })
    else (Config.redSeq s.free, { s with free := s.free + 1 })

/-- A node heard by its supervision frame enters the node table of a pair. -/
def State.heardNode (i : Nat) (src : BitVec 48) (s : State) : State :=
  s.modRed i fun r =>
    let ns := r.nodes.filter fun n => n.1 != src && decide (s.now < n.2 + 60 * secF)
    { r with nodes := if ns.length < 1024 then ns ++ [(src, s.now)] else ns }

/-! ### Destinations (R369) -/

/-- A frame as a member of its VLAN sends it: untagged where the VLAN says so, tagged with the VID elsewhere. -/
def State.formFor (vid p cls : Nat) (f : EthFrame) (s : State) : EthFrame :=
  if 16 ≤ p || bitOf (s.vlanUntagged vid) p then
    match f.tag with
    | some _ => { f with tag := none, len := f.len - 4 }
    | none => f
  else
    match f.tag with
    | some t => { f with tag := some { t with vid := BitVec.ofNat 12 vid } }
    | none => { f with tag := some { pcp := Config.egressPcp cls, vid := BitVec.ofNat 12 vid }, len := f.len + 4 }

/-- The destinations of an address in a VLAN, less the ingress port (R369). -/
def State.destOf (ingress vid : Nat) (dst : BitVec 48) (s : State) : List Nat :=
  let mask := match staticPorts s.cfg vid dst, s.net.learned vid dst with
    | some m, _ => m
    | none, some e => 2 ^ e.port
    | none, none =>
      if dst.getLsbD 40 then s.vlanFlood vid &&& s.vlanMembers vid
      else maskOf 16 fun p => bitOf (s.vlanMembers vid) p && !s.portFlag p 4
  (portsOf mask).filter fun p => p != ingress && (decide (16 ≤ p) || (s.portOn p && !(s.port p).shed))

/-- A frame from the interior as each destination sends it: a port of a redundancy pair stands for both, each with the tag or trailer
of the pair (R383). -/
def State.redForms (f : EthFrame) (dests : List Nat) (form : Nat → EthFrame → EthFrame) (s : State) :
    List (Nat × EthFrame) × State :=
  let ptp := match f.body with
    | .ptp _ _ | .ptpOwn _ => true
    | _ => false
  dests.foldl (fun (x : List (Nat × EthFrame) × State) p =>
    let (out, s) := x
    match s.redOf p with
    | none => (out ++ [(p, form p f)], s)
    | some (i, _) =>
      if ptp then (out ++ [(p, form p f)], s)
      else if out.any fun o => o.1 / 2 == i && decide (o.1 < 16) then (out, s)
      else
        let (seq, s) := s.redSeqOf i f.src
        let g (q : Nat) : Nat × EthFrame :=
          let e := form q f
          (q, { e with red := some seq, len := e.len + 6 })
        (out ++ [g (2 * i), g (2 * i + 1)], s)) ([], s)

/-- A copy is forwarded cut-through (R374). -/
def State.cutThrough (ingress p cls : Nat) (s : State) : Bool :=
  decide (p < 16) && bitOf (s.fld 0xA01 p 0xFF (·.u8 0xA)) cls && decide (s.rateOf p ≤ s.rateOf ingress) &&
  (s.redOf ingress).all fun r => r.2 != 1

/-! ### Reception (R369) -/

/-- A pause frame (R380). -/
def State.pauseFrame (p : Nat) (quanta : U16) (s : State) : State :=
  let on := s.rxPause p
  let t := s.now + s.bitsTime p (quanta.toNat * 512)
  s.modPort p fun r => { r with
    pauseRx := satAdd 32 r.pauseRx 1, pauseUntil := if on then (if quanta = 0 then none else some t) else r.pauseUntil }

/-- A frame that has passed the checks of its port is classed, policed and admitted; `ring` is the other ring port where HSR sends it
on, with its tag. -/
def State.forward (p vid : Nat) (f : EthFrame) (ring : Option (Nat × EthFrame)) (s : State) : State :=
  match s.classify p f with
  | (none, rej) => if rej then { s with net := { s.net with moeReject := satAdd 32 s.net.moeReject 1 } } else s
  | (some cls, _) =>
    let mine := (s.redOf p).elim (fun (_ : Nat) => false) fun r q => decide (q / 2 = r.1) && decide (q < 16)
    let dests :=
      if cls = 7 then [17]
      else match f.body with
        | .c37Cmd => [19]
        | _ => (s.destOf p vid f.dst).filter fun q => !mine q
    let known := (staticPorts s.cfg vid f.dst).isSome || (s.net.learned vid f.dst).isSome || cls = 7
    let interior := !f.dst.getLsbD 40 && !dests.isEmpty && known
    let (forms, s) := s.redForms f dests fun q g => s.formFor vid q cls g
    let forms := forms ++ (if interior then [] else ring.toList)
    let cut := forms.filter fun x => s.cutThrough p x.1 cls
    let (ok, s) := s.police p cls f.len (!cut.isEmpty)
    if !ok then s
    else
      let rest := s.bitsTime p ((f.len - 64) * 8)
      let forms := if f.fcsOk then forms else cut
      s.enqueue p f cls (forms.map fun x => (x.1, x.2, if s.cutThrough p x.1 cls then s.now else s.now + rest)) none none none

/-- A frame received on an ETH port. The instant of the command is the arrival of its first 64 bytes (log entry 72). -/
def State.ethRx (p : Nat) (f : EthFrame) (s : State) : State :=
  let r := s.port p
  if s.part.inReset || s.gaf.mode == .boot || !r.up then s
  else
    let s := s.netSettle
    let s := s.modPort p fun r => { r with
      rxFrames := satAdd 32 r.rxFrames 1, fcsErr := if f.fcsOk then r.fcsErr else satAdd 32 r.fcsErr 1 }
    if f.len < 64 || s.maxFrame p < f.len || f.src.getLsbD 40 then s
    else
      match f.body with
      | .pause q => if f.fcsOk then s.pauseFrame p q else s
      | _ =>
        let vid := match f.tag with
          | some t => if t.vid = 0 then s.fld 0xA01 p 1 (·.u16 6) else t.vid.toNat
          | none => s.fld 0xA01 p 1 (·.u16 6)
        if s.portFlag p 7 && !bitOf (s.vlanMembers vid) p then s.modPort p fun r => { r with vlanDrop := satAdd 32 r.vlanDrop 1 }
        else
          let s := match f.body with
            | .lldp tw => if s.eeeOn p then s.modPort p fun r => { r with tw } else s
            | _ => s
          let go (f : EthFrame) (ring : Option (Nat × EthFrame)) (s : State) : State :=
            (if f.fcsOk then s.learn p vid f.src else s).forward p vid f ring
          match s.redOf p, f.body with
          | some _, .ptp _ _ => go f none s
          | some (i, m), body =>
            let s := match body with
              | .supervision => s.heardNode i f.src
              | _ => s
            if m = 2 && ((s.red i).proxies.any (fun x => x.1 == f.src) || f.src == s.devMac) then s
            else
              match f.red with
              | none => go f none s
              | some seq =>
                let (dup, s) := s.redSeen i f.src seq
                if dup then s.modPort p fun r => { r with ddDiscard := satAdd 32 r.ddDiscard 1 }
                else go { f with red := none, len := f.len - 6 } (if m = 2 then some (if p % 2 = 0 then p + 1 else p - 1, f) else none) s
          | none, _ => go f none s

/-! ### Frames that the block sends (R367, R197, R351, R400, R401) -/

/-- Sends a frame from an internal port to named ports, in a class, with a launch time and a stamp where it has them. -/
def State.sendOwn (from_ : Nat) (f : EthFrame) (cls : Nat) (dests : List Nat) (launch : Option (Nat × Fine))
    (stamp : Option (U16 × Fin 3)) (s : State) : State :=
  if s.part.inReset || s.gaf.mode == .boot then s
  else
    let s := s.netSettle
    let (forms, s) := s.redForms f dests fun _ g => g
    s.enqueue from_ f cls (forms.map fun x => (x.1, x.2, s.now)) launch stamp none

/-- A GOOSE frame goes to the ports of its record, in the class of its tag; a frame with a launch time to their launch queue 1. A
state-change frame asks for a stamp under EGRESS_STAMP. Its length is the largest encoding of the block (log entry 73). -/
def State.sendGoose (cb : Nat) (stNum sqNum : U32) (launch : Option Fine) (s : State) : State :=
  match s.rec? 0x5F0 cb with
  | none => s
  | some b =>
    let tag : Option VlanTag := if b.u16 8 = 0xFFFF then none
      else some { pcp := BitVec.ofNat 3 (b.u8 0xA), vid := BitVec.ofNat 12 (b.u16 8) }
    let cls := match tag with
      | some t => s.pcpClass t.pcp.toNat
      | none => s.fld 0xA02 0 5 (·.u8 0x11)
    let encs := (s.gooseMembers cb).map fun m => m.u8 4
    let f : EthFrame := { dst := macAt b 0, src := s.devMac, tag, body := .gooseOwn cb stNum sqNum, len := max 64 (gooseFrameMax b encs) }
    let stamp : Option (U16 × Fin 3) := if bitOf (b.u8 0xB) 1 && sqNum == 0 then some (BitVec.ofNat 16 cb, 2) else none
    s.sendOwn 19 f cls (portsOf (b.u16 0xC)) (launch.map fun t => (1, t)) stamp

/-- The class of an untagged frame of an internal port (log entry 74). -/
def ownClass : Nat := 0

/-- A C37.118.2 frame goes to the ports of its record. -/
def State.sendC37 (n len : Nat) (s : State) : State :=
  match s.rec? 0x5F2 n with
  | none => s
  | some b =>
    let dst := Config.resolve (BitVec.ofNat 128 (0xFFFF00000000 + b.u32 4))
    s.sendOwn 19 { dst, src := s.devMac, body := .c37Own n, len } ownClass (portsOf (b.u16 0xA)) none none

/-- An IP datagram of the device in its IP VLAN: to the port of the address that its destination resolves to. -/
def State.sendIp (from_ : Nat) (ip : BitVec 128) (body : EthBody) (len cls : Nat) (s : State) : State :=
  let vid := s.fld 0xA02 0 0 (·.u16 0x2E)
  let f : EthFrame := { dst := Config.resolve ip, src := s.devMac, body, len }
  let dests := s.destOf from_ vid f.dst
  let s := s.netSettle
  let (forms, s) := s.redForms f dests fun q g => s.formFor vid q cls g
  s.enqueue from_ f cls (forms.map fun x => (x.1, x.2, s.now)) none none none

/-- Bytes of Ethernet, IP and UDP headers with the FCS about a payload. -/
def udpLen (ip : BitVec 128) (payload : Nat) : Nat := max 64 (14 + (if ip.toNat / 2 ^ 32 = 0xFFFF then 20 else 40) + 8 + payload + 4)

/-- The frames of what a command drove out: publications, completions and telemetry enter the switch core. -/
def State.outFrames (s : State) : State :=
  s.emitted.foldl (fun s o =>
    match o with
    | .goose cb st sq _ _ _ _ launch => s.sendGoose cb st sq launch
    | .c37Data n _ _ _ blocks => s.sendC37 n (udpLen (0xFFFF00000000 : BitVec 128) (16 + 74 * blocks.length)) 
    | .c37Cfg n => s.sendC37 n (udpLen (0xFFFF00000000 : BitVec 128) (24 + (s.fld 0x5F2 n 0 (·.u8 0xC)) * 230))
    | .moe mb _ dst cs =>
      s.sendIp 17 dst (.moeOwn mb) (udpLen dst (16 + cs.foldl (fun n c => n + 64 + c.extra.length) 0)) 7
    | .telemetry _ dseq _ items =>
      let dst := (s.rec? 0xB02 0).elim 0 fun b => BitVec.ofNat 128 (leNat (Bytes.slice b 0 16).reverse)
      let len := 16 + items.foldl (fun n i => n + 4 + (padTo 4 i.2).length) 0
      s.sendIp 18 dst (.telemetryOwn dseq) (udpLen dst len) (s.fld 0xB02 0 2 (·.u8 0x16))
    | _ => s) s

/-- Merges completion batches of one mailbox, SEQ and address that a command produced, as long as a batch fits the port MTU (R71). -/
def mergeMoe (mtu : Nat) : List Output → List Output
  | [] => []
  | .moe m q d cs :: os =>
    match mergeMoe mtu os with
    | .moe m' q' d' cs' :: r =>
      let size := fun (xs : List Completion) => xs.foldl (fun n c => n + 64 + c.extra.length) 16
      if m == m' && q == q' && d == d' && decide (udpLen d (size (cs ++ cs')) ≤ mtu) then .moe m q d (cs ++ cs') :: r
      else .moe m q d cs :: .moe m' q' d' cs' :: r
    | r => .moe m q d cs :: r
  | o :: os => o :: mergeMoe mtu os

/-- What a command drove out, with its frames in the switch core. -/
def State.netOut (s : State) : State :=
  let mtu := (List.range 16).foldl (fun m p => if bitOf (s.fld 0xA08 0 0 (·.u16 0)) p then min m (s.maxFrame p) else m) 9216
  State.outFrames { s with emitted := mergeMoe mtu s.emitted }

/-- LLDP with the wake time, on a port that uses EEE, every 30 s (R381). -/
def State.lldpSend (p : Nat) (s : State) : State :=
  let r := s.port p
  if s.eeeOn p && r.up && s.fwRuns && decide (r.lldpAt + 30 * secF ≤ s.now) then
    let f : EthFrame := { dst := 0x0180C200000E, src := s.devMac, body := .lldp (s.portTw p / nsF), len := 64 }
    (s.modPort p fun r => { r with lldpAt := s.now }).sendOwn 17 f 7 [p] none none
  else s

/-- Every LIFE_CHECK a pair sends supervision frames for the RedBox and for each proxy node, and forgets nodes not heard for 60 s. -/
def State.lifeCheck (i : Nat) (s : State) : State :=
  match s.rec? 0xA05 i with
  | none => s
  | some b =>
    let r := s.red i
    if b.u8 0 = 0 || !s.fwRuns || s.gaf.mode == .boot || s.now < r.lifeAt + b.u16 2 * 1000000 * nsF then s
    else
      let dst : BitVec 48 := BitVec.ofNat 48 (0x01154E000100 + b.u8 1)
      let s := s.modRed i fun r => { r with lifeAt := s.now, nodes := r.nodes.filter fun n => decide (s.now < n.2 + 60 * secF) }
      (s.devMac :: (r.proxies.map (·.1)).filter (· != s.devMac)).foldl (fun s node =>
        (s.emit (.supervision i node)).sendOwn 17 { dst, src := node, body := .supervision, len := 64 } 7 [2 * i] none none) s

/-! ### Meanings -/

/-- ETH_FRAME_RX (R369). -/
def execEthFrameRx (dt : Nat) (port : Fin 16) (f : EthFrame) (s : State) : Host.Outcome State Fault Refusal :=
  goOn dt (State.ethRx port.val f) s

/-- PORT_TRANSMIT_SELECT (R373). -/
def execPortTransmitSelect (dt : Nat) (port : Fin 16) (s : State) : Host.Outcome State Fault Refusal :=
  goOn dt (State.portSelect port.val) s

/-- LAUNCH_DUE: the head of a launch queue has reached its launch time; it starts if the transmitter is free (R99, R101). -/
def execLaunchDue (dt : Nat) (port : Fin 16) (q : Fin 2) (s : State) : Host.Outcome State Fault Refusal :=
  goOn dt (fun s =>
    if ((s.port port.val).launch.get [] q.val).head?.any fun x => x.launch.any fun t => decide (t ≤ s.now) then s.portSelect port.val
    else s) s

/-- LAUNCH_TOL_EXPIRY (R100). -/
def execLaunchTolExpiry (dt : Nat) (port : Fin 16) (q : Fin 2) (s : State) : Host.Outcome State Fault Refusal :=
  goOn dt (State.launchLate port.val q.val) s

/-- PAUSE_EXPIRY (R380). -/
def execPauseExpiry (dt : Nat) (port : Fin 16) (s : State) : Host.Outcome State Fault Refusal := goOn dt (State.pauseEnd port.val) s

/-- RESIDUE_TIMEOUT (R375). -/
def execResidueTimeout (dt : Nat) (port : Fin 16) (s : State) : Host.Outcome State Fault Refusal :=
  goOn dt (State.residueTimeout port.val) s

/-- PORT_LINK_CHANGE (R366). -/
def execPortLinkChange (dt : Nat) (port : Fin 16) (up inverted : Bool) (s : State) : Host.Outcome State Fault Refusal :=
  goOn dt (State.linkChange port.val up inverted) s

/-- MAC_AGEING_SWEEP (R371). -/
def execMacAgeingSweep (dt : Nat) (s : State) : Host.Outcome State Fault Refusal := goOn dt State.ageSweep s

/-- CULLET_AUDIT (R384). -/
def execCulletAudit (dt : Nat) (stray : List (Fin 32768)) (s : State) : Host.Outcome State Fault Refusal :=
  goOn dt (State.culletAudit (stray.map (·.val))) s

/-- LPI_IDLE_EXPIRY (R381). -/
def execLpiIdleExpiry (dt : Nat) (port : Fin 16) (s : State) : Host.Outcome State Fault Refusal := goOn dt (State.lpiEnter port.val) s

/-- LPI_WAKE (R381). -/
def execLpiWake (dt : Nat) (port : Fin 16) (s : State) : Host.Outcome State Fault Refusal := goOn dt (State.lpiWake port.val) s

/-- DOWNSHIFT_TIMER (R382). -/
def execDownshiftTimer (dt : Nat) (port : Fin 16) (s : State) : Host.Outcome State Fault Refusal := goOn dt (State.downshift port.val) s

/-- LIFE_CHECK (R383). -/
def execLifeCheck (dt : Nat) (pair : Fin 8) (s : State) : Host.Outcome State Fault Refusal := goOn dt (State.lifeCheck pair.val) s

/-- LLDP_TRANSMIT (R381). -/
def execLldpTransmit (dt : Nat) (port : Fin 16) (s : State) : Host.Outcome State Fault Refusal := goOn dt (State.lldpSend port.val) s

/-- PROTECTED_WINDOW: a window of a port opens or closes, and the heads that may start now are looked at again (R379). -/
def execProtectedWindow (dt : Nat) (port : Fin 16) (w : Fin 8) (s : State) : Host.Outcome State Fault Refusal :=
  goOn dt (fun s => if (s.rec? 0xA06 (8 * port.val + w.val)).isSome then s.portSelect port.val else s) s

end Sys2Proof.Machine
end

