-- ==== Sys2Proof/Machine/Gather.lean ====
section
/-!
DEFINITION. The Gather: landing deadlines, comparison of pairs, divergence and votes, restarts, retirement of engines, and
publication in order (R182 to R195).
-/
namespace Sys2Proof.Machine

/-! ### Retirement (R193) -/

/-- EV_PLACEMENT (R392). -/
def State.evPlacement (src reason : Nat) (s : State) : State :=
  s.post (mkEv 0x13 src s.now [(1, reason), (3, 0), (4, s.place.digest.toNat), (4, s.cfgGen.toNat)])

/-- An engine of an instance is retired: from the next tick, `from_`, its spare takes the role, or the instance is left without a
role engine (R193). -/
def Inst.lose (e : Nat) (single spareOut : Bool) (from_ : Nat × Nat) (x : Inst) : Inst :=
  let r := x.roles
  let isP := e == r.primary
  let isT := e == r.twin
  if isP || isT then
    if single then { x with dead := some from_ }
    else match x.stand with
      | some d =>
        if d.primary == isP then { x with stand := some { d with perm := true, until_ := none } } else { x with dead := some from_ }
      | none =>
        if r.spare == 255 || spareOut then { x with dead := some from_ }
        else { x with stand := some { primary := isP, first := from_, perm := true } }
  else if e == r.spare && x.stand.isSome then { x with dead := some from_ }
  else x

/-- Retires an engine. -/
def State.retire (e reason : Nat) (s : State) : State :=
  if (s.engine e).retired then s
  else
    let k := nextTick s.rate s.tick
    let s := (s.modEngine e fun g => { g with retired := true, lastTick := s.tick }).evPlacement e reason
    (s.recs 0x501).foldl (fun s r =>
      let x := s.inst r.1
      s.modInst r.1 fun x' => x'.lose e (isSingle r.2) (x.roles.spare < 255 && (s.engine x.roles.spare).retired) k) s

/-- An engine has lost a vote; 3 within 60 s retire it. -/
def State.loseVote (e : Nat) (s : State) : State :=
  let s := s.modEngine e fun g =>
    { g with votesLost := satAdd 32 g.votesLost 1, lostAt := (s.now :: g.lostAt.filter fun t => s.now < t + 60 * secF) }
  if 3 ≤ (s.engine e).lostAt.length then s.retire e 1 else s

/-- An uncorrectable error in an engine's local memory; 2 within 60 s retire it (R28, R193). -/
def State.engineEcc (e : Nat) (s : State) : State :=
  let s := s.modEngine e fun g =>
    { g with bad := true, eccUncorr := satAdd 32 g.eccUncorr 1
             eccAt := (s.now :: g.eccAt.filter fun t => s.now < t + 60 * secF) }
  if 2 ≤ (s.engine e).eccAt.length then s.retire e 2 else s

/-! ### Decisions -/

/-- A substitute record (R192). Its STATE_DIGEST is that of no execution and reads 0 (log entry 51). -/
def State.substituteRec (n : Nat) (b : Bytes) (k : Nat × Nat) (q : Quality) (s : State) : ResultRec :=
  let parts := typeParts (b.u8 0)
  { inst := n, ftype := b.u8 0, pclass := classOf b, quality := qOr [q, qInvalid], tick := k, tDecide := tickStart s.rate k
    exec := 3, parts, digest := 0, outbits := 0, values := List.replicate (9 * parts) 0 }

/-- A tick of an instance is decided (R184, R191): its divergence is over, and a loser of an earlier vote that can meet its
next deadline has its role again. -/
def State.decideTick (n : Nat) (b : Bytes) (k : Nat × Nat) (s : State) : State :=
  let cost := (s.place.insts.get { } n).cost * nsF
  let resume (first : Nat × Nat) : Nat × Nat :=
    let e := everyTicks s.rate b ((s.inst n).settingsAt k)
    (((List.range 8).map fun i => addTicks s.rate first ((i + 1) * e)).find? fun m =>
      decide (s.now + cost ≤ s.landingDeadline n b m)).getD (addTicks s.rate first (9 * e))
  s.modInst n fun x =>
    { x with
      duels := x.duels.filter fun d => d.tick != k
      decided := some (x.decided.elim k (tickMax k))
      stand := match x.stand with
        | some d =>
          if d.perm then some d
          else if d.until_.isNone && !tickLt k d.first then some { d with until_ := some (resume d.first) }
          else if d.until_.any fun u => !tickLt k u then none
          else some d
        | none => none }

/-- Outcome 3 or 4 restarts the instance from its initial state at the first tick that starts afterwards; the third within
60 s stops it (R192). -/
def State.restartInst (n : Nat) (b : Bytes) (s : State) : State :=
  let x := s.inst n
  let k := nextTick s.rate s.tick
  let outs := s.now :: x.outcomes.filter fun t => s.now < t + 60 * secF
  let stop := 3 ≤ outs.length
  let s := s.modInst n fun x =>
    { x with hist := [], start := some k, restarted := some k, done := [], duels := [], outcomes := outs, stopped := stop
             stand := x.stand.bind fun d => if d.perm then some d else none
             decided := tickBefore s.rate k }
  s.postIf (stop && !x.stopped) (mkEv 0x18 n s.now [(2, s.tick.2), (1, b.u8 0)])

/-- The spare of an instance for a tick: none where it has taken a role permanently or has been retired (R193). -/
def State.spareAt (n : Nat) (k : Nat × Nat) (s : State) : Nat :=
  let x := s.inst n
  if x.roles.spare == 255 || x.stand.any (fun d => d.perm && !tickLt k d.first) || !(s.engine x.roles.spare).runs k then 255
  else x.roles.spare

/-- EV_DIVERGE (R189, R392). Of a role that the spare took permanently, it names the spare. -/
def State.evDiverge (n : Nat) (k : Nat × Nat) (cause outcome : Nat) (s : State) : State :=
  let x := s.inst n
  let took (primary : Bool) (e : Nat) : Nat := if x.stand.any (fun d => d.perm && d.primary == primary && !tickLt k d.first) then x.roles.spare else e
  s.post (mkEv 0x02 n (tickStart s.rate k)
    [(2, k.2), (1, cause), (1, outcome), (1, took true x.roles.primary), (1, took false x.roles.twin), (1, s.spareAt n k)])

/-- No majority or no spare: a substitute, and a restart (R190, R192). Answers what is to be published. -/
def State.noMajority (n : Nat) (b : Bytes) (d : Duel) (outcome : Nat) (s : State) : State × List ResultRec :=
  let q := qOr ((d.prim.toList ++ d.twin.toList).map fun r => r.rec_.quality)
  let s := s.evDiverge n d.tick d.cause outcome
  ((s.decideTick n b d.tick).restartInst n b, [s.substituteRec n b d.tick q])

/-- A pair mismatches for a tick (R189): the spare is ordered to re-run it, unless there is none or it holds a role. -/
def State.diverge (n : Nat) (b : Bytes) (d : Duel) (cause : Nat) (s : State) : State × List ResultRec :=
  let x := s.inst n
  let s := s.evDiverge n d.tick cause 0
  let d := { d with cause, limit := s.landingDeadline n b d.tick + (tickStart s.rate (nextTick s.rate d.tick) - tickStart s.rate d.tick) }
  let standing := x.stand.any fun a => !tickLt d.tick a.first && a.until_.all fun u => tickLt d.tick u
  if standing then s.noMajority n b d (if x.stand.any (·.perm) then 4 else 3)
  else if s.spareAt n d.tick == 255 then s.noMajority n b d 4
  else (s.modInst n fun x => { x with duels := (x.duels.filter fun y => y.tick != d.tick) ++ [d] }, [])

/-- Whether the spare's record equals a record set aside: over every byte, and neither with an uncorrectable error. -/
def agrees (a b : Option Landed) : Bool :=
  match a, b with
  | some x, some y => !x.ecc && !y.ecc && x.rec_ == y.rec_
  | _, _ => false

/-- The vote (R190, R191). -/
def State.vote (n : Nat) (b : Bytes) (d : Duel) (s : State) : State × List ResultRec :=
  let x := s.inst n
  let wins (r : Option Landed) (outcome : Nat) (loserPrimary : Bool) : State × List ResultRec :=
    let s := s.evDiverge n d.tick d.cause outcome
    let first := (((List.range 64).map fun i => addTicks s.rate d.tick (i + 1)).find? fun k =>
      !(x.decided.any fun z => !tickLt z k) || x.duels.any fun y => y.tick == k && y.tick != d.tick).getD (nextTick s.rate d.tick)
    let loser := if loserPrimary then x.roles.primary else x.roles.twin
    let s := s.decideTick n b d.tick
    let s := s.modInst n fun x =>
      { x with
        stand := if x.stand.any (·.perm) then x.stand else some { primary := loserPrimary, first }
        digest := r.map fun y => (d.tick, y.rec_.digest)
        duels := x.duels.map fun y =>
          if tickLt y.tick first then y else if loserPrimary then { y with prim := none } else { y with twin := none } }
    (s.loseVote loser, r.toList.map fun y => { y.rec_ with exec := 1, quality := y.rec_.quality ||| qLate })
  if agrees d.spare d.prim then wins d.prim 1 false
  else if agrees d.spare d.twin then wins d.twin 2 true
  else s.noMajority n b d 3

/-! ### A pass -/

/-- A record that counts for nothing (R183, R191). -/
def State.discard (e : Nat) (s : State) : State := s.modEngine e fun g => { g with lateRecords := satAdd 32 g.lateRecords 1 }

/-- The tick of an instance that comes after the last one decided. -/
def State.nextDue (n : Nat) (b : Bytes) (s : State) : Option (Nat × Nat) :=
  let x := s.inst n
  x.start.map fun st =>
    let k := match x.decided with
      | some d => tickMax (nextTick s.rate d) st
      | none => st
    execFrom s.rate b (x.settingsAt k) k

/-- The tick after the last one decided of an instance that publishes substitutes (R192). -/
def State.nextIdle (n : Nat) (s : State) : Option (Nat × Nat) :=
  let x := s.inst n
  x.start.map fun st => x.decided.elim st fun d => tickMax (nextTick s.rate d) st

/-- Handles one landed record (R184). -/
def State.takeRecord (acc : State × List ResultRec) (l : Landed) : State × List ResultRec :=
  let s := acc.1
  let n := l.rec_.inst
  match s.rec? 0x501 n with
  | none => acc
  | some b =>
    let x := s.inst n
    let give (r : State × List ResultRec) : State × List ResultRec := (r.1, acc.2 ++ r.2)
    if isSingle b then
      let r := if l.ecc then s.substituteRec n b l.k l.rec_.quality else { l.rec_ with exec := 2 }
      (s.decideTick n b l.k, acc.2 ++ [r])
    else if l.rerun then
      match x.duels.find? fun d => d.tick == l.k && d.cause != 0 with
      | some d => if d.limit < l.at_ then (s.discard l.eng, acc.2) else give (s.vote n b { d with spare := some l })
      | none => (s.discard l.eng, acc.2)
    else
      let open_ := x.duels.find? fun d => d.tick == l.k
      let past := open_.isNone && x.decided.any fun z => !tickLt z l.k
      let asP := l.eng == x.holder true l.k
      let asT := l.eng == x.holder false l.k
      let d := open_.getD { tick := l.k }
      let filled := if asP then d.prim.isSome else d.twin.isSome
      if past || !(asP || asT) || filled || s.landingDeadline n b l.k < l.at_ || tickLt l.k (x.start.getD l.k) then
        (s.discard l.eng, acc.2)
      else
        let d := if asP then { d with prim := some l } else { d with twin := some l }
        match d.prim, d.twin with
        | some p, some t =>
          if d.cause != 0 then
            (s.modInst n fun x => { x with duels := x.duels.map fun y => if y.tick == l.k then d else y }, acc.2)
          else if p.ecc || t.ecc then give (s.diverge n b d 3)
          else if p.rec_ == t.rec_ then
            ((s.decideTick n b l.k).modInst n fun x => { x with digest := some (l.k, l.rec_.digest) }, acc.2 ++ [p.rec_])
          else give (s.diverge n b d 1)
        | _, _ =>
          (s.modInst n fun x => { x with duels := (x.duels.filter fun y => y.tick != l.k) ++ [d] }, acc.2)

/-- Checks the landing deadlines of one instance that have passed (R183), at most `fuel` ticks; ends votes whose limit has
passed; a stopped, dead or shed instance publishes a substitute (R192, R193). -/
def State.deadlines (n : Nat) (b : Bytes) : Nat → State × List ResultRec → State × List ResultRec
  | 0, acc => acc
  | fuel + 1, (s, out) =>
    let x := s.inst n
    let idle := x.stopped || x.dead.any (fun f => (s.nextDue n b).all fun k => !tickLt k f) || (isSingle b && 3 ≤ s.pwr.stage)
    -- a vote that can wait no longer
    match x.duels.find? fun d => d.cause != 0 && d.limit < s.now with
    | some d =>
      let (s, r) := s.vote n b d
      State.deadlines n b fuel (s, out ++ r)
    | none =>
      if idle then
        -- one for every tick, from its start, also of a type that executes in some ticks only
        match s.nextIdle n with
        | none => (s, out)
        | some k =>
          let k := x.dead.elim k (tickMax k)
          if s.now < tickStart s.rate k then (s, out)
          else
            let k := tickMax k s.tick
            (s.decideTick n b k, out ++ [s.substituteRec n b k 0])
      else match s.nextDue n b with
      | none => (s, out)
      | some k =>
        if s.now ≤ s.landingDeadline n b k then (s, out)
        else if isSingle b then (s, out)
        else
          match x.duels.find? fun d => d.tick == k with
          | some d =>
            if d.cause != 0 then
              -- its vote is pending: later ticks are looked at
              match ((List.range 8).map fun i => addTicks s.rate k ((i + 1) * everyTicks s.rate b (x.settingsAt k))).find? fun m =>
                  decide (s.landingDeadline n b m < s.now) && !(x.duels.any fun y => y.tick == m && y.cause != 0) with
              | some m =>
                let (s, r) := s.diverge n b ((x.duels.find? fun y => y.tick == m).getD { tick := m }) 2
                State.deadlines n b fuel (s, out ++ r)
              | none => (s, out)
            else
              let (s, r) := s.diverge n b d 2
              State.deadlines n b fuel (s, out ++ r)
          | none =>
            let (s, r) := s.diverge n b { tick := k } 2
            State.deadlines n b fuel (s, out ++ r)

/-- EV_TRIP where OUTBITS bit 0 has risen or fallen (R392). -/
def State.evTrip (old : Option ResultRec) (r : ResultRec) (s : State) : State :=
  let was := old.any fun o => o.outbits.getLsbD 0
  let is_ := r.outbits.getLsbD 0
  s.postIf (was != is_) (mkEv 0x01 r.inst r.tDecide
    [(2, r.tick.2), (1, r.ftype), (1, r.exec), (4, r.outbits.toNat), (2, r.quality.toNat)] (clear := was))

/-- Publishes one result (R185, R195): it becomes the latest of its instance, a trip is told, a C37.118.2 block is taken, and
segments that a FLOC_TW has dealt with are free of it (R240). -/
def State.publishOne (s : State) (r : ResultRec) : State :=
  let r := { r with quality := r.quality ||| s.qSync }
  let old := s.eng.results.find? r.inst
  let s := ({ s with eng := { s.eng with results := s.eng.results.put r.inst r } }).evTrip old r
  let s := if r.ftype = 0x01 then s.c37Take r else s
  if r.ftype = 0x0F then
    let seq := ((s.inst r.inst).hist.head?).elim 0 fun h => h.2.int 503
    let g := s.fld 0x501 r.inst 8 fun b => (slotOf b 0).index
    s.modGrp g fun x => { x with segs := x.segs.map fun e =>
      (e.1, if e.2.seq ≤ seq then { e.2 with waits := e.2.waits.filter (· != r.inst) } else e.2) }
  else s

/-- The order of publication: PCLASS, then instance number (R185). -/
def pubSort (rs : List ResultRec) : List ResultRec :=
  sortBy (fun a b => decide (a.pclass < b.pclass ∨ (a.pclass = b.pclass ∧ a.inst ≤ b.inst))) rs

/-- A pass of the Gather (R182 to R185). In BOOT and SAFE_HOLD there are no results (R31, R195). -/
def State.gatherPass (s : State) : State :=
  let landed := sortBy (fun (a b : Landed) => decide (a.eng ≤ b.eng)) s.eng.landed
  let s := { s with eng := { s.eng with landed := [] } }
  if !s.enginesRun then s
  else
    let (s, late) := (s.recs 0x501).foldl (fun acc r => State.deadlines r.1 r.2 16 acc) (s, [])
    let (s, out) := landed.foldl State.takeRecord (s, late)
    let out := pubSort out
    (out.foldl State.publishOne s).goosePass (out.map (·.inst))

end Sys2Proof.Machine
end

