-- ==== Sys2Proof/Machine/LogicRun.lean ====
section
/-!
DEFINITION. The execution of a logic program (R341 to R346).
-/
namespace Sys2Proof.Machine

/-- A run in progress: the task, the predicate, the instructions still annulled. -/
structure LRun where
  t : Task
  pr : Bool := false
  annul : Nat := 0

/-- What a run needs: lattice rate, SCAN_TICKS and the constants. -/
structure LEnv where
  rate : Nat
  scan : Nat
  consts : Nat → U32

/-- Reads a bit address (R341). -/
def Task.bit (t : Task) (a : Nat) : Bool :=
  if a < 0x100 then t.inBits.get false a
  else if a < 0x200 then t.outBits.get false (a - 0x100)
  else if a < 0x300 then bitOf t.flags (a - 0x200)
  else if a < 0x700 then t.localBits.get false a
  else t.retBits.get false a

/-- Writes a bit address. -/
def Task.setBit (a : Nat) (v : Bool) (t : Task) : Task :=
  if a < 0x200 then { t with outBits := t.outBits.put (a - 0x100) v }
  else if a < 0x700 then { t with localBits := t.localBits.put a v }
  else { t with retBits := t.retBits.put a v }

/-- Reads a word address. -/
def Task.word (e : LEnv) (t : Task) (a : Nat) : U32 :=
  if a < 0x100 then t.inWords.get 0 a
  else if a < 0x200 then t.outWords.get 0 (a - 0x100)
  else if a < 0xA00 then t.localWords.get 0 a
  else if a < 0xB00 then t.retWords.get 0 a
  else e.consts (a - 0xB00)

/-- Writes a word address. -/
def Task.setWord (a : Nat) (v : U32) (t : Task) : Task :=
  if a < 0x200 then { t with outWords := t.outWords.put (a - 0x100) v }
  else if a < 0xA00 then { t with localWords := t.localWords.put a v }
  else { t with retWords := t.retWords.put a v }

/-- The owned state of a position, and writing it. -/
def Task.own (t : Task) (pos : Nat) : Owned := t.owned.get { } pos
@[inherit_doc Task.own] def Task.setOwn (pos : Nat) (o : Owned) (t : Task) : Task := { t with owned := t.owned.put pos o }

/-- INT32 division (R344). -/
def divWord (a b : U32) : U32 := if b = 0 then 0 else BitVec.ofInt 32 (a.toInt.tdiv b.toInt)

/-- FP32 to INT32: toward zero, saturating, NaN to 0 (R176, R344). -/
def fpToInt (x : Fp) : U32 :=
  if Fp.isNan x then 0
  else if Fp.isInf x then (if Fp.sign x then 0x80000000 else 0x7FFFFFFF)
  else BitVec.ofInt 32 (clampInt (-2147483648) 2147483647 (Fp.truncInt x))

/-- The result of an instruction that writes a bit from D and S (R344). -/
def bitOp (op : Nat) (pr d s : Bool) : Bool :=
  match op with
  | 0x01 => s
  | 0x02 => !s
  | 0x03 => d && s
  | 0x04 => d || s
  | 0x05 => d != s
  | 0x06 => true
  | 0x07 => false
  | _ => pr

/-- The result of an instruction that writes a word from D and S (R344). -/
def wordOp (op : Nat) (d s : U32) : U32 :=
  match op with
  | 0x10 => s
  | 0x12 => d + s
  | 0x13 => d - s
  | 0x14 => d * s
  | 0x15 => divWord d s
  | 0x16 => d &&& s
  | 0x17 => d ||| s
  | 0x18 => d ^^^ s
  | 0x20 => Fp.add d s
  | 0x21 => Fp.sub d s
  | 0x22 => Fp.mul d s
  | 0x23 => Fp.div d s
  | 0x24 => Fp.abs s
  | 0x25 => Fp.ofInt s.toInt
  | _ => fpToInt s

/-- A comparison (R344). -/
def cmpOp (op : Nat) (d s : U32) : Bool :=
  match op with
  | 0x28 => d == s
  | 0x29 => decide (d.toInt < s.toInt)
  | 0x2A => decide (d.toInt ≤ s.toInt)
  | 0x2B => Fp.eq d s
  | 0x2C => Fp.lt d s
  | _ => Fp.le d s

/-- PT has passed (R345). -/
def LEnv.done (e : LEnv) (c : Nat) (pt : U32) : Bool :=
  let p := if pt.toInt ≤ 0 then 0 else pt.toNat
  decide (p * e.rate ≤ c * 1000000)

/-- A timer (R345): Q, its new state, and whether c was updated. -/
def timerOp (e : LEnv) (op : Nat) (first in_ : Bool) (pt : U32) (o : Owned) : Bool × Owned × Bool :=
  let inc := satAdd 32 o.count e.scan
  match op with
  | 0x30 =>
    let c := if in_ then inc else 0
    (in_ && e.done c pt, { o with count := c }, true)
  | 0x31 =>
    if in_ then (true, { o with count := 0, running := true }, true)
    else if o.running then
      let d := e.done inc pt
      (!d, { o with count := inc, running := !d }, true)
    else (false, o, false)
  | _ =>
    let prev := if first then in_ else o.prev
    let start := in_ && !prev && !o.running
    let run := o.running || start
    let c0 := if start then 0 else o.count
    if run then
      let c := satAdd 32 c0 e.scan
      let d := e.done c pt
      (!d, { count := c, prev := in_, running := !d }, true)
    else (false, { o with prev := in_ }, false)

/-- A counter (R345): CV and Q. -/
def counterOp (op : Nat) (edge : Bool) (cv pv : U32) : U32 × Bool :=
  if op = 0x33 then
    let c := if edge then BitVec.ofInt 32 (min (cv.toInt + 1) 2147483647) else cv
    (c, decide (pv.toInt ≤ c.toInt))
  else
    let c := if edge then BitVec.ofInt 32 (max (cv.toInt - 1) (-2147483648)) else cv
    (c, decide (c.toInt ≤ 0))

/-- Executes one instruction whose condition holds (R344, R345). -/
def execLogic (e : LEnv) (i : LIns) (r : LRun) : LRun :=
  let op := lwOp i.w
  let d := lwD i.w
  let s := lwS i.w
  let t := r.t
  let x := lwD i.w2
  let y := lwS i.w2
  match op with
  | 0x00 | 0x3F => r
  | 0x01 | 0x02 | 0x03 | 0x04 | 0x05 | 0x06 | 0x07 | 0x0C => { r with t := t.setBit d (bitOp op r.pr (t.bit d) (t.bit s)) }
  | 0x08 => { r with pr := t.bit s }
  | 0x09 => { r with pr := r.pr && t.bit s }
  | 0x0A => { r with pr := r.pr || t.bit s }
  | 0x0B => { r with pr := !r.pr }
  | 0x0D | 0x0E =>
    let o := t.own i.pos
    let now := t.bit s
    let prev := if t.firstCold then now else o.prev
    let q := if op = 0x0D then now && !prev else prev && !now
    { r with t := (t.setOwn i.pos { o with prev := now }).setBit d q }
  | 0x11 => { r with t := t.setWord d (BitVec.ofInt 32 (toSigned 12 s)) }
  | 0x28 | 0x29 | 0x2A | 0x2B | 0x2C | 0x2D => { r with pr := cmpOp op (t.word e d) (t.word e s) }
  | 0x30 | 0x31 | 0x32 =>
    let (q, o, upd) := timerOp e op t.firstCold (t.bit s) (t.word e y) (t.own i.pos)
    let t := (t.setOwn i.pos o).setBit d q
    { r with t := if upd && x != 0xFFF then
        t.setWord x (BitVec.ofNat 32 (min (o.count * 1000000 / e.rate) 2147483647)) else t }
  | 0x33 | 0x34 =>
    let o := t.own i.pos
    let now := t.bit s
    let edge := now && !(if t.firstCold then now else o.prev)
    let (c, q) := counterOp op edge (t.word e x) (t.word e y)
    { r with t := ((t.setOwn i.pos { o with prev := now }).setWord x c).setBit d q }
  | 0x3E => { r with annul := s }
  | _ => { r with t := t.setWord d (wordOp op (t.word e d) (t.word e s)) }

/-- One instruction in program order (R342, R343). -/
def stepLogic (e : LEnv) (r : LRun) (i : LIns) : LRun :=
  if 0 < r.annul then { r with annul := r.annul - 1 }
  else
    let p := lwP i.w
    if p = 0 || (p = 1 && r.pr) || (p = 2 && !r.pr) then execLogic e i r else r

/-- One execution of a program. -/
def runLogic (e : LEnv) (code : List LIns) (t : Task) : Task :=
  { (code.foldl (stepLogic e) { t }).t with firstCold := false }

/-- The state of a task at a start (R341, R346). `safe` gives the OUT values of a cold start. -/
def Task.start (k : StartKind) (safeBits : Table Bool) (safeWords : Table U32) (t : Task) : Task :=
  let t := { t with running := true, pendStart := none, shed := false, faultWord := none, safeDue := false, localBits := [], localWords := [] }
  match k with
  | .warm => t
  | .reload => { t with owned := [], firstCold := true }
  | .cold => { t with owned := [], firstCold := true, retBits := [], retWords := [], outBits := safeBits, outWords := safeWords }

/-- The retained state of a task (R340), and taking it from the mirror. -/
def Task.keep (t : Task) : Retained :=
  { outBits := t.outBits, outWords := t.outWords, retBits := t.retBits, retWords := t.retWords, owned := t.owned }
@[inherit_doc Task.keep] def Task.take (r : Retained) (t : Task) : Task :=
  { t with outBits := r.outBits, outWords := r.outWords, retBits := r.retBits, retWords := r.retWords, owned := r.owned }

end Sys2Proof.Machine
end

