-- ==== Sys2Proof/Machine/Logic.lean ====
section
/-!
DEFINITION. The logic engine over the state: GOOSE subscriptions, the tick input image, task cycles with their input and output
maps, logic GOOSE, the watchdog, LOGIC_RUN and LOGIC_STOP (R177, R331 to R364).
-/
namespace Sys2Proof.Machine

/-! ### GOOSE subscriptions (R349, R350, R362) -/

/-- A subscription. -/
def State.sub (s : State) (n : Nat) : Sub := s.log.subs.get { } n
@[inherit_doc State.sub] def State.modSub (n : Nat) (f : Sub → Sub) (s : State) : State :=
  { s with log := { s.log with subs := s.log.subs.put n (f (s.sub n)) } }

/-- The encoding of a dataset entry, as TYPE codes it (R361). -/
def gooseCode : GooseVal → Nat
  | .bool _ => 0
  | .f32 _ => 1
  | .i32 _ => 2
  | .qual _ => 3
  | .utc _ _ => 4

/-- The members of a subscription. -/
def State.subMembers (s : State) (n : Nat) : List (Nat × Bytes) := (s.recs 0x907).filter fun r => r.2.u16 0 == n

/-- An address of 6 bytes as a number, first byte most significant. -/
def macOf (b : Bytes) (off : Nat) : BitVec 48 :=
  BitVec.ofNat 48 ((Bytes.slice b off 6).foldl (fun a x => a * 256 + x.toNat) 0)

/-- A subscription is named by a frame: address, APPID, gocbRef and port. -/
def subNamed (b : Bytes) (f : GooseFrame) : Bool :=
  macOf b 0 == f.dst && b.u16 6 == f.appid.toNat && Bytes.slice b 0x14 (b.u8 0x10) == f.gocbRef && bitOf (b.u16 8) f.port.val

/-- A GOOSE frame for a subscription (R349): counted and discarded, or accepted. -/
def State.subFrame (f : GooseFrame) (s : State) (r : Nat × Bytes) : State :=
  let n := r.1
  let b := r.2
  let x := s.sub n
  let wrong := f.confRev.toNat != b.u32 0xC || f.entries.length != b.u8 0xA || f.ndsCom ||
    (s.subMembers n).any fun m => (f.entries[m.2.u8 2]?).any fun v => gooseCode v != m.2.u8 3
  if f.sim && !(s.inTest && bitOf (b.u8 0xB) 0) then s.modSub n fun x => { x with simDiscard := satAdd 32 x.simDiscard 1 }
  else if wrong then s.modSub n fun x => { x with mismatch := satAdd 32 x.mismatch 1, state := .mismatch }
  else if x.last.any fun l => l.1 == f.stNum && decide (f.sqNum ≤ l.2) then
    s.modSub n fun x => { x with repeats := satAdd 32 x.repeats 1, state := if x.state == .mismatch then .valid else x.state }
  else
    s.modSub n fun x =>
      { x with state := .valid, last := some (f.stNum, f.sqNum), expiry := s.now + f.tal * 1000000 * nsF, notSync := f.tNotSync
               entries := f.entries, accepted := satAdd 32 x.accepted 1 }

/-- GOOSE is received outside BOOT and reset; a frame that names no subscription is counted (R369). -/
def State.gooseSubRx (f : GooseFrame) (s : State) : State :=
  if s.part.inReset || s.gaf.mode == .boot then s
  else
    let named := (s.recs 0x906).filter fun r => subNamed r.2 f
    if named.isEmpty then { s with net := { s.net with gooseNomatch := satAdd 32 s.net.gooseNomatch 1 } }
    else named.foldl (State.subFrame f) s

/-- No frame has been accepted within timeAllowedToLive (R350). -/
def State.subExpire (n : Nat) (s : State) : State :=
  if (s.sub n).state == .valid && decide ((s.sub n).expiry ≤ s.now) then s.modSub n fun x => { x with state := .expired } else s

/-- The word and quality word of a member in the tick input image (R350, R362). -/
def State.memberItem (s : State) (b : Bytes) : U32 × Quality :=
  let x := s.sub (b.u16 0)
  let v := x.entries[b.u8 2]?
  let ty := b.u8 3
  let utcLost := match v with
    | some (.utc _ ns) => ns
    | _ => false
  let qe := if ty < 3 && b.u8 4 != 0xFF then match x.entries[b.u8 4]? with
      | some (.qual q) => iecFlags q
      | _ => 0
    else match ty, v with
      | 3, some (.qual q) => iecFlags q
      | _, _ => 0
  let q := qOr [qe, s.qSync, qIf (x.notSync || utcLost) qSyncLost, qIf (x.state != .valid) qInvalid]
  let w : U32 := match v with
    | some (.bool y) => BitVec.ofNat 32 (b2n y)
    | some (.f32 y) => y
    | some (.i32 y) => y
    | some (.qual _) => BitVec.ofNat 32 q.toNat
    | some (.utc t _) => BitVec.ofNat 32 (((t : Int) + s.utc * 1000000000) % 1000000000).toNat
    | none => 0
  if qHas qInvalid q || (qHas qTest q && !s.inTest) then (b.fp 8, q) else (w, q)

/-! ### The tick input image (R177) -/

/-- The image captured at the start of tick `k`. -/
def State.capture_ (k : Nat × Nat) (s : State) : Image :=
  let rate := s.rate
  let t0 := tickStart rate (subTicks rate k 1)
  let t1 := tickStart rate k
  { tick := k, t := t1
    goose := (s.recs 0x907).map fun r => (r.1, s.memberItem r.2)
    bi := maskOf 32 fun i => (s.dual i).value
    si := maskOf 24 s.siValue
    flags := maskOf 256 fun f => if f < 192 then bitOf s.log.flags f
      else s.log.marver.any fun m => m.1 == f && decide (t0 ≤ m.2 ∧ m.2 < t1)
    trk := (s.recs 0x207).map fun r => (r.1, s.trkImage r.1)
    results := s.eng.results }

/-! ### Tasks -/

/-- A task. -/
def State.task (s : State) (n : Nat) : Task := s.log.tasks.get { } n
@[inherit_doc State.task] def State.modTask (n : Nat) (f : Task → Task) (s : State) : State :=
  { s with log := { s.log with tasks := s.log.tasks.put n (f (s.task n)) } }

/-- Modes in which tasks run (R338). -/
def State.tasksRun (s : State) : Bool :=
  !s.part.inReset && s.gaf.mode != .boot && s.gaf.mode != .safeHold

/-- A cycle of a task starts at a tick (R332). -/
def startsCycle (b : Bytes) (k : Nat × Nat) : Bool := k.2 % max 1 (b.u16 4) == b.u16 6

/-- The value of one LOGIC_INPUT entry (R352). -/
def State.inputVal (s : State) (im : Image) (b : Bytes) : U32 :=
  let i := b.u16 2
  let sub := b.u8 1
  let bit (p : Bool) : U32 := BitVec.ofNat 32 (b2n p)
  match b.u8 0 with
  | 0 => bit (if sub = 0 then (s.dual i).value else (s.dual i).latched)
  | 1 => bit (s.siValue i)
  | 2 =>
    let (w, q) := im.goose.get (0, qInvalid) i
    if sub = 0 then w else bit !(qHas qInvalid q || (qHas qTest q && !s.inTest))
  | 3 =>
    match im.results.find? i with
    | none => 0
    | some r => if sub = 128 then bit !(qHas qInvalid r.quality) else if sub < 32 then bit (r.outbits.getLsbD sub)
      else r.values.getD (sub - 64) 0
  | 4 =>
    let t := im.trk.get { } i
    if sub = 0 then t.freq else if sub = 1 then t.rocof else if sub = 2 then t.ampl else BitVec.ofNat 32 t.state
  | 5 => bit (if sub = 0 then s.boReadback i else (s.bo i).fault != 0)
  | _ => bit (match sub with
    | 0 => s.gaf.mode == .service
    | 1 => s.inTest
    | 2 => s.timeSync
    | _ => s.roleCode == 1)

/-- The frozen input image of a task for a cycle that starts at tick `k` (R333, R353). -/
def State.freezeTask (n : Nat) (b : Bytes) (im : Image) (k : Nat × Nat) (s : State) : Task :=
  let t := s.task n
  let ins := (s.recs 0x904).filter fun r => r.1 / 512 == n
  let words := (ins.filter fun r => bitOf r.1 8).map fun r => (r.1 % 256, s.inputVal im r.2)
  let bits := (ins.filter fun r => !bitOf r.1 8).map fun r => (r.1 % 256, s.inputVal im r.2 != 0)
  let t0 := tickStart s.rate (subTicks s.rate k (b.u16 4))
  let t1 := tickStart s.rate k
  { t with inBits := bits, inWords := words, cycle := some k, retained := t.keep
           flags := maskOf 256 fun f => if f < 192 then bitOf im.flags f
             else s.log.marver.any fun m => m.1 == f && decide (t0 ≤ m.2 ∧ m.2 < t1) }

/-- The outputs of a task. -/
def State.taskOuts (s : State) (n : Nat) : List (Nat × Bytes) := (s.recs 0x905).filter fun r => r.1 / 512 == n

/-- The word that a task holds for an output entry, or its safe value. -/
def outVal (t : Task) (safe : Bool) (r : Nat × Bytes) : U32 :=
  if safe then r.2.fp 4
  else if bitOf r.1 8 then t.outWords.get 0 (r.1 % 256)
  else BitVec.ofNat 32 (b2n (t.outBits.get false (r.1 % 256)))

/-- A logic GOOSE member's value (R351): a Quality member tells whether the task runs. -/
def logicVal (safe test : Bool) (enc : Nat) (w : U32) : GooseVal :=
  match enc with
  | 0 => .bool (w != 0)
  | 1 => .f32 w
  | 2 => .i32 w
  | _ => .qual { validity := if safe then 1 else 0, test }

/-- The logic control blocks that belong to a task, each with its entries in member order (R351). -/
def State.logicBlocks (s : State) (n : Nat) : List (Nat × List (Nat × Bytes)) :=
  ((s.recs 0x5F0).filter fun r => logicCb s.cfg r.1).filterMap fun r =>
    let ms := (List.range (r.2.u16 0xE)).flatMap fun m => outputsTo s.cfg 1 (r.1 * 128 + m)
    if (ms.head?.map fun m => m.1 / 512) == some n then some (r.1, ms) else none

/-- A control block takes values at a cycle end `t`: a state change where one is due or `force` asks for it (R199, R351). -/
def State.logicGoose (force : Bool) (t : Fine) (launch : Option Fine) (vals : List GooseVal) (s : State) (x : Nat × List (Nat × Bytes)) :
    State :=
  let g := s.eng.goose.get { } x.1
  let moved := (x.2.zip vals.zipIdx).any fun m => memberMoved m.1.2 (g.vals.getD m.2.2 m.2.1) (g.sent.getD m.2.2 m.2.1) m.2.1
  if force || !g.running || moved then s.gooseChange x.1 vals t (!s.timeSync) launch
  else { s with eng := { s.eng with goose := s.eng.goose.put x.1 { g with vals } } }

/-- The output image of a task takes effect at a cycle end `t`, or its safe values do (R336, R337, R354). -/
def State.taskOutputs (n : Nat) (safe : Bool) (t : Fine) (s : State) : State :=
  let tk := s.task n
  let outs := s.taskOuts n
  let s := (outs.filter fun r => r.2.u8 0 == 0).foldl (fun s r =>
    let v := if safe then s.fld 0x90A (r.2.u16 2) 0 (·.u8 1) == 1 else outVal tk false r != 0
    s.modBo (r.2.u16 2) fun o => { o with logic := v }) s
  let flags := (outs.filter fun r => r.2.u8 0 == 2).foldl (fun f r =>
    let i := r.2.u16 2
    let cleared := if bitOf f i then f - 2 ^ i else f
    if outVal tk safe r != 0 then cleared + 2 ^ i else cleared) s.log.flags
  let s := { s with log := { s.log with flags } }
  let s := (s.logicBlocks n).foldl (fun s x =>
    let vals := x.2.map fun r => logicVal safe s.inTest (r.2.u8 1) (outVal tk safe r)
    s.logicGoose safe t (some t) vals x) s
  s.outputs

/-- EV_LOGIC_OVERRUN (R337). -/
def State.overrun (n word : Nat) (k : Nat × Nat) (s : State) : State :=
  s.post (mkEv 0x0D n s.now [(1, s.fld 0x901 n 0 (·.u8 1)), (1, 0), (2, word), (8, tickStart s.rate k / nsF)])

/-- The watchdog stops a task whose execution has not completed by its deadline (R337): outputs and retained state of the cycle
are discarded, and its outputs go to their safe values at the cycle end. -/
def State.cutOffTask (n : Nat) (s : State) : State :=
  let t := s.task n
  match t.faultWord, t.cycle with
  | some w, some k =>
    (s.modTask n fun t => { t.take t.retained with running := false, faultWord := none, safeDue := true }).overrun n w k
  | _, _ => s

/-- Deadline of a task's present cycle (R337). -/
def State.deadline (s : State) (b : Bytes) (k : Nat × Nat) : Fine := tickStart s.rate (addTicks s.rate k (b.u16 4)) - 20000 * nsF

/-- LOGIC_WATCHDOG: every task whose deadline has passed. -/
def State.watchdog (s : State) : State :=
  (s.recs 0x901).foldl (fun s r =>
    if (s.task r.1).cycle.any fun k => s.deadline r.2 k ≤ s.now then s.cutOffTask r.1 else s) s

/-- The end of a task's cycle at the start of tick `k` (R336 to R339, R364). -/
def State.endCycle (k : Nat × Nat) (s : State) (r : Nat × Bytes) : State :=
  let n := r.1
  let at_ := tickStart s.rate k
  if !startsCycle r.2 k then s
  else
    let s := s.cutOffTask n
    let t := s.task n
    if t.safeDue then (s.modTask n fun t => { t with safeDue := false, cycle := none }).taskOutputs n true at_
    else if !t.running || t.cycle.isNone then s
    else
      let s := s.taskOutputs n false at_
      let shed := 4 ≤ s.pwr.stage && !bitOf (r.2.u8 2) 0
      if t.pendStop || shed || r.2.u8 0 == 0 then
        (s.modTask n fun t => { t with running := false, pendStop := false, shed, cycle := none }).taskOutputs n true at_
      else s

/-- An uncorrectable word of the logic region that the task meets (R28). -/
def State.meetLogicEcc (n : Nat) (s : State) : Bool × State :=
  (s.log.bad.contains n, { s with log := { s.log with bad := s.log.bad.filter (· != n) } })

/-- A cycle of a task starts at tick `k` (R333, R334, R340, R341, R346, R348). The program is run at once: its outputs wait for
the cycle end. -/
def State.startCycle (k : Nat × Nat) (im : Image) (s : State) (r : Nat × Bytes) : State :=
  let n := r.1
  let b := r.2
  if !startsCycle b k || !s.tasksRun || b.u8 0 != 1 then s
  else
    let t := s.task n
    let kind := if t.shed && s.pwr.stage < 4 then some .warm else t.pendStart
    let outs := s.taskOuts n
    let bits := (outs.filter fun r => !bitOf r.1 8).map fun r => (r.1 % 256, r.2.u32 4 != 0)
    let words := (outs.filter fun r => bitOf r.1 8).map fun r => (r.1 % 256, r.2.fp 4)
    let s := match kind with
      | some x => s.modTask n (Task.start x bits words)
      | none => s
    if !(s.task n).running then s
    else
      let s := match s.pair.logic.find? n with
        | some m =>
          let s := { s with pair := { s.pair with logic := s.pair.logic.erase n } }
          s.modTask n (Task.take m)
        | none => s
      let (bad, s) := s.meetLogicEcc n
      let frozen := s.freezeTask n b im k
      if bad then
        { s with free := s.free + 1 }.modTask n fun _ =>
          { frozen with faultWord := some ((Config.upsetWord s.free).toNat % b.u16 8) }
      else
        let e : LEnv := { rate := s.rate, scan := b.u16 4, consts := fun i => (progWord s.cfg 0x903 n i).getD 0 }
        s.modTask n fun _ => runLogic e (taskCode s.cfg n b) frozen

/-- The tasks running, as a mask (R363). -/
def State.runMask (s : State) : Nat := maskOf 8 fun n => (s.task n).running

/-- LOGIC_RUN and LOGIC_STOP complete at the latest start or cycle end of the tasks they name (R363, R364). -/
def State.logicDone (t : Fine) (s : State) : State :=
  s.finishWaiting (fun o => match o.wait with
    | .logic m true => (List.range 8).all fun n => !bitOf m n || (s.task n).pendStart.isNone
    | .logic m false => (List.range 8).all fun n => !bitOf m n || !(s.task n).pendStop
    | _ => false) fun _ => (.ok, 0, packLe [(8, t / nsF), (1, s.runMask)])

/-- Ends and starts of cycles at tick `k` with its image captured between them (R333, R336). -/
def State.logicTick (k : Nat × Nat) (s : State) : State :=
  let tasks := s.recs 0x901
  let s := if s.tasksRun then tasks.foldl (State.endCycle k) s else s
  let im := s.capture_ k
  let s := { s with eng := { s.eng with images := (im :: s.eng.images).take 8 } }
  let s := tasks.foldl (State.startCycle k im) s
  let old := tickStart s.rate (subTicks s.rate k (s.rate + 1))
  ({ s with log := { s.log with marver := s.log.marver.filter fun m => old ≤ m.2 } }).logicDone (tickStart s.rate k)

/-- Tasks with AUTORUN start cold (R363). -/
def State.autorun (s : State) : State :=
  (s.recs 0x901).foldl (fun s r =>
    if r.2.u8 0 = 1 && bitOf (r.2.u8 2) 1 && !(s.task r.1).running then s.modTask r.1 fun t => { t with pendStart := some .cold } else s) s

/-- Every task stops, with its outputs at their safe values: entry into SAFE_HOLD or BOOT (R338). -/
def State.stopTasks (s : State) : State :=
  (s.recs 0x901).foldl (fun s r =>
    (s.modTask r.1 fun t => { t with running := false, pendStart := none, pendStop := false, shed := false, cycle := none, faultWord := none
                                     safeDue := false }).taskOutputs r.1 true s.now) s

/-- A commit changes a task (R348): `prog` tells that its record, code or constants changed, `enabled` that it became enabled. -/
def State.taskChanged (n : Nat) (prog enabled : Bool) (s : State) : State :=
  match s.rec? 0x901 n with
  | none => (s.modTask n fun _ => { })
  | some b =>
    let auto := bitOf (b.u8 2) 1 && b.u8 0 == 1
    if (s.task n).running then
      if prog then s.modTask n fun t => { t with pendStart := some (if bitOf (b.u8 2) 2 then .reload else .cold) } else s
    else if enabled && auto then s.modTask n fun t => { t with pendStart := some .cold }
    else s

/-- LOGIC_RUN and LOGIC_STOP (R363, R364). -/
def State.logicCmd (run : Bool) (tasks start : Byte) (rsv : U16) (s : State) : State × Reply :=
  let named := (List.range 8).filter (bitOf tasks.toNat)
  let off := run && named.any fun n => s.fld 0x901 n 0 (·.u8 0) != 1
  match firstBad [(0, !off), (1, if run then decide (start.toNat ≤ 1) else start == 0), (2, rsv == 0)] with
  | some o => (s, badAt o)
  | none =>
    let s := named.foldl (fun s n => s.modTask n fun t =>
      if run then
        if t.running && !t.pendStop then t else { t with pendStart := some (if start = 1 then .cold else .warm) }
      else if t.running || t.pendStart.isSome then { t with pendStop := true } else t) s
    let waits := named.any fun n => if run then (s.task n).pendStart.isSome else (s.task n).pendStop
    if waits then (s, .wait (.logic tasks.toNat run)) else (s, okWith (packLe [(8, s.nowNs), (1, s.runMask)]))

/-- A Marver firing with TARGET LOGIC_FLAG (R353). -/
def State.flagFiring (f : Nat) (stamp : Fine) (s : State) : State :=
  { s with log := { s.log with marver := (f, stamp) :: s.log.marver } }

/-- Logic control blocks at entry into and exit from SAFE_HOLD: safe values with validity invalid, or what their tasks hold (R198,
R338). -/
def State.logicSafeHold (s : State) : State :=
  ((s.recs 0x5F0).filter fun r => logicCb s.cfg r.1).foldl (fun s r =>
    let ms := (List.range (r.2.u16 0xE)).flatMap fun m => outputsTo s.cfg 1 (r.1 * 128 + m)
    if ms.isEmpty then s
    else
      let safe := s.gaf.mode == .safeHold
      let vals := ms.map fun m => logicVal safe s.inTest (m.2.u8 1) (outVal (s.task (m.1 / 512)) safe m)
      s.gooseChange r.1 vals s.now (!s.timeSync) none) s

/-- LOGIC_WATCHDOG (R337). -/
def execLogicWatchdog (dt : Nat) (s : State) : Host.Outcome State Fault Refusal := goOn dt State.watchdog s

/-- GOOSE_SUB_RX (R349). -/
def execGooseSubRx (dt : Nat) (f : GooseFrame) (s : State) : Host.Outcome State Fault Refusal := goOn dt (State.gooseSubRx f) s

/-- GOOSE_SUB_EXPIRE (R350). -/
def execGooseSubExpire (dt : Nat) (n : Fin 128) (s : State) : Host.Outcome State Fault Refusal :=
  goOn dt (State.subExpire n.val) s

end Sys2Proof.Machine
end

