-- ==== Sys2Proof/Machine/Events.lean ====
section
/-!
DEFINITION. The event record, EVENT_ACK, the PCIe event ring, telemetry and the status blocks (R204, R386 to R402, R412).
-/
namespace Sys2Proof.Machine

/-! ### Records (R412) -/

/-- A power of two from 256 to 65,536. -/
def ringSizeOk (n : Nat) : Bool := (List.range 9).any fun i => n == 256 * 2 ^ i

/-- A DIGITAL entry of a DREC record. -/
def digitalOk (b : Bytes) (o : Nat) : Bool :=
  let sub := b.u8 (o + 1)
  let i := b.u16 (o + 2)
  match b.u8 o with
  | 0 => decide (sub ≤ 1 ∧ i ≤ 31)
  | 1 => decide (sub = 0 ∧ i ≤ 23)
  | 3 => decide (sub ≤ 31 ∧ i ≤ 1023)
  | 5 => decide (sub ≤ 1 ∧ i ≤ 31)
  | 6 => decide (sub ≤ 3 ∧ i = 0)
  | 7 => decide (sub = 0 ∧ i ≤ 255)
  | _ => false

/-- The offset of the DIGITAL entries of a DREC record. -/
def digitalAt (nAna : Nat) : Nat := 0x18 + ceilDiv (2 * nAna) 4 * 4

/-- The records of events, telemetry and the record store. -/
def eventSpec (l : Bool) (rtype obj : Nat) (b : Bytes) : Option RecSpec :=
  match rtype with
  | 0xB01 =>
    let n := b.u32 0x10
    some (fixedRec 0x1C
      [(0, b.u64 0 % 32 == 0), (8, b.u64 8 % 4 == 0), (0x10, n == 0 || ringSizeOk n),
       (0x14, onlyBits 3 (b.u16 0x14) && !(bitOf (b.u16 0x14) 0 && n != 0)), (0x16, within 1 1000 (b.u16 0x16)),
       (0x18, within 1 1000 (b.u16 0x18)), (0x1A, zeroAt b 0x1A 2)] (decide (obj = 0)))
  | 0xB02 => some (fixedRec 0x18
      [(0x14, decide (b.u16 0x14 ≤ 100)), (0x16, decide (b.u8 0x16 ≤ 6)), (0x17, onlyBits 7 (b.u8 0x17))] (decide (obj = 0)))
  | 0xB03 =>
    let na := b.u16 2
    let nd := b.u16 4
    let d := digitalAt na
    some
      { objOk := decide (obj ≤ 7), fixed := 0x18, counts := [(2, decide (na ≤ 256)), (4, decide (nd ≤ 256))], len := d + 4 * nd
        checks := [(0, decide (b.u8 0 ≤ 1)), (1, onlyBits 1 (b.u8 1)), (6, b.u8 6 == 50 || b.u8 6 == 60), (8, decide (b.u16 8 ≤ 2000)),
          (0xA, within 10 10000 (b.u16 0xA)), (0xC, within (b.u16 0xA) 60000 (b.u32 0xC))] ++
          ((List.range na).map fun i => (0x18 + 2 * i, decide (b.u16 (0x18 + 2 * i) < numSvCh l))) ++
          ((List.range nd).map fun i => (d + 4 * i, digitalOk b (d + 4 * i))) }
  | 0xB04 => some (fixedRec 4 [(0, decide (b.u8 0 ≤ 90)), (1, decide (b.u8 1 ≤ 1)), (2, zeroAt b 2 2)] (decide (obj = 0)))
  | _ => none

/-- DST_IP of TELEMETRY needs an address of its kind in SWITCH (R412). -/
def eventCross (rs : List Rec) : Option CommitErr :=
  match recIn rs 0xB02 0 with
  | none => none
  | some b =>
    let v4 := Bytes.slice b 0 12 == zeros 10 ++ [0xFF, 0xFF]
    let sw := (recIn rs 0xA02 0).getD (zeros 0x40)
    if (if v4 then sw.u32 0x28 == 0 else zeroAt sw 0x30 16) then some (.field 0xB02 0 0) else none

/-! ### The event record (R389) -/

/-- The 32 bytes of an entry. -/
def QEntry.bytes (e : QEntry) : Bytes :=
  packLe [(4, e.seq.toNat), (2, e.ev.code), (1, e.ev.cls.code + 8 * b2n e.ev.clear), (1, e.origin), (8, e.ev.t / nsF),
          (2, e.ev.t % nsF), (2, e.ev.src)] ++ Bytes.slice e.ev.payload 0 12

/-- The 32 bytes of an alarm-table entry (R396). -/
def Alarm.bytes (a : Alarm) : Bytes :=
  packLe [(2, a.code), (2, a.src), (1, b2n (!a.raised.isEmpty) + 2 * b2n a.unack), (3, 0), (4, a.count), (8, a.first), (8, a.last), (4, 0)]

/-- `a` lies at or before `b` in the order of sequence numbers. -/
def seqLe (a b : U32) : Bool := !(b - a).msb

/-! ### EVENT_ACK (R398) -/

/-- EVENT_ACK. -/
def State.eventAck (ack aflags : U32) (buf : BufDesc) (path : Path) (s : State) : State × Reply :=
  let valid := aflags.getLsbD 0
  if valid && !seqLe ack (s.ev.nextSeq - 1) then (s, badAt 0)
  else if 7 < aflags.toNat then (s, badAt 4)
  else match bufBad buf 8 path with
    | some p => (s, badAt p)
    | none =>
      let s := if valid then
          { s with ev := { s.ev with
              lastAck := ack, queue := s.ev.queue.map fun e => if seqLe e.seq ack then { e with acked := true } else e } }
        else s
      let n := if aflags.getLsbD 2 then bufFits buf 32 s.ev.alarms.length else 0
      let data := (s.ev.alarms.take n).flatMap Alarm.bytes
      let s := if aflags.getLsbD 1 then
          { s with ev := { s.ev with alarms := pruneAlarms (s.ev.alarms.map fun a => { a with unack := false }) } }
        else s
      let s := s.freeEntries
      let oldest := (s.ev.queue.head?.elim s.ev.nextSeq (·.seq)).toNat
      s.deliver buf data
        (packLe [(4, s.ev.nextSeq.toNat), (4, oldest), (2, s.ev.queue.length), (2, (s.ev.alarms.filter fun a => !a.raised.isEmpty).length),
          (2, (s.ev.alarms.filter (·.unack)).length), (2, n), (4, s.ev.lost), (20, 0)])

/-! ### The PCIe event ring (R399, R400) -/

/-- The ring starts afresh when its record sets or changes it (R400). -/
def State.ringStart (s : State) : State :=
  let first := (s.ev.queue.find? fun e => !e.acked).elim s.ev.nextSeq (·.seq)
  { s with ev := { s.ev with
      prod := 0, lastAck := first - 1, retry := none, queue := s.ev.queue.map fun e => { e with ringed := e.acked } } }

/-- EVENTS records take effect. -/
def State.eventsApply (old : List Rec) (s : State) : State :=
  let key (b : Option Bytes) : Bytes := b.elim [] fun b => Bytes.slice b 0 0x14
  let now := s.rec? 0xB01 0
  if key (recIn old 0xB01 0) != key now && now.isSome then s.ringStart else s

/-- The entries that the next batch writes: those not yet written, within RING_ENTRIES of the last ACK_SEQ, LOG only under RING_LOG. -/
def State.ringDue (b : Bytes) (s : State) : List QEntry :=
  s.ev.queue.filter fun e =>
    !e.ringed && decide ((e.seq - s.ev.lastAck).toNat < b.u32 0x10) && (e.ev.cls != .log || bitOf (b.u16 0x14) 1)

/-- Writes a batch, PROD and the interrupt bit; without a link the batch counts as not written. -/
def State.ringBatch (s : State) : State :=
  match s.rec? 0xB01 0 with
  | none => s
  | some b =>
    let n := b.u32 0x10
    let es := s.ringDue b
    if n = 0 || es.isEmpty || !s.fwRuns || s.part.inReset then s
    else if !s.part.pcieUp then { s with ev := { s.ev with retry := some s.now } }
    else
      let mem := es.foldl (fun m e => Mem.writeBytes 0 m (b.u64 0 + e.seq.toNat % n * 32) e.bytes) s.hostMem
      let prod := s.ev.prod + BitVec.ofNat 32 es.length
      let written (x : QEntry) : Bool := es.any fun y => y.seq == x.seq
      let queue := s.ev.queue.map fun (x : QEntry) => if written x then { x with ringed := true } else x
      let mem := Mem.writeBytes 0 mem (b.u64 8) (leBytes 4 prod.toNat)
      let ev := { s.ev with prod := prod, retry := none, queue := queue }
      State.setIrq 16 { s with hostMem := mem, ev := ev }

/-- The next batch, unless a failed one has to wait for its millisecond. -/
def State.ringNext (s : State) : State :=
  if s.ev.retry.all fun t => decide (t + 1000000 * nsF ≤ s.now) then s.ringBatch else s

/-! ### Telemetry (R401, R402) -/

/-- UDP payload that the smallest MAX_FRAME of the ports carries. -/
def State.telMtu (s : State) : Nat :=
  let mf := (s.recs 0xA01).foldl (fun m r => if r.2.u8 0 = 1 then min m (r.2.u16 8) else m) 9216
  mf - 70

/-- A datagram being filled, the datagrams filled, and the bytes left. -/
structure Packing where
  done : List (List (Nat × Bytes)) := []
  cur : List (Nat × Bytes) := []
  size : Nat := 16
  left : Nat

/-- Adds an item to the datagram or to a new one; none where it does not fit the millisecond. -/
def Packing.add (mtu : Nat) (p : Packing) (item : Nat × Bytes) : Option Packing :=
  let n := 4 + (padTo 4 item.2).length
  if !p.cur.isEmpty && p.size + n ≤ mtu && n ≤ p.left then
    some { p with cur := p.cur ++ [item], size := p.size + n, left := p.left - n }
  else if 82 + n ≤ p.left then
    some { done := if p.cur.isEmpty then p.done else p.done ++ [p.cur], cur := [item], size := 16 + n, left := p.left - 82 - n }
  else none

/-- Fills datagrams until an item does not fit: the packing and how many items went in. -/
def packItems (mtu : Nat) : List (Nat × Bytes) → Packing → Nat → Packing × Nat
  | [], p, k => (p, k)
  | i :: is, p, k =>
    match p.add mtu i with
    | some p => packItems mtu is p (k + 1)
    | none => (p, k)

/-- The body of a loss marker (R401). -/
def lossBody (itype : Nat) (x : Nat × Nat × Nat) : Bytes := packLe [(1, itype), (1, 0), (4, x.1), (8, x.2.1), (8, x.2.2), (2, 0)]

/-- A TRACE item is sent under its bit of TFLAGS. -/
def traceWanted (tf itype : Nat) : Bool := if itype = 7 || itype = 8 then bitOf tf 2 else bitOf tf 1

/-- The telemetry of one millisecond of working time. -/
def State.telemetryMs (s : State) : State :=
  let ms := s.now / (1000000 * nsF)
  let b := (s.rec? 0xB02 0).getD []
  let rate := b.u16 0x14
  if s.ev.telMs == some ms || !s.fwRuns || s.part.inReset || s.gaf.mode == .boot then s
  else
    let tf := b.u8 0x17
    let shed := 1 ≤ s.pwr.stage
    let q := if bitOf tf 0 then s.ev.queue.filter fun e => !e.sent else []
    let events := (q.filter fun e => e.ev.cls != .log) ++ (if shed then [] else q.filter fun e => e.ev.cls == .log)
    let traces := if shed then [] else s.ev.items.filter fun i => traceWanted tf i.1
    let marks := s.ev.lostItems.filter fun x => 0 < x.2.1
    let all := (marks.map fun x => (9, lossBody x.1 x.2)) ++ (events.map fun e => (1, e.bytes)) ++ (traces.map fun i => (i.1, i.2.1))
    let (p, k) := packItems s.telMtu all { left := rate * 125 } 0
    let ke := k - marks.length
    let sent := (events.take ke).map (·.seq)
    let kept := (traces.drop (ke - events.length)).filter fun i => decide (s.now < i.2.2 + 1000000 * nsF)
    let dropped := (traces.drop (ke - events.length)).filter fun i => !decide (s.now < i.2.2 + 1000000 * nsF)
    let lost := (s.ev.lostItems.drop k).foldl (fun t x => Table.put t x.1 x.2) []
    let lost := if rate = 0 then [] else dropped.foldl (fun t i => noteLost i.1 [i.2.2] t) lost
    let dgs := if p.cur.isEmpty then p.done else p.done ++ [p.cur]
    let s := { s with ev := { s.ev with
        telMs := some ms, items := kept, lostItems := lost
        queue := s.ev.queue.map fun e => if sent.contains e.seq then { e with sent := true } else e } }
    let s := dgs.foldl (fun s d =>
      State.emit (.telemetry s.origin (s.ev.dseq + 1) s.nowNs d) { s with ev := { s.ev with dseq := s.ev.dseq + 1 } }) s
    s.freeEntries

/-! ### Status blocks (R204, R386, R387) -/

/-- The status block of an engine. -/
def State.engineStatus (n : Nat) (s : State) : Bytes :=
  let g := s.eng.engines.get { } n
  let placed := s.place.insts.any fun i => i.2.primary == n || i.2.twin == n || i.2.spare == n
  let pf := Config.prefetches s.free n
  packLe [(1, n), (1, n / 8), (1, if g.retired then 2 else if placed then 0 else 1), (1, 0), (4, g.executions), (4, g.busyNs / 1000),
          (4, g.peakNs), (4, g.reruns), (4, g.votesLost), (4, pf.1), (4, pf.2), (4, g.eccCorr), (4, g.eccUncorr), (4, g.lateRecords), (20, 0)]

/-- LSTATE of a port. -/
def State.lstate (p : Nat) (s : State) : Nat :=
  let r := s.port p
  if r.shed then 3 else if !s.portOn p then 2 else b2n r.up

/-- The status block of a port; `lpiRx` says whether its receiver sees low-power idle. -/
def State.portStatus (p : Nat) (lpiRx : Bool) (s : State) : Bytes :=
  let r := s.port p
  let paused := r.pauseUntil.any fun t => decide (s.now < t)
  packLe [(1, p), (1, s.lstate p), (1, r.mode),
          (1, b2n r.polRev + 2 * b2n r.downshifted + 4 * b2n paused + 8 * b2n r.lpiTx + 16 * b2n lpiRx),
          (4, r.rxFrames), (4, r.txFrames), (4, r.fcsErr), (4, r.policeDrop), (4, r.bufDrop), (4, r.qDrop), (4, r.mcLagDrop),
          (4, r.defer_), (4, r.ctBad), (4, r.pauseRx), (4, r.downDrop), (4, r.ddDiscard), (4, r.vlanDrop),
          (2, if s.eeeOn p then s.portTw p / nsF else 0), (6, 0)]

/-- The status block of the switch core. -/
def State.switchStatus (s : State) : Bytes :=
  let n := s.net
  packLe [(4, n.usedAll), (4, n.cellsPeak), (2, min 256 (n.used 7)), (2, n.residue.length), (2, n.macs.length + (staticWays s.cfg).length),
          (2, 0), (4, n.learnFull), (4, n.moves), (4, n.svNomatch), (4, n.gooseNomatch), (4, n.moeReject), (4, n.culletReclaim),
          (4, n.eccDrop), (4, n.ddFull), (4, n.mgmtPolice), (12, 0)]

/-- Once per second every block sends its status; what is counted over a second starts again. -/
def State.statusSecond (lpiRx : U16) (s : State) : State :=
  let sec := s.now / secF
  if s.ev.statusSec == some sec || s.part.inReset || s.gaf.mode == .boot then s
  else
    let s := s.netSettle
    let items := ((s.recs 0x301).map fun r => (2, s.svStatus r.1)) ++
      ((List.range (numEngines s.isL)).map fun e => (3, s.engineStatus e)) ++
      (((s.recs 0x801).filter fun r => r.1 < numLanes s.isL).map fun r => (4, s.laneBlockBytes r.1)) ++
      ((List.range (numPorts s.isL)).map fun p => (5, s.portStatus p (lpiRx.getLsbD p))) ++ [(6, s.switchStatus)]
    { s with
      ev := { s.ev with statusSec := some sec, items := s.ev.items ++ items.map fun i => (i.1, i.2, s.now) }
      eng := { s.eng with engines := s.eng.engines.map fun e => (e.1, { e.2 with busyNs := 0, peakNs := 0 }) }
      net := { s.net with cellsPeak := s.net.usedAll }
      free := s.free + 1 }

/-! ### Meanings -/

/-- EVENT_RING_BATCH (R400). -/
def execEventRingBatch (dt : Nat) (s : State) : Host.Outcome State Fault Refusal := goOn dt State.ringNext s

/-- EVENT_RING_RETRY: a failed batch is written again, no sooner than 1 ms later (R400). -/
def execEventRingRetry (dt : Nat) (s : State) : Host.Outcome State Fault Refusal :=
  goOn dt (fun s => if s.ev.retry.isSome then s.ringNext else s) s

/-- TELEMETRY_MS (R402). -/
def execTelemetryMs (dt : Nat) (s : State) : Host.Outcome State Fault Refusal := goOn dt (fun s => s.telemetryMs.netOut) s

/-- STATUS_BLOCK_SECOND (R204, R386, R387); `lpiRx` are the ports whose receivers see low-power idle. -/
def execStatusBlockSecond (dt : Nat) (lpiRx : U16) (s : State) : Host.Outcome State Fault Refusal := goOn dt (State.statusSecond lpiRx) s

end Sys2Proof.Machine
end

