-- ==== Sys2Proof/Machine/Records.lean ====
section
/-!
DEFINITION. Disturbance recorders, the record writer and the record store (R405 to R411).
-/
namespace Sys2Proof.Machine

/-! ### The store (R405) -/

/-- Ticks that a number of ms spans, rounded down. -/
def ticksIn (rate ms : Nat) : Nat := ms * rate / 1000

/-- Bytes of one row of a DREC record (R410). -/
def rowBytes (cfg : Bytes) : Nat := 8 * cfg.u16 2 + 4 * ceilDiv (cfg.u16 4) 32

/-- The native size of a record (R408, R410). -/
def Record.bytes (r : Record) : Nat :=
  if r.archive then r.data.length
  else 64 + 8 * r.cfg.u16 2 + 4 * r.cfg.u16 4 + r.rows.length * rowBytes r.cfg + 32 * r.events.length

/-- The most that a record may come to hold: a recorder's longest span, or the whole segment. -/
def Record.room (r : Record) : Nat :=
  if r.archive then r.data.length
  else if r.state = 0 then
    let ms := r.cfg.u16 8 + (if bitOf (r.cfg.u8 1) 0 then r.cfg.u32 0xC else r.cfg.u16 0xA)
    64 + 8 * r.cfg.u16 2 + 4 * r.cfg.u16 4 + (ticksIn r.rate ms + 1) * rowBytes r.cfg + 32 * r.events.length
  else r.bytes

/-- The size of an area in bytes. -/
def State.areaBytes (archive : Bool) (s : State) : Nat :=
  let total := s.rec_.ddrMb * 2 ^ 20
  let arch := total * s.fld 0xB04 0 50 (·.u8 0) / 100
  if archive then arch else total - arch

/-- Bytes free in an area. -/
def State.areaFree (archive : Bool) (s : State) : Nat :=
  s.areaBytes archive - (s.rec_.records.filter fun r => r.archive == archive).foldl (fun n r => n + r.room) 0

/-- Makes room in an area: the oldest complete record that is not protected goes, and is counted, as often as it takes. -/
def State.makeRoom (archive : Bool) (need : Nat) : Nat → State → Option State
  | 0, _ => none
  | n + 1, s =>
    if need ≤ s.areaFree archive then some s
    else if s.fld 0xB04 0 0 (·.u8 1) = 1 then none
    else match s.rec_.records.find? fun r => r.archive == archive && r.state != 0 && !r.protect with
      | none => none
      | some v =>
        State.makeRoom archive need n { s with rec_ := { s.rec_ with
          records := s.rec_.records.filter fun r => r.num != v.num, overwritten := satAdd 32 s.rec_.overwritten 1 } }

/-- Starts a record where its area has room; a refused trigger is counted. The number it got. -/
def State.startRecord (r : Record) (s : State) : Option Nat × State :=
  match s.makeRoom r.archive r.room (s.rec_.records.length + 1) with
  | none => (none, { s with rec_ := { s.rec_ with missed := satAdd 32 s.rec_.missed 1 } })
  | some s =>
    let n := s.rec_.nextNum
    (some n, { s with rec_ := { s.rec_ with nextNum := n + 1, records := s.rec_.records ++ [{ r with num := n, cfgGen := s.cfgGen }] } })

/-- Changes a record. -/
def State.modRecord (n : Nat) (f : Record → Record) (s : State) : State :=
  { s with rec_ := { s.rec_ with records := s.rec_.records.map fun r => if r.num == n then f r else r } }

/-! ### Recorders (R406) -/

/-- A recorder. -/
def State.recorder (s : State) (n : Nat) : Recorder := s.rec_.recorders.get { } n
@[inherit_doc State.recorder] def State.modRecorder (n : Nat) (f : Recorder → Recorder) (s : State) : State :=
  { s with rec_ := { s.rec_ with recorders := s.rec_.recorders.put n (f (s.recorder n)) } }

/-- The analogue channels of a DREC record. -/
def drecAna (b : Bytes) : List Nat := (List.range (b.u16 2)).map fun i => b.u16 (0x18 + 2 * i)

/-- The digital channels of a DREC record in a tick input image, as a mask. -/
def State.drecDigs (b : Bytes) (im : Image) (s : State) : Nat :=
  let d := digitalAt (b.u16 2)
  maskOf (b.u16 4) fun i =>
    let e := Bytes.slice b (d + 4 * i) 4
    if e.u8 0 = 7 then bitOf im.flags (e.u16 2) else s.inputVal im e != 0

/-- Takes the history entries that have been frozen meanwhile into the newest rows. -/
def State.fillRows (chans : List Nat) (rows : List DrecRow) (s : State) : List DrecRow :=
  rows.map fun r =>
    if r.anas.all (·.isSome) then r
    else { r with anas := (chans.zip r.anas).map fun x =>
      match x.2 with
      | some v => some v
      | none => (s.svAt x.1 r.tick).map fun e => (e.value, e.q) }

/-- How many of the newest rows may still lack history entries: the ticks of the longest alignment deadline, with room. -/
def openRows : Nat := 64

/-- Completes what is open of the newest rows of a list that is oldest first. -/
def State.fillNewest (chans : List Nat) (rows : List DrecRow) (s : State) : List DrecRow :=
  let n := rows.length - openRows
  rows.take n ++ s.fillRows chans (rows.drop n)

/-- A trigger of a recorder: its instant, the start of its tick, and TRIG_CH. -/
def State.drecTrigger (n : Nat) (b : Bytes) (t : Fine) (ch : Nat) (s : State) : State :=
  let rate := s.rate
  let k := tickOf rate t
  let t0 := tickStart rate k
  let ms (x : Nat) : Fine := x * 1000000 * nsF
  let d := s.recorder n
  match d.openRec with
  | some (num, first) =>
    if bitOf (b.u8 1) 0 then
      s.modRecord num fun r => { r with endAt := max r.endAt (min (t0 + ms (b.u16 0xA)) (tickStart rate (tickOf rate first) + ms (b.u32 0xC))) }
    else s.modRecorder n fun d => { d with ignored := satAdd 32 d.ignored 1 }
  | none =>
    let from_ := t0 - ms (b.u16 8)
    let rows := (d.ring.filter fun r => decide (from_ ≤ tickStart rate r.tick)).reverse
    let kinds := (drecAna b).map fun c =>
      (s.fld 0x302 c 2 (·.u8 3), (s.rec? 0x302 c).elim Fp.one svScale)
    let r : Record := { num := 0, archive := false, source := n, tTrig := t, trigCh := ch, cfg := b, rate, kinds, rows
                        spanFrom := from_, endAt := t0 + ms (b.u16 0xA), utc := s.utc, tmq := s.c37Tq }
    match s.startRecord r with
    | (some num, s) => s.modRecorder n fun d => { d with openRec := some (num, t) }
    | (none, s) => s

/-- A recorder takes a tick: its row enters the pre-trigger ring and the open record, and triggers are looked at. -/
def State.drecStep (k : Nat × Nat) (im : Image) (s : State) (x : Nat × Bytes) : State :=
  let (n, b) := x
  let rate := s.rate
  let chans := drecAna b
  let digs := s.drecDigs b im
  let d := s.recorder n
  let prev := (d.ring.head?).elim digs (·.digs)
  let row : DrecRow := { tick := k, digs, anas := chans.map fun _ => none }
  let newest := (s.fillRows chans (d.ring.take openRows)) ++ d.ring.drop openRows
  let ring := (row :: newest).take (max openRows (ticksIn rate (b.u16 8)) + 2)
  let s := s.modRecorder n fun d => { d with ring }
  let s := match d.openRec with
    | some (num, _) =>
      s.modRecord num fun r => if tickStart rate k < r.endAt then { r with rows := s.fillNewest chans r.rows ++ [row] } else r
    | none => s
  let rises := (List.range (min 64 (b.u16 4))).filter fun i => bitOf (b.u64 0x10) i && bitOf digs i && !bitOf prev i
  let s := (s.rec_.fires.filter fun f => bitOf (b.u8 7) f.1).foldl (fun s f => s.drecTrigger n b f.2 (0x100 + f.1)) s
  match rises with
  | [] => s
  | i :: _ => s.drecTrigger n b (tickStart rate k) i

/-- The recorders take tick `k` (DREC_TRIGGER of LATTICE_TICK). -/
def State.drecTick (k : Nat × Nat) (im : Image) (s : State) : State :=
  if !s.rec_.ddr || s.gaf.mode == .boot || s.gaf.mode == .safeHold then { s with rec_ := { s.rec_ with fires := [] } }
  else
    let s := ((s.recs 0xB03).filter fun r => r.2.u8 0 == 1).foldl (State.drecStep k im) s
    let late := s.rec_.records.filter fun r => !r.archive && r.copying && decide (r.endAt ≤ s.now)
    let s := late.foldl (fun s r => s.modRecord r.num fun r => { r with rows := s.fillNewest (drecAna r.cfg) r.rows }) s
    { s with rec_ := { s.rec_ with fires := [] } }

/-- The record of a recorder reaches its end. -/
def State.drecEnd (n : Nat) (s : State) : State :=
  match (s.recorder n).openRec with
  | some (num, _) =>
    match s.rec_.records.find? fun r => r.num == num with
    | some r => if r.endAt ≤ s.now then s.modRecorder n fun d => { d with openRec := none } else s
    | none => s.modRecorder n fun d => { d with openRec := none }
  | none => s

/-- 100 ms after its end, a record of a recorder takes no further events: it is complete (R407). -/
def State.copyEnd (n : Nat) (s : State) : State :=
  let s := s.drecEnd n
  { s with rec_ := { s.rec_ with records := s.rec_.records.map fun (r : Record) =>
      if !r.archive && r.source == n && r.copying && decide (r.endAt + 100000000 * nsF ≤ s.now) then
        { r with copying := false, state := if r.state = 0 then 1 else r.state } else r } }

/-- Entry into SAFE_HOLD closes every open record as truncated (R407). -/
def State.truncateRecords (s : State) : State :=
  { s with rec_ := { s.rec_ with
      records := s.rec_.records.map fun (r : Record) =>
        if r.state = 0 then { r with state := 2, copying := false, endAt := min r.endAt s.now, data := r.data.take r.copied } else r
      recorders := s.rec_.recorders.map fun (d : Nat × Recorder) => (d.1, { d.2 with openRec := none })
      archiving := none } }

/-! ### The record writer (R407) -/

/-- Whether a record takes an event: ALARM, TRIP and STATE with T in its span; EV_EVENT_OVF also by T_LAST. -/
def Record.takes (r : Record) (e : Ev) : Bool :=
  let inSpan (t : Fine) : Bool := decide (r.spanFrom ≤ t ∧ t < r.endAt)
  !r.archive && r.copying && e.cls != .log &&
  (inSpan e.t || (e.code == 0x06 && inSpan (Bytes.u64 (Bytes.slice e.payload 4 8) 0 * nsF)))

/-- The writer passes an entry of the queue and copies it where it belongs. -/
def State.passEntry (s : State) (e : QEntry) : State :=
  { s with rec_ := { s.rec_ with records := s.rec_.records.map fun (r : Record) =>
      if (r.takes e.ev) then { r with events := r.events ++ [e.bytes] } else r } }

/-- Bytes that one slice moves at most. -/
def sliceBytes : Nat := 65536

/-- The archive of the next closed segment begins: its record is made. -/
def State.archiveStart (s : State) : State :=
  match s.rec_.archiveQ with
  | [] => s
  | (g, i) :: rest =>
    match ((s.grp g).segs.find? i).filter fun x => x.state == .closed with
    | none => { s with rec_ := { s.rec_ with archiveQ := rest } }
    | some x =>
      let r : Record := { num := 0, archive := true, source := g, tTrig := x.tTrig, trigCh := x.cause, data := segBytes g i x false
                          copying := false, utc := s.utc, tmq := s.c37Tq, rate := x.tOut }
      match s.startRecord r with
      | (none, s) => { s with rec_ := { s.rec_ with archiveQ := rest } }
      | (some n, s) =>
        State.modGrp g (fun v => v.modSeg i fun x => { x with copying := true })
          { s with rec_ := { s.rec_ with archiving := some n } }

/-- One slice of an archive; the last one completes the record and releases the segment (R159). -/
def State.archiveSlice (room : Nat) (s : State) : State :=
  let s := if s.rec_.archiving.isNone then s.archiveStart else s
  match s.rec_.archiving, s.rec_.archiveQ with
  | some n, (g, i) :: rest =>
    match s.rec_.records.find? fun r => r.num == n with
    | none => { s with rec_ := { s.rec_ with archiving := none, archiveQ := rest } }
    | some r =>
      let c := min r.data.length (r.copied + room)
      if c < r.data.length then s.modRecord n fun r => { r with copied := c }
      else
        let s := s.modRecord n fun r => { r with copied := c, state := 1 }
        State.releaseSegment g i { s with rec_ := { s.rec_ with archiving := none, archiveQ := rest } }
  | _, _ => s

/-- A slice of the record writer: it passes queue entries, oldest first, and then copies of a segment. -/
def State.writerSlice (s : State) : State :=
  if !s.rec_.ddr || !s.fwRuns || s.part.inReset then s
  else
    let es := (s.ev.queue.filter fun e => !e.written).take (sliceBytes / 32)
    let seqs := es.map (·.seq)
    let s := es.foldl State.passEntry s
    let queue := s.ev.queue.map fun (e : QEntry) => if seqs.contains e.seq then { e with written := true } else e
    let s := State.freeEntries { s with ev := { s.ev with queue := queue } }
    let room := sliceBytes - 32 * es.length
    if room = 0 || s.gaf.mode == .safeHold || s.gaf.mode == .boot then s else s.archiveSlice room

/-! ### RECORD_LIST and RECORD_READ (R408 to R411) -/

/-- An entry of RECORD_LIST. -/
def Record.entry (r : Record) : Bytes :=
  packLe [(4, r.num), (1, if r.archive then 2 else 1), (1, r.source), (1, r.state), (1, b2n r.protect), (8, r.tTrig / nsF),
          (8, r.bytes), (4, if r.archive then Bytes.u32 r.data 0x20 + Bytes.u32 r.data 0x24 else r.rows.length), (4, r.cfgGen.toNat)]

/-- RECORD_LIST. -/
def State.recordList (first : U32) (kinds rsv : Byte) (count : U16) (buf : BufDesc) (path : Path) (s : State) : State × Reply :=
  if !s.rec_.ddr then (s, noRes 0xB03)
  else if 3 < kinds.toNat then (s, badAt 4)
  else if rsv ≠ 0 then (s, badAt 5)
  else if !within 1 4096 count.toNat then (s, badAt 6)
  else match bufBad buf 8 path with
    | some p => (s, badAt p)
    | none =>
      let rs := s.rec_.records
      let want := rs.filter fun r => decide (first.toNat ≤ r.num) && bitOf kinds.toNat (b2n r.archive)
      let n := min count.toNat (bufFits buf 32 want.length)
      let mb (a : Bool) : Nat := s.areaFree a / 2 ^ 20
      s.deliver buf ((want.take n).flatMap Record.entry)
        (packLe [(4, rs.length), (4, (rs.head?).elim 0 (·.num)), (4, (rs.getLast?).elim 0 (·.num)), (4, mb false), (4, mb true),
          (4, s.rec_.missed), (4, s.rec_.overwritten), (2, n), (10, 0)])

/-- A row in native form: the 8-byte history entries, then the digital bits. An entry that never came is INVALID and MISSING. -/
def DrecRow.bytes (nDig : Nat) (r : DrecRow) : Bytes :=
  (r.anas.flatMap fun a =>
    match a with
    | some (v, q) => sleBytes 4 v ++ leBytes 2 q.toNat ++ [0, 0]
    | none => leBytes 4 0 ++ leBytes 2 (qInvalid ||| qMissing).toNat ++ [0, 0]) ++ leBytes (4 * ceilDiv nDig 32) r.digs

/-- The native form of a record (R410). -/
def Record.native (r : Record) : Bytes :=
  if r.archive then r.data.take (if r.state = 0 then r.copied else r.data.length)
  else
    let b := r.cfg
    let na := b.u16 2
    let nd := b.u16 4
    let first := (r.rows.head?).elim (0, 0) (·.tick)
    let qual := qOr (r.rows.flatMap fun x => x.anas.map fun a => a.elim (qInvalid ||| qMissing) (·.2))
    packLe [(4, r.num), (1, 1), (1, r.source), (1, r.state), (1, 0)] ++ t80Bytes r.tTrig ++
    packLe [(2, r.trigCh), (8, tickStart r.rate first / nsF), (2, first.2), (2, r.rate), (4, r.rows.length), (2, na), (2, nd),
      (4, r.events.length), (4, r.cfgGen.toNat), (2, qual.toNat), (2, 0), (4, rowBytes b), (8, 0)] ++
    (((drecAna b).zip r.kinds).flatMap fun x => packLe [(2, x.1), (1, x.2.1), (1, 0), (4, x.2.2.toNat)]) ++
    Bytes.slice b (digitalAt na) (4 * nd) ++ r.rows.flatMap (DrecRow.bytes nd) ++ r.events.flatten

/-- A file of a record: its native form, or a COMTRADE file, whose text the standard lays out from the native form. -/
def Record.file (format file : Nat) (r : Record) : Bytes :=
  if format = 0 then r.native
  else Config.comtrade file r.num (r.native ++ packLe [(4, r.cfg.u8 6), (8, (r.utc % 2 ^ 64).toNat), (1, r.tmq)])

/-- RECORD_READ. -/
def State.recordRead (record : U32) (format file : Byte) (fl : U16) (offset : U64) (buf : BufDesc) (path : Path) (s : State) :
    State × Reply :=
  if !s.rec_.ddr then (s, noRes 0xB03)
  else if 1 < format.toNat then (s, badAt 4)
  else if format.toNat < file.toNat then (s, badAt 5)
  else if 7 < fl.toNat then (s, badAt 6)
  else match bufBad buf 0x10 path with
    | some p => (s, badAt p)
    | none =>
      match s.rec_.records.find? fun r => r.num == record.toNat with
      | none => (s, noRes 0xB01)
      | some r =>
        if format = 1 && r.state = 0 then (s, noRes 0xB02)
        else if fl.getLsbD 2 && r.state = 0 then (s, busy 0)
        else
          let all := r.file format.toNat file.toNat
          let data := (all.drop offset.toNat).take (bufRoom buf)
          let s := if fl.getLsbD 0 then s.modRecord r.num fun r => { r with protect := true } else s
          let s := if fl.getLsbD 1 then s.modRecord r.num fun r => { r with protect := false } else s
          let s := if fl.getLsbD 2 then { s with rec_ := { s.rec_ with records := s.rec_.records.filter fun x => x.num != r.num } } else s
          s.deliver buf data (packLe [(4, data.length), (8, all.length), (1, r.state)])

/-! ### Meanings -/

/-- DREC_END (R406). -/
def execDrecEnd (dt : Nat) (n : Fin 8) (s : State) : Host.Outcome State Fault Refusal := goOn dt (State.drecEnd n.val) s

/-- RECORD_EVENT_COPY_END (R407). -/
def execRecordEventCopyEnd (dt : Nat) (n : Fin 8) (s : State) : Host.Outcome State Fault Refusal := goOn dt (State.copyEnd n.val) s

/-- RECORD_WRITER_SLICE (R407). -/
def execRecordWriterSlice (dt : Nat) (s : State) : Host.Outcome State Fault Refusal := goOn dt State.writerSlice s

end Sys2Proof.Machine
end

