-- ==== Sys2Proof/Machine/Trace.lean ====
section
/-!
DEFINITION. Traces of the converter control engine (R292 to R295).
-/
namespace Sys2Proof.Machine

/-- Converter-wide number of the first sub-module of a converter (R268). -/
def smBase (rs : List Rec) (c : Nat) : Nat := if c = 0 then 0 else if (convOn rs 0).isSome then convSize rs 0 else 0

/-- The key of a sub-module by its number within a converter. -/
def smKey (rs : List Rec) (c i : Nat) : Option Nat := ((List.range 6).flatMap fun a => armKeys rs c a)[i]?

/-- A trace node exists for the configuration (R292). -/
def nodeOk (rs : List Rec) (node : U32) : Bool :=
  let n := node.toNat
  let g := n / 2 ^ 24
  let c := n / 2 ^ 23 % 2
  let i := n % 2 ^ 16
  (convOn rs c).isSome && (n / 2 ^ 16) % 128 == 0 &&
    (match g with
      | 1 => decide (i < 28)
      | 2 | 3 => decide (i < 8)
      | 4 => decide (i < 12)
      | 5 => decide (i < 48)
      | 6 => decide (i < 8)
      | 7 => decide (smBase rs c ≤ i ∧ i < smBase rs c + convSize rs c)
      | 8 => decide (i < 4)
      | _ => false)

/-- The value of a trace node in the present fast cycle (R292). References are in the units of R284 (log entry 64). -/
def State.nodeVal (s : State) (node : U32) : Fp :=
  let n := node.toNat
  let c := n / 2 ^ 23 % 2
  let i := n % 2 ^ 16
  let x := s.cv c
  let m := x.meas
  let num (l : List Nat) (k : Nat) : Fp := fpOf (l.getD k 0 : Nat)
  match n / 2 ^ 24 with
  | 1 => if i < 11 then m.raw.getD i 0 else if i < 14 then m.iac.getD (i - 11) 0 else if i < 17 then m.icir.getD (i - 14) 0
         else Fp.ofInt (m.age.getD (i - 17) 0)
  | 2 => m.idq.getD i 0
  | 3 => if i < 4 then m.pq.getD i 0 else (x.st.ramps.get ({ } : Ramp) (i - 4)).ref
  | 4 => ([x.st.xiD, x.st.xiQ, m.outer.getD 0 0, m.outer.getD 1 0] ++ x.st.xiC ++ x.st.r1 ++ [x.st.xiW, m.wsum]).getD i 0
  | 5 =>
    let a := i / 8
    match i % 8 with
    | 0 => m.uref.getD a 0
    | 1 => num m.nArm a
    | 2 => num m.nav a
    | 3 => m.usum.getD a 0
    | 4 => m.warm.getD a 0
    | 5 => num m.swaps a
    | 6 => num m.switchings a
    | _ => m.raw.getD a 0
  | 6 => if i < 4 then m.tab.getD i 0 else (s.conv.tables.get ({ } : CompRun) (i - 4)).k
  | 7 => (smKey s.cfg c (i - smBase s.cfg c)).elim 0 s.uc
  | _ => match i with
    | 0 => Fp.ofRat (m.thc.toNat : Nat) 1
    | 1 => ((s.cvRec c).elim 0 fun b => (s.tracker (b.u8 3)).freq)
    | 2 => fpOf (x.st.cause.toNat : Nat)
    | _ => fpOf (s.conv.lateReport : Nat)

/-- Changes the trace set. -/
def State.modTrace (f : Trace → Trace) (s : State) : State := { s with conv := { s.conv with trace := f s.conv.trace } }

/-- A level trigger between two samples (R294). -/
def levelHit (kind : Nat) (thresh last now : Fp) : Bool :=
  if kind = 1 then Fp.lt last thresh && Fp.le thresh now else kind == 2 && Fp.lt thresh last && Fp.le now thresh

/-- Takes one sample of an armed set in fast cycle `n` (R294). The trigger sample counts among those that follow. -/
def Trace.sample (a : TraceArgs) (n : Nat) (vals : List Fp) (t : Trace) : Trace :=
  let pre := a.pre.toNat
  match t.state with
  | .armed =>
    let arg := a.trigArg.toNat
    let level := (t.samples.head?).any fun l => levelHit a.trig.toNat a.thresh (l.2.getD arg 0) (vals.getD arg 0)
    if t.fired || level then
      let kept := t.samples.take pre
      let left := 65535 - pre
      { t with state := if left = 0 then .held else .post, samples := (n, vals) :: kept, preValid := kept.length, postLeft := left
               fired := false }
    else { t with samples := (n, vals) :: t.samples.take (max pre 1) }
  | .post =>
    { t with samples := (n, vals) :: t.samples, postLeft := t.postLeft - 1, state := if t.postLeft ≤ 1 then .held else .post }
  | _ => t

/-- A group's fire, for trigger 5: the newest fire stamp of a group. -/
def State.lastFire (s : State) (g : Nat) : Option Fine :=
  let x := s.grp g
  (((x.fire.map (·.t)).toList ++ (x.segs.filterMap fun e => if e.2.state == .free then none else some e.2.tTrig)).foldl
    (fun (m : Option Fine) t => match m with
      | none => some t
      | some y => some (max y t)) none)

/-- The trace set at the end of the control law of fast cycle `n` (R294). While it is stopped, LOSS counts. -/
def State.traceCycle (n : Nat) (s : State) : State :=
  let t := s.conv.trace
  match t.args with
  | none => s
  | some a =>
    let s := if a.trig = 5 && (s.lastFire a.trigArg.toNat).any (fun f => cycleStart (t.armedAt / 100000, t.armedAt % 100000) ≤ f)
      then s.traceTrig 5 a.trigArg.toNat else s
    let due := if a.div = 0 then t.resample else (n - t.armedAt) % a.div.toNat == 0
    let s := s.modTrace fun t => { t with resample := false }
    if !due then s
    else if t.stopped then s.modTrace fun t => { t with loss := satAdd 32 t.loss 1 }
    else s.modTrace (Trace.sample a n (a.nodes.map s.nodeVal))

/-- Shedding stage 2 or SAFE_HOLD stops an armed set, whose samples stay readable (R294). -/
def State.traceStop (s : State) : State :=
  s.modTrace fun t => if t.state == .armed || t.state == .post then { t with state := .held, stopped := true } else t

/-- Recovery below stage 2 arms a stopped set again (R294). -/
def State.traceResume (s : State) : State :=
  let c := cycleNum s.cycle
  s.modTrace fun t =>
    if t.stopped then { t with state := .armed, stopped := false, samples := [], preValid := 0, fired := false, armedAt := c } else t

/-- TRACE_CONFIGURE (R293). -/
def State.traceConfigure (mb : Nat) (op : Byte) (a : TraceArgs) (s : State) : State × Reply :=
  let arm := op = 1
  let level := a.trig = 1 || a.trig = 2
  let argOk := if level then decide (a.trigArg < a.nCh) else if a.trig = 4 then decide (a.trigArg.toNat < 32)
    else if a.trig = 5 then decide (a.trigArg.toNat < 8) else a.trigArg == 0
  let bad := firstBad
    ([(0, within 1 3 op.toNat), (1, if arm then within 1 16 a.nCh.toNat else a.nCh == 0), (4, !arm || decide (a.pre.toNat ≤ 65535)),
      (8, !arm || within 1 5 a.trig.toNat), (9, !arm || argOk), (0xA, a.rsv == 0), (0xC, !arm || !level || Fp.isFinite a.thresh)] ++
     (if arm then (a.nodes.zipIdx.map fun e => (0x10 + 4 * e.2, nodeOk s.cfg e.1)) else []))
  let st := s.conv.trace.state
  if arm && st != .idle then (s, busy s.conv.trace.owner)
  else match bad with
  | some o => (s, badAt o)
  | none =>
    if arm then (s.modTrace fun _ => { state := .armed, args := some a, owner := mb, armedAt := cycleNum s.cycle }, okNone)
    else if op = 2 then
      (s.modTrace fun t => if st == .armed || st == .post then { t with state := .idle, stopped := false } else t, okNone)
    else (s.modTrace fun t => if st == .armed then { t with fired := true } else t, okNone)

/-- The code of a trace state (R295). -/
def TraceState.code : TraceState → Nat
  | .idle => 0
  | .armed => 1
  | .post => 2
  | .held => 3

/-- TRACE_READ (R295). -/
def State.traceRead (first count : U32) (chMask rflags : U16) (rsv : U32) (buf : BufDesc) (path : Path) (s : State) :
    State × Reply :=
  let t := s.conv.trace
  let a := t.args.getD { nCh := 0, div := 0, pre := 0, trig := 0, trigArg := 0, thresh := 0, nodes := [] }
  let xs := t.samples.reverse
  if t.state != .held then (s, noRes 0x0707)
  else
    let bad := firstBad
      [(0, decide (first.toNat < max 1 xs.length)), (4, within 1 65536 count.toNat && decide (first.toNat + count.toNat ≤ xs.length)),
       (8, decide (chMask.toNat < 2 ^ a.nCh.toNat)), (0xA, onlyBits 1 rflags.toNat), (0xC, rsv == 0)]
    match bad with
    | some o => (s, badAt o)
    | none => match bufBad buf 0x10 path with
      | some o => (s, badAt o)
      | none =>
        let span := (xs.drop first.toNat).take count.toNat
        let start (n : Nat) : Nat := n / 100000 * 1000000000 + n % 100000 * 10000
        let times := if a.div = 0 then span.flatMap fun x => leBytes 8 (start x.1) else []
        let chans := ((List.range a.nCh.toNat).filter (bitOf chMask.toNat)).flatMap fun c =>
          span.flatMap fun x => leBytes 4 (x.2.getD c 0).toNat
        let data := (times ++ chans).take (bufRoom buf)
        let trig := (xs[t.preValid]?).elim 0 (·.1)
        let head := packLe [(8, start trig), (4, trig % 100000), (4, t.preValid), (2, a.div.toNat), (2, t.state.code), (4, t.loss),
          (4, data.length)] ++ zeros 12
        let (s, r) := s.deliver buf data head
        (if bitOf rflags.toNat 0 then s.modTrace fun _ => { } else s, r)

end Sys2Proof.Machine
end

