-- ==== Sys2Proof/Machine/Mode.lean ====
section
/-!
DEFINITION. The operating modes: requests and their order, taking effect at a tick, and MODE_SET (R30 to R36, R66 to R68, R495).
-/
namespace Sys2Proof.Machine

/-- Changes the Gaffer. -/
def State.modGaf (f : Gaffer → Gaffer) (s : State) : State := { s with gaf := f s.gaf }

/-- Opcodes that SAFE_HOLD permits (R31). -/
def safeOp (op : Nat) : Bool := [0x01, 0x03, 0x04, 0xB0, 0xB1, 0xB2, 0xD1, 0xE0].contains op

/-- EV_MODE of a change in effect at a tick start (R392). -/
def State.evMode (old new : Mode) (c : SafeCause) (t : Fine) (s : State) : State :=
  s.post (mkEv 0x1A 0 t [(1, old.code), (1, new.code), (1, c.code), (1, 0), (2, (tickOf s.rate t).2)])

/-- The mode that a waiting MODE_SET names. -/
def HostCmd.modeNamed : HostCmd → Option Mode
  | .modeSet m _ _ => Mode.ofCode m.toNat
  | _ => none

/-- A waiting MODE_SET for another mode than `m` loses to a trigger of higher rank (R36). -/
def State.preempt (m : Mode) (s : State) : State :=
  s.finishWaiting (fun o => o.wait == .mode && o.cmd.modeNamed != some m) fun _ => (.wrongMode, 7, [])

/-- A mode is accepted; it takes effect at the next tick (R34). -/
def State.pendMode (m : Mode) (by_ : ModeBy) (s : State) : State :=
  s.modGaf fun g => { g with pend := some { mode := m, by_, at_ := nextTickStart s.rate s.now } }

/-- A cause of SAFE_HOLD arises (R33, R36, R495). -/
def State.requestSafe (c : SafeCause) (s : State) : State :=
  if s.part.inReset || s.gaf.mode == .boot || s.gaf.romHold then s
  else if s.gaf.mode == .safeHold then
    let returning := s.gaf.pend.any fun p => p.by_ == .recover
    if c == .power then (if returning then s.modGaf fun g => { g with pend := none } else s)
    else if c == .modeSet then s
    else
      let s := s.preempt .safeHold
      let cause := if s.gaf.safeCause.rank < c.rank then c else s.gaf.safeCause
      let news := cause != s.gaf.safeCause || s.gaf.powerDriven
      let s := s.modGaf fun g => { g with safeCause := cause, powerDriven := false, pend := none }
      if news then s.evMode .safeHold .safeHold cause (tickStart s.rate s.tick) else s
  else
    let s := s.preempt .safeHold
    match s.gaf.pend with
    | some p =>
      match p.by_ with
      | .safe d => if d.rank < c.rank then s.modGaf fun g => { g with pend := some { p with by_ := .safe c } } else s
      | _ => s.pendMode .safeHold (.safe c)
    | none => s.pendMode .safeHold (.safe c)

/-- The arbiter changes the role, and with it the mode (R33, R36): a SAFE_HOLD trigger outranks it, a MODE_SET loses to it. -/
def State.requestRole (m : Mode) (s : State) : State :=
  match s.gaf.pend with
  | some { by_ := .safe _, .. } => s
  | _ => if s.gaf.mode == m && s.gaf.pend.isNone then s else (s.preempt m).pendMode m .arbiter

/-! ### Entry into and exit from SAFE_HOLD -/

/-- What an operation has set up and SAFE_HOLD takes away with it (R68). -/
def State.dropWait (o : Op) (s : State) : State :=
  match o.wait with
  | .setpoint c _ | .deblock c => s.modCv c fun x =>
      { x with pend := x.pend.filter (·.op != o.seq), deblock := x.deblock.filter (·.op != o.seq)
               released := x.released && !x.deblock.any (·.op == o.seq) }
  | .arm g => s.modGrp g fun x => { x with pendArm := [] }
  | .skew g => s.modGrp g fun x => { x with skew := none }
  | .increment d => s.modDom d fun x => { x with pend := none }
  | .valve false m => (List.range 24).foldl (fun s n =>
      if bitOf m n then { s with valve := { s.valve with lanes := s.valve.lanes.put n { s.lane n with pendRelease := false } } } else s) s
  | .commit => s.modGaf fun g => { g with commit := none }
  | .cal => { s with store := { s.store with calCommit := none } }
  | _ => s

/-- On entry into SAFE_HOLD the open transaction is aborted, and every operation in flight that SAFE_HOLD does not permit completes
with WRONG_MODE (R68). -/
def State.dropOps (s : State) : State :=
  let gone := s.gaf.ops.filter fun o => !safeOp o.cmd.opcode && o.outcome.isNone
  let s := s.modGaf fun g => { g with txn := none }
  gone.foldl (fun s o => (s.dropWait o).finishOp o.seq .wrongMode 8 []) s

/-- Work that stops on entry into SAFE_HOLD (R31, R161, R198, R294, R338, R407). -/
def State.enterSafeHold (s : State) : State :=
  let s := s.stopTasks
  let s := (s.gooseSafeHold true).logicSafeHold
  let s := (s.shedGroups.traceStop).truncateRecords
  s.dropOps

/-- The instances run again from the tick that starts at `t`, with the state they had (log entry 26). -/
def State.startInsts (t : Fine) (s : State) : State :=
  let k := tickOf s.rate t
  (s.recs 0x501).foldl (fun s r =>
    if (s.place.insts.find? r.1).isNone then s
    else s.modInst r.1 fun x => { x with start := some k, done := [], duels := [], decided := tickBefore s.rate k }) s

/-- Work that starts again when SAFE_HOLD or BOOT is left (R161, R195, R294, R363). -/
def State.leaveHold (t : Fine) (was : Mode) (s : State) : State :=
  let s := (s.startInsts t).autorun
  if was == .safeHold then
    let s := (s.gooseSafeHold false).logicSafeHold
    if s.pwr.stage < 2 then s.unshedGroups.traceResume else s
  else s

/-! ### Taking effect -/

/-- The cause in force of a change. -/
def PendMode.cause (p : PendMode) : SafeCause :=
  match p.by_ with
  | .safe c => c
  | _ => .none

/-- A mode takes effect (R34, R35, R66): the converters are blocked first, then outputs change. -/
def State.enterMode (p : PendMode) (s : State) : State :=
  let old := s.gaf.mode
  let s := s.modGaf fun g =>
    { g with mode := p.mode, pend := none, since := p.at_ / nsF, prevMode := if p.mode == .safeHold then old else g.prevMode
             safeCause := p.cause, powerDriven := p.cause == .power }
  let s := s.evMode old p.mode p.cause p.at_
  let blocks := old == .service || p.mode == .commission || p.mode == .test || p.mode == .safeHold
  let s := if blocks then (s.latch_ 0 0x10).latch_ 1 0x10 else s
  let s :=
    if p.mode == .safeHold then s.enterSafeHold
    else if old == .safeHold || old == .boot then s.leaveHold p.at_ old
    else s
  let s := if p.mode == .standby then { s with pair := { s.pair with swept := [], readySince := none } } else s
  let s := if old == .boot && s.isArbiter then { s with arb := { startAt := p.at_ } } else s
  let s := s.outputs
  let s := s.preempt p.mode
  let s := s.finishWaiting (fun o => o.wait == .mode) fun _ => (.ok, 0, leBytes 8 (p.at_ / nsF))
  if old == .boot && s.pwr.stage == 5 then s.requestSafe .power else s

/-- The pending mode takes effect if its tick has started. -/
def State.modeTake (s : State) : State :=
  match s.gaf.pend with
  | some p => if p.waits || s.now < p.at_ || s.part.inReset then s else s.enterMode p
  | none => s

/-! ### MODE_SET (R66, R67) -/

/-- The partner of a pair holds the active role, as its mirror tells (R33). -/
def State.partnerActive (s : State) : Bool := s.pair.partner.any fun p => p.state.val == 4

/-- Why a MODE_SET to a mode is refused: the condition code of R67. -/
def State.modeRefused (m : Mode) (over_ : Bool) (s : State) : Option Nat :=
  let table := match s.gaf.mode, m with
    | .commission, .service | .commission, .test | .commission, .standby | .service, .commission | .service, .test
    | .standby, .commission | .test, .service | .test, .commission | .safeHold, .commission => true
    | .commission, .safeHold | .service, .safeHold | .standby, .safeHold | .test, .safeHold => true
    | _, _ => false
  let ready := m == .service || m == .standby || (m == .test && s.gaf.mode == .commission)
  if !table then some 1
  else if s.gaf.mode == .safeHold then (if s.gaf.powerDriven && !over_ then some 0xA else none)
  else if !ready then none
  else if !s.cfgValid then some 2
  else if !s.place.proven then some 3
  else if !s.timeSync then some 4
  else if m == .standby && !s.paired then some 5
  else if m == .standby && !s.partnerActive then some 6
  else none

/-- MODE_SET from step 6 of R59 on. A paired module waits for its role (R417). -/
def State.modeSet (code flags : Byte) (rsv : U16) (s : State) : State × Reply :=
  match s.gaf.ops.find? fun o => o.wait == .mode && o.started && o.outcome.isNone with
  | some o => (s, busy o.h.mb.val)
  | none =>
    match firstBad [(0, (Mode.ofCode code.toNat).isSome), (1, onlyBits 1 flags.toNat), (2, rsv == 0)] with
    | some o => (s, badAt o)
    | none =>
      let m := (Mode.ofCode code.toNat).getD .boot
      let higher := s.gaf.pend.any fun p => match p.by_ with
        | .safe _ | .arbiter => true
        | _ => false
      if m == .boot then (s, okWith (leBytes 8 (s.nowNs + 100000)))
      else if m == s.gaf.mode then (s, okWith (leBytes 8 s.gaf.since))
      else if higher then
        (s, if m == .safeHold && s.gaf.pend.any (fun p => p.mode == .safeHold) then .wait .mode else wrongMode 7)
      else
        match s.modeRefused m (bitOf flags.toNat 0) with
        | some c => (s, wrongMode c)
        | none =>
          if m == .safeHold then (s.requestSafe .modeSet, .wait .mode)
          else
            let waits := s.paired && ((m == .service && s.pair.role != .active) || m == .standby)
            ((s.pendMode m .host).modGaf fun g => { g with pend := g.pend.map fun p => { p with waits } }, .wait .mode)

/-- The module asks for a role (R417): boot has ended with AUTOSTART, or a MODE_SET waits for one. -/
def State.candidate (s : State) : Bool :=
  s.paired && (s.gaf.pend.any (·.waits) || (s.gaf.mode == .boot && s.part.bootStep == 3 && s.gaf.pend.isNone))

end Sys2Proof.Machine
end

