-- ==== Sys2Proof/Machine/Pair.lean ====
section
/-!
DEFINITION. The redundant pair: records, heartbeat, what a module does on ARB frames, readiness, the mirror, demotion and takeover,
and planned transfers (R413 to R431).
-/
namespace Sys2Proof.Machine

/-! ### Records (R414, R431, R438) -/

/-- Layout and checks of the pair and cascade records. -/
def pairSpec (rtype obj : Nat) (b : Bytes) : Option RecSpec :=
  match rtype with
  | 0xC01 => some (fixedRec 8 [(0, decide (b.u8 0 ≤ 1)), (1, onlyBits 1 (b.u8 1)), (2, within 10 3600 (b.u16 2)), (4, zeroAt b 4 4)]
      (obj == 0) [13])
  | 0xC02 => some (fixedRec 4 [(0, within 2 4 (b.u8 0)), (1, zeroAt b 1 3)] (obj == 0) [5])
  | _ => none

/-- The cross-checks of R414 against the straps. -/
def pairCross (redun : Nat) (rs : List Rec) : Option CommitErr :=
  let lane := (recsOf rs 0x801).find? fun r => (redun == 1 || redun == 2) && r.2.u8 1 != redun - 1
  if (recIn rs 0xC01 0).isSome && (redun == 0 || redun == 3) then some (.field 0xC01 0 0)
  else if (recIn rs 0xC02 0).isSome && redun != 0 then some (.field 0xC02 0 0)
  else lane.map fun r => .field 0x801 r.1 1

/-- The module's side of the pair: false for A, true for B. -/
def State.side (s : State) : Bool := s.redun == 2
/-- The device is strapped as a module of a pair. -/
def State.isModule (s : State) : Bool := (s.redun == 1 || s.redun == 2) && !s.part.inReset
/-- This module is the preferred one (R431). -/
def State.isPreferred (s : State) : Bool := (s.fld 0xC01 0 0 (·.u8 0) == 1) == s.side
/-- REVERT_HOLD. -/
def State.revertHold (s : State) : Fine := s.fld 0xC01 0 60 (·.u16 2) * secF

/-- Changes the pair logic. -/
def State.modPair (f : PairMod → PairMod) (s : State) : State := { s with pair := f s.pair }

/-- CTIME of a basic cycle (R417). -/
def ctime (c : Nat × Nat) : Nat := c.1 % 32768 * 2 ^ 17 + c.2

/-- The instant of a CTIME: of the seconds it may name, the nearest. -/
def ctimeAt (now : Fine) (ct : Nat) : Fine :=
  let base := now / secF
  let d := (ct / 2 ^ 17 + 32768 - base % 32768) % 32768
  let sec := if d < 16384 then base + d else base + d - 32768
  cycleStart (sec, ct % 2 ^ 17)

/-! ### Digests and readiness (R423) -/

/-- A record as CONFIG_DIGEST takes it. -/
def digestRec (r : Rec) : Bytes :=
  let zero (off n : Nat) (b : Bytes) : Bytes := b.take off ++ zeros (min n (b.length - off)) ++ b.drop (off + n)
  let b :=
    if r.rtype / 256 == 0xC || r.rtype == 0xA08 || r.rtype == 0xB01 then zeros r.body.length
    else if r.rtype == 0x801 then zero 1 1 r.body
    else if r.rtype == 0xA02 then zero 0 6 (zero 0x28 4 (zero 0x30 16 r.body))
    else r.body
  packLe [(2, r.rtype), (1, 1), (1, 0), (4, r.obj), (2, r.body.length), (2, 0)] ++ b

/-- Records in ascending RTYPE and OBJECT. -/
def sortRecs (rs : List Rec) : List Rec :=
  sortBy (fun a b => decide (a.rtype < b.rtype ∨ (a.rtype = b.rtype ∧ a.obj ≤ b.obj))) rs

/-- CONFIG_DIGEST. -/
def State.configDigest (s : State) : U32 :=
  crc32c ((sortRecs s.cfg).flatMap digestRec ++ leBytes 16 s.gaf.committed.toNat)

/-- Every instance has been received in a sweep since STANDBY was entered. -/
def State.sweepDone (s : State) : Bool := (s.recs 0x501).all fun r => s.pair.swept.contains r.1

/-- READY (R423). -/
def State.ready (s : State) : Bool :=
  s.paired && s.gaf.mode == .standby && s.pair.role != .active && s.timeSync && s.pwr.stage == 0 &&
  decide (100 ≤ s.pair.mirRun) && decide (cycleNum s.cycle ≤ s.pair.mirCycle + 1) && s.sweepDone &&
  s.pair.partner.any fun p => p.fwVer == s.gaf.fwVer && p.configDigest == s.configDigest && p.inputDigest == s.place.inputDigest

/-- A core rail is below its stop threshold (R416). -/
def State.coreDown (s : State) : Bool :=
  (s.pwr.rails.take 2).zipIdx.any fun r => if s.part.inReset then beyond r.2 2 r.1.level else r.1.band == 3 && !r.1.overV

/-- STATE of the heartbeat (R417). -/
def State.hbState (s : State) : Fin 7 :=
  if s.coreDown then 0
  else if s.candidate then 6
  else if s.gaf.mode == .boot then 1
  else if s.gaf.mode == .safeHold then 5
  else if s.paired && s.serves then 4
  else if s.ready then 3
  else 2

/-- INHIBIT, here or at the partner (R430). -/
def State.inhibited (s : State) : Bool := s.pair.inhibit || s.pair.partner.any (·.inhibit)

/-- The standby of the pair is READY, as this module knows. -/
def State.standbyReady (s : State) : Bool :=
  if s.pair.role == .active then s.pair.partner.any fun p => p.state.val == 3 else s.ready

/-- PAIR_REVERT operations that wait fail (R430). -/
def State.revertFails (code : Nat) (s : State) : State := s.finishWaiting (fun o => o.wait == .pair) fun _ => (.noResource, code, [])

/-- Follows READY: a request for the role ends with it, and so does a PAIR_REVERT that waits for its TRANSFER (R429, R430). -/
def State.followReady (s : State) : State :=
  let s := s.modPair fun p => { p with readySince := if s.ready then some (p.readySince.getD s.now) else none }
  if s.standbyReady || s.pair.transfer.isSome || !s.pair.reqTransfer then s
  else (s.modPair fun p => { p with reqTransfer := false, byRevert := false }).revertFails 0xC01

/-- The heartbeat of a basic cycle (R417, R419); it is sent in reset too (R449). -/
def State.heartbeat (c : Nat × Nat) (s : State) : State :=
  if s.redun != 1 && s.redun != 2 then s
  else
    let st := s.hbState
    let p := s.pair
    let epoch := if st == 4 then p.epoch else p.knownEpoch
    let s := s.modPair fun p => { p with revAck := p.revAck - 1, knownEpoch := max p.knownEpoch epoch }
    s.emit (.hb { side := s.side, preferred := s.fld 0xC01 0 0 (·.u8 0) == 1, state := st, cmdOk := st == 4, arbLost := p.arbLost
                  revAck := decide (0 < p.revAck), reqTransfer := p.reqTransfer, ctime := BitVec.ofNat 32 (ctime c), epoch })

/-! ### Mirror (R425) -/

/-- The module mirrors, or follows a mirror (R31). -/
def State.mirrors (s : State) : Bool :=
  s.isModule && s.paired && (s.gaf.mode == .service || s.gaf.mode == .standby)

/-- The identity item. -/
def State.identity (s : State) : PairIdentity :=
  { fwVer := s.gaf.fwVer, configDigest := s.configDigest, inputDigest := s.place.inputDigest, placeDigest := s.place.digest
    state := s.hbState, arbLost := s.pair.arbLost, inhibit := s.pair.inhibit, knownEpoch := s.pair.knownEpoch }

/-- The item of an instance: the state after the tick it executed last. -/
def State.instItem (sweep : Bool) (n : Nat) (s : State) : Option MirrorItem :=
  (s.inst n).hist.head?.map fun h => .inst n h.2 sweep

/-- The sequence-number item. -/
def State.numbersItem (s : State) : MirrorItem :=
  .numbers (s.ev.nextSeq - 1) (s.eng.goose.map fun g => (g.1, { stNum := g.2.stNum, sqNum := g.2.sqNum, sent := g.2.sent }))

/-- The item of a lane. -/
def State.laneItem (n : Nat) (s : State) : MirrorItem :=
  let x := s.lane n
  let mask (p : HubPos → Bool) : Byte := BitVec.ofNat 8 (maskOf 8 fun i => p (x.hubs.get { } i))
  .lane (Fin.ofNat 24 n)
    { mstate := Fin.ofNat 5 x.state.code, released := x.released, allSel := x.allSel, selected := mask (·.selected)
      reach := Fin.ofNat 8 x.reach, spareOwner := x.spares.map (BitVec.ofNat 8), joined := mask (·.uid.isSome) }

/-- Sends items, if there are any. -/
def State.sendMirror (items : List MirrorItem) (s : State) : State := if items.isEmpty then s else s.emit (.mirror items)

/-- Items of a fast cycle: identity; of the active module also the converters, at a matrix boundary the lanes, event SEQ where it
has moved, and at the start of a second the sweep. -/
def State.mirrorCycle (c : Nat × Nat) (s : State) : State :=
  if !s.mirrors then s
  else
    let ident := MirrorItem.identity s.identity
    if !s.serves then s.sendMirror [ident]
    else
      let convs := ([0, 1] : List (Fin 2)).filterMap fun i => if (s.cvRec i.val).isSome then some (MirrorItem.converter i (s.cv i.val).st) else none
      let lanes := if c.2 % 16 = 0 then (List.range (numLanes s.isL)).filterMap fun n => (s.laneRec n).map fun _ => s.laneItem n else []
      let sweep := if c.2 = 0 then (s.recs 0x501).filterMap fun r => s.instItem true r.1 else []
      let nums := if s.pair.seqSent != s.ev.nextSeq then [s.numbersItem] else []
      (s.modPair fun p => { p with seqSent := s.ev.nextSeq }).sendMirror (ident :: convs ++ lanes ++ sweep ++ nums)

/-- Items after a pass of the Gather: instances whose part changed, and the numbers. -/
def State.mirrorPass (s : State) : State :=
  if !s.mirrors || !s.serves then s
  else
    let moved := (s.recs 0x501).filterMap fun r => (s.inst r.1).hist.head?.bind fun h =>
      if s.pair.sent.find? r.1 == some h.2 then none else some (r.1, h.2)
    let s := s.modPair fun p => { p with sent := moved.foldl (fun t m => t.put m.1 m.2) p.sent, seqSent := s.ev.nextSeq }
    s.sendMirror (moved.map (fun m => MirrorItem.inst m.1 m.2 false) ++ [s.numbersItem])

/-- Items at the end of a logic cycle. -/
def State.mirrorTask (n : Nat) (r : Retained) (s : State) : State :=
  if s.mirrors && s.serves then s.sendMirror [.logic (Fin.ofNat 8 n) r] else s

/-! ### Demotion and takeover (R422, R426, R427) -/

/-- EV_SWITCHOVER or EV_REVERT of this module's change of role (R392, R422). -/
def State.evRole (code : Nat) (old new cause epoch : Nat) (t : Fine) (s : State) : State :=
  s.post (mkEv code 0 t [(1, old), (1, new), (1, cause), (1, 0), (4, epoch)])

/-- The module gives up the active role at an instant (R422): commands, publication and drive stop, and it enters STANDBY. -/
def State.demote (code cause : Nat) (t : Fine) (s : State) : State :=
  if s.pair.role != .active then s.modPair fun p => { p with demoteAt := none }
  else
    let e := s.pair.epoch
    let s := if s.gaf.mode == .service then (s.latch_ 0 0x10).latch_ 1 0x10 else s
    let s := s.modPair fun p => { p with role := .standby, activeFrom := none, demoteAt := none, transfer := none, predriven := false }
    let s := s.evRole code 1 2 cause e t
    let s := if s.gaf.mode == .service || s.gaf.pend.any (·.mode == .service) then s.requestRole .standby else s
    s.outputs

/-- A GOOSE control block after a takeover (R427): a state change if its members differ from what was last sent, else a repeat. -/
def State.gooseTakeover (s : State) : State :=
  (s.recs 0x5F0).foldl (fun s r =>
    let g := s.eng.goose.get { } r.1
    if !g.running then s
    else
      let ms := s.gooseMembers r.1
      let vals := if ms.isEmpty then g.vals else ms.map s.memberVal
      let plain (v : GooseVal) : Bool := match v with
        | .utc _ _ => false
        | _ => true
      if (vals.filter plain) == (g.sent.filter plain) then
        ({ s with eng := { s.eng with goose := s.eng.goose.put r.1 { g with sqNum := nextNum g.sqNum } } }).gooseFrame r.1 none
      else s.gooseChange r.1 vals s.now (!s.timeSync) none) s

/-- The module acts in the active role from an instant on (R390, R427). -/
def State.takeOver (code old cause : Nat) (t : Fine) (s : State) : State :=
  let s := s.modPair fun p =>
    { p with role := .active, activeFrom := none, transfer := none, predriven := false, reqTransfer := false, readySince := none
             sent := [] }
  let s := if old = 2 then { s with ev := { s.ev with nextSeq := s.pair.lastSeq + 4096 } } else s
  let s := s.evRole code old 1 cause s.pair.epoch t
  (s.gooseTakeover).outputs

/-- At the start of a basic cycle, a demotion or a granted role that is due. -/
def State.roleCycle (t : Fine) (s : State) : State :=
  let s := if s.pair.demoteAt.any fun a => a ≤ t then s.demote 0x09 s.pair.cause t else s
  if s.pair.role == .active && s.pair.activeFrom.any fun a => a ≤ t then
    s.takeOver 0x09 (if s.gaf.mode == .standby then 2 else 0) s.pair.cause t
  else s

/-- A demotion at the next basic cycle. -/
def State.demoteNext (cause : Nat) (s : State) : State :=
  if s.pair.role == .active && s.pair.demoteAt.isNone then
    s.modPair fun p => { p with demoteAt := some (cycleStart (nextCycle s.cycle)), cause }
  else s

/-- A GRANT (R427). -/
def State.granted (epoch : Nat) (s : State) : State :=
  if s.pair.role == .active || !(s.candidate || s.gaf.mode == .standby) then s
  else
    let next := cycleStart (nextCycle s.cycle)
    let from_ := if s.now + 150 * nsF ≤ next then next else next + 10000 * nsF
    (s.modPair fun p => { p with role := .active, epoch, activeFrom := some from_, cause := if s.gaf.mode == .standby then 1 else 2
                                 transfer := none, predriven := false }).requestRole .service

/-- 16 basic cycles. -/
def sixteen : Fine := 160000 * nsF

/-- A valid ARB frame at a module (R418, R422, R427, R429). -/
def State.arbFrame (f : ArbFrame) (s : State) : State :=
  if !s.isModule then s
  else if !f.crcOk then s.modPair fun p => { p with badFrames := satAdd 32 p.badFrames 1 }
  else
    let s := s.modPair fun p => { p with arbAt := s.now, arbLost := false, knownEpoch := max p.knownEpoch f.epoch }
    if !s.paired then s
    else
      let roleOnly (s : State) : State :=
        if s.pair.role == .active then (if f.role.val == 1 || s.pair.transfer.isSome then s else s.demoteNext 3)
        else if f.role.val == 2 then
          let s := s.modPair fun p => { p with role := .standby }
          if s.candidate then s.requestRole .standby else s
        else s
      match f.cmd.val with
      | 1 => s.granted f.epoch
      | 2 => s.demoteNext 3
      | 3 =>
        s.modPair fun p => { p with transfer := some (f.epoch, ctimeAt s.now f.atCycle), revAck := 2, reqTransfer := false }
      | 4 =>
        if s.pair.transfer.any fun t => s.now + sixteen < t.2 then
          let standbyReady := s.ready || s.pair.partner.any fun p => p.state.val == 3
          let s := s.modPair fun p => { p with transfer := none, predriven := false, byRevert := false
                                               readySince := p.readySince.map fun _ => s.now }
          s.revertFails (if standbyReady then 0xC02 else 0xC01)
        else s
      | _ => roleOnly s

/-- No valid ARB frame for 3 cycles (R422). -/
def State.arbGone (s : State) : State :=
  if !s.isModule || !s.paired || s.pair.arbLost || s.now < s.pair.arbAt + 30000 * nsF then s
  else
    let s := s.modPair fun p => { p with arbLost := true, arbLostAt := s.now }
    if s.pair.partner.isNone then s.demoteNext 4 else s

/-- No valid mirror frame for 3 cycles (R422). -/
def State.mirrorGone (s : State) : State :=
  if !s.isModule || !s.paired || s.now < s.pair.mirAt + 30000 * nsF then s
  else
    let s := s.modPair fun p => { p with partner := none, mirRun := 0 }
    if s.pair.arbLost then s.demoteNext 4 else s

/-- One mirrored item (R425): a module that does not hold the role applies it at its own time; both compare the identity. -/
def State.mirrorItem (s : State) (i : MirrorItem) : State :=
  let applies := s.gaf.mode == .standby && s.pair.role != .active
  match i with
  | .identity p =>
    let s := s.modPair fun q => { q with partner := some p, knownEpoch := max q.knownEpoch p.knownEpoch }
    if s.pair.arbLost && !p.arbLost && decide (s.pair.arbLostAt + 10000 * nsF ≤ s.now) then s.demoteNext 4 else s
  | .inst n st sweep =>
    if applies then s.modPair fun p => { p with insts := p.insts.put n st, swept := if sweep then n :: p.swept.filter (· != n) else p.swept }
    else s
  | .converter c st => if applies then s.modPair fun p => { p with converters := p.converters.put c.val st } else s
  | .logic t st => if applies then s.modPair fun p => { p with logic := p.logic.put t.val st } else s
  | .lane l st => if applies then s.modPair fun p => { p with lanes := p.lanes.put l.val st } else s
  | .numbers seq goose =>
    if applies then
      goose.foldl (fun s g =>
        let cb := s.eng.goose.get { } g.1
        { s with eng := { s.eng with goose := s.eng.goose.put g.1 { cb with stNum := g.2.stNum, sqNum := g.2.sqNum, sent := g.2.sent } } })
        (s.modPair fun p => { p with lastSeq := seq })
    else s

/-- A mirror frame (R423 to R425). -/
def State.mirrorFrame (crcOk : Bool) (items : List MirrorItem) (s : State) : State :=
  if !s.mirrors || !crcOk then s
  else
    let c := cycleNum s.cycle
    let s := s.modPair fun p =>
      { p with mirAt := s.now, mirCycle := c, mirRun := if p.mirCycle = c then max 1 p.mirRun else if p.mirCycle + 1 = c then p.mirRun + 1 else 1 }
    items.foldl State.mirrorItem s

/-- Mirrored instance states enter the checkpoints of the first tick that starts after they came (R425). -/
def State.takeInsts (k : Nat × Nat) (s : State) : State :=
  let before := subTicks s.rate k 1
  let s := s.pair.insts.foldl (fun s i =>
    s.modInst i.1 fun x => { x with hist := (before, i.2) :: x.hist.filter fun h => tickLt h.1 before }) s
  s.modPair fun p => { p with insts := [] }

/-! ### Revert and planned transfer (R429, R430) -/

/-- The preferred module has been READY for REVERT_HOLD. -/
def State.revertDueNow (s : State) : State :=
  if s.ready && s.isPreferred && bitOf (s.fld 0xC01 0 1 (·.u8 1)) 0 && !s.inhibited && !s.pair.reqTransfer && s.pair.transfer.isNone &&
      s.pair.readySince.any fun t => t + s.revertHold ≤ s.now then
    s.modPair fun p => { p with reqTransfer := true, byRevert := false }
  else s

/-- t_(AT-16): the incoming module drives its outputs. -/
def State.predrive (s : State) : State :=
  if s.isModule && s.pair.role != .active && s.pair.transfer.any fun t => t.2 ≤ s.now + sixteen then
    (s.modPair fun p => { p with predriven := true }).outputs
  else s

/-- CAUSE of EV_REVERT: 6 where the request is known to come from PAIR_REVERT, else 5 (log entry 84). -/
def State.revertCause (incoming : Bool) (s : State) : Nat :=
  if s.pair.byRevert || s.gaf.ops.any (·.wait == .pair) || s.isPreferred != incoming then 6 else 5

/-- t_AT: the roles change, and a waiting PAIR_REVERT completes. -/
def State.transferNow (s : State) : State :=
  match s.pair.transfer with
  | some (e, t) =>
    if !s.isModule || s.now < t then s
    else
      let was := s.pair.role == .active
      let cause := s.revertCause (!was)
      let s := s.modPair fun p => { p with byRevert := false, epoch := e }
      let s := if was then s.demote 0x0A cause t else (s.takeOver 0x0A 2 cause t).requestRole .service
      s.finishWaiting (fun o => o.wait == .pair) fun _ => (.ok, 0, packLe [(8, t / nsF), (4, e)])
  | none => s

/-- PAIR_REVERT (R430). -/
def State.pairRevert (op : Byte) (rsv : BitVec 24) (s : State) : State × Reply :=
  match firstBad [(0, within 1 3 op.toNat), (1, rsv == 0)] with
  | some o => (s, badAt o)
  | none =>
    if op = 1 then
      if !s.paired || !s.standbyReady then (s, noRes 0xC01)
      else (s.modPair fun p => { p with reqTransfer := true, byRevert := true }, .wait .pair)
    else (s.modPair fun p => { p with inhibit := op == 2 }, okNone)

end Sys2Proof.Machine
end

