-- ==== Sys2Proof/Machine/Arbiter.lean ====
section
/-!
DEFINITION. The arbiter function: reception of heartbeats, misses, decisions, ARB frames and selections (R415, R418 to R421, R428,
R429).
-/
namespace Sys2Proof.Machine

/-- The arbiter function runs (R415). -/
def State.arbRuns (s : State) : Bool := s.isArbiter && !s.part.inReset && s.fwRuns && s.gaf.mode != .boot

/-- Changes the arbiter. -/
def State.modArb (f : Arbiter → Arbiter) (s : State) : State := { s with arb := f s.arb }

/-- A module as the arbiter sees it: false A, true B. -/
def Arbiter.side (a : Arbiter) (x : Bool) : ArbSide := if x then a.b else a.a
/-- Changes what the arbiter holds of a module. -/
def Arbiter.modSide (x : Bool) (f : ArbSide → ArbSide) (a : Arbiter) : Arbiter := if x then { a with b := f a.b } else { a with a := f a.a }

/-- STATE of a module's last heartbeat, 0 where none has come. -/
def Arbiter.stateOf (a : Arbiter) (x : Bool) : Nat := (a.side x).last.elim 0 (·.state.val)

/-- 50 ns. -/
def arbWindow : Fine := 50 * nsF

/-- ROLE for a module in its ordinary frame (R418, R420). -/
def Arbiter.roleOf (a : Arbiter) (x : Bool) : Fin 3 :=
  if a.holder == some x then 1
  else if a.holder.isSome && [2, 3, 4, 6].contains (a.stateOf x) then 2 else 0

/-- Sends an ARB frame to a module. -/
def State.arbSend (x : Bool) (cmd : Fin 5) (role : Fin 3) (epoch at_ : Nat) (s : State) : State :=
  s.emit (.arb x { cmd, role, epoch, atCycle := at_ })

/-- A heartbeat received (R416, R419). -/
def State.arbHeartbeat (x : Bool) (f : HbFrame) (s : State) : State :=
  if !s.arbRuns then s
  else if !f.crcOk then s.modArb fun a => { a with badFrames := satAdd 32 a.badFrames 1 }
  else s.modArb fun a =>
    let a := { a with issued := max a.issued f.epoch }
    a.modSide x fun e =>
      { e with last := some f, heardAt := some s.now, expect := some (e.expect.getD s.now)
               sinceAnn := e.sinceAnn + 1, acks := e.acks + b2n f.revAck }

/-- Whether the HB expected of a module counts as missed (R419). -/
def Arbiter.missed (a : Arbiter) (x : Bool) : Bool :=
  let e := a.side x
  match e.expect with
  | none => false
  | some t =>
    let heard := e.heardAt.any fun h => decide (t ≤ h + arbWindow ∧ h ≤ t + arbWindow)
    !heard || (a.holder == some x && !(e.last.any fun f => f.state.val == 4 && f.cmdOk))

/-- The expected instant of a module has passed by 50 ns: its miss is counted and the next one is set. -/
def Arbiter.count (x : Bool) (a : Arbiter) : Arbiter :=
  let miss := a.missed x
  a.modSide x fun e =>
    { e with misses := if miss then e.misses + 1 else 0, heardAt := none
             expect := e.expect.map fun t => (e.heardAt.getD t) + 10000 * nsF }

/-- The first cycle of the first matrix cycle that starts at least 48 basic cycles after the cycle of a heartbeat (R420). -/
def transferCycle (now : Fine) (f : HbFrame) : Fine := ceilTo (160000 * nsF) (ctimeAt now f.ctime.toNat + 480000 * nsF)

/-- The partner of a module. -/
def other (x : Bool) : Bool := !x

/-- After its own reset the arbiter adopts the role and epoch of a module that reports ACTIVE (R421). -/
def State.arbAdopt (s : State) : State :=
  let a := s.arb
  if a.holder.isSome then s
  else
    match [false, true].find? fun x => a.stateOf x == 4 with
    | some x =>
      let e := (a.side x).last.elim a.epoch (·.epoch)
      s.modArb fun a => { a with holder := some x, epoch := e, issued := max a.issued e, selDue := some (x, s.now + 40000 * nsF) }
    | none => s

/-- A GRANT with a new epoch (R420); the selection follows after SEL_DELAY (R428). -/
def State.arbGrant (x : Bool) (s : State) : State :=
  let e := s.arb.issued + 1
  (s.modArb fun a => { a with holder := some x, epoch := e, issued := e, transfer := none, selDue := some (x, s.now + 40000 * nsF)
                              a := { a.a with misses := 0 }, b := { a.b with misses := 0 } }).arbSend x 1 1 e 0

/-- The decision of R420: the first row that applies. -/
def State.arbDecision (s : State) : State :=
  let a := s.arb
  match a.holder with
  | none =>
    let cands := [false, true].filter fun x => a.stateOf x == 6
    if s.now < a.startAt + 30000 * nsF then s
    else
      match cands with
      | [] => s
      | x :: rest =>
        let pref := (a.side x).last.any (·.preferred)
        let x := if rest.isEmpty then x else pref
        let s := s.arbGrant x
        let y := other x
        if a.stateOf y == 6 || a.stateOf y == 2 then s.arbSend y 0 2 s.arb.epoch 0 else s
  | some h =>
    let y := other h
    if 3 ≤ (a.side h).misses then
      if a.stateOf y == 3 then
        let s := s.modArb fun a => if h then { a with selB := false } else { a with selA := false }
        let s := s.arbGrant y
        s.arbSend h 2 2 s.arb.epoch 0
      else s
    else
      match a.transfer with
      | some (_, t) =>
        let noAck (x : Bool) : Bool := decide (2 ≤ (a.side x).sinceAnn) && (a.side x).acks == 0
        if s.now + sixteen < t && (noAck h || noAck y || 0 < (a.side h).misses || a.stateOf y != 3) then
          let s := s.modArb fun a => { a with transfer := none }
          (s.arbSend h 4 1 a.epoch 0).arbSend y 4 2 a.epoch 0
        else s
      | none =>
        match (a.side y).last with
        | some f =>
          if f.state.val == 3 && f.reqTransfer && (a.side h).misses == 0 then
            let e := a.issued + 1
            let t := transferCycle s.now f
            let reset (x : ArbSide) : ArbSide := { x with sinceAnn := 0, acks := 0 }
            let s := s.modArb fun a => { a with issued := e, transfer := some (e, t), a := reset a.a, b := reset a.b }
            let ct := ctime (cycleOf t)
            (s.arbSend h 3 1 e ct).arbSend y 3 2 e ct
          else s
        | none => s

/-- Every E_X + 50 ns that has passed (R419, R420): misses, adoption, the decision, and the frame of the cycle. -/
def State.arbDecide (s : State) : State :=
  if !s.arbRuns then s
  else
    [false, true].foldl (fun s x =>
      if (s.arb.side x).expect.any fun t => t + arbWindow ≤ s.now then
        let s := ((s.modArb (Arbiter.count x)).arbAdopt).arbDecision
        s.arbSend x 0 (s.arb.roleOf x) s.arb.epoch 0
      else s) s

/-- A selection that is due is asserted (R428). -/
def State.selDelay (s : State) : State :=
  match s.arb.selDue with
  | some (x, t) =>
    if s.arbRuns && decide (t ≤ s.now) then
      s.modArb fun a => if x then { a with selB := true, selDue := none } else { a with selA := true, selDue := none }
    else s
  | none => s

/-- t_AT at the arbiter: the role and both selections change over (R428, R429). -/
def State.arbTransfer (s : State) : State :=
  match s.arb.transfer, s.arb.holder with
  | some (e, t), some h =>
    if s.arbRuns && decide (t ≤ s.now) then
      s.modArb fun a => { a with holder := some (other h), epoch := e, transfer := none, selA := h, selB := other h, selDue := none
                                 a := { a.a with misses := 0 }, b := { a.b with misses := 0 } }
    else s
  | _, _ => s

/-! ### Meanings -/

/-- ARB_HB_RX (R419). -/
def execArbHbRx (dt : Nat) (link : Fin 2) (f : HbFrame) (s : State) : Host.Outcome State Fault Refusal :=
  goOn dt (State.arbHeartbeat (link.val == 1) f) s

/-- ARB_DECIDE (R420). -/
def execArbDecide (dt : Nat) (s : State) : Host.Outcome State Fault Refusal := goOn dt State.arbDecide s

/-- SEL_DELAY_EXPIRY (R428). -/
def execSelDelayExpiry (dt : Nat) (s : State) : Host.Outcome State Fault Refusal := goOn dt State.selDelay s

end Sys2Proof.Machine
end

