-- ==== Sys2Proof/Machine/Placement.lean ====
section
/-!
DEFINITION. Placement (R245 to R266, R496): the figures of an instance, the limits of an engine, the choice of engines, the full
and the incremental placement, refusals, and the boot check of R460.
-/
namespace Sys2Proof.Machine

/-! ### Records (R248) -/

/-- The records INSTANCE_BUDGET, CLASS_BUDGET and PLACE_POLICY; `cd` is the number of this device. -/
def placeSpec (l : Bool) (cd : Nat) (rtype obj : Nat) (b : Bytes) : Option RecSpec :=
  let lofsOk := b.u32 0 == 0 || within 50000 4000000 (b.u32 0)
  match rtype with
  | 0x601 => some (fixedRec 8 [(0, lofsOk), (4, onlyBits 0xF (b.u8 4)), (5, zeroAt b 5 3)] (obj < numInsts l)
      (if onlyBits (2 ^ cd) (b.u8 4) then [] else [5]))
  | 0x602 => some (fixedRec 8 [(0, lofsOk), (4, zeroAt b 4 4)] (obj ≤ 3))
  | 0x603 => some (fixedRec 0x10
      [(0, within 300 700 (b.u16 0)), (2, zeroAt b 2 6), (8, b.u64 8 < 2 ^ numEngines l)] (obj = 0))
  | _ => none

/-- An INSTANCE_BUDGET belongs to an instance (R248). -/
def placeCross (rs : List Rec) : Option CommitErr :=
  ((recsOf rs 0x601).find? fun r => (recIn rs 0x501 r.1).isNone).map fun r => .object 0x601 r.1

/-! ### Figures of an instance (R210, R249, R250, R252) -/

/-- What placement knows of an instance. -/
structure Fig where
  n : Nat
  ftype : Nat
  pclass : Nat
  single : Bool
  cost : Nat
  local_ : Nat
  parts : Nat
  stage : Nat
  maxLofs : Nat
  mask : Nat
  /-- Class A and G inputs: the device on which each is received, and its release bound there. -/
  inputs : List (Nat × Nat)
  /-- The device that holds the group of a class G input; 4 where no device does. -/
  group : Option Nat

/-- What a placement reads (R246). -/
structure PlaceInput where
  recs : List Rec
  rate : Nat
  l : Bool
  /-- The device that places, and the devices of the ring; it alone outside a cascade. -/
  cd : Nat
  devs : List Nat
  /-- Retired engines, as a mask, by device. -/
  retired : Table Nat

/-- The device on which an input is received (log entry 90). -/
def PlaceInput.home (p : PlaceInput) (kind index : Nat) : Nat :=
  if p.devs.length ≤ 1 then p.cd else Config.inputHome kind index % p.devs.length

/-- T_MIN (R249). -/
def tMinOf (rate : Nat) : Nat := if rate = 14400 then 69444 else 208333

/-- The effective settings of an instance in a list of records. -/
def valsOf (rs : List Rec) (n : Nat) : Table U32 := (recIn rs 0x502 n).elim [] setEntries

/-- Nominal sample rate of an acquisition channel's link, and the channel's chain. -/
def chanRate (rs : List Rec) (ch : Nat) : Option (Nat × ChainPar) :=
  match recIn rs 0x402 ch with
  | some b => (recIn rs 0x401 (b.u8 0)).map fun k => (max 1 (k.u32 8), chainPar b)
  | none => none

/-- Outputs of a channel in one tick at most (log entry 91). -/
def outsPerTick (rs : List Rec) (rate ch : Nat) : Nat :=
  match chanRate rs ch with
  | some (fs, p) => ceilDiv fs (max 1 p.r * rate)
  | none => 1

/-- The release bound of one slot on the device that receives its input (R252). -/
def slotBound (rs : List Rec) (rate : Nat) (x : InSlot) : Nat :=
  match x.kind with
  | 0 =>
    match recIn rs 0x302 x.index with
    | some c => (recIn rs 0x301 (c.u16 0)).elim 0 fun b => svDeadline b rate / nsF
    | none => 0
  | 1 =>
    match chanRate rs x.index with
    | some (fs, p) => tMinOf rate + 1 + ceilDiv ((2 * p.r + p.delay2) * 1000000000) (2 * fs) + 2000
    | none => 0
  | 2 => 1000
  | _ => 0

/-- LEN of a group. -/
def groupLen (rs : List Rec) (g : Nat) : Nat := (recIn rs 0x403 g).elim 4096 fun b => b.u32 4 + b.u32 8

/-- Bytes of window staging of one execution (R250). -/
def stageBytes (rs : List Rec) (rate : Nat) (b : Bytes) (vals : Table U32) : Nat :=
  let n := ((slotsOf b).filter fun x => x.2.kind ≤ 1).length
  if b.u8 0 = 0x10 then
    let ch := (slotOf b 0).index
    let span := match chanRate rs ch with
      | some (fs, p) => ceilDiv ((Fp.roundInt (Fp.mul (setting 0x10 vals 7) (fpOf 10))).toNat * fs) (10000 * max 1 p.r)
      | none => 0
    2 * (outsPerTick rs rate ch + span) * n * 8
  else 2 * windowTicks rate b vals * n * 8

/-- The figures of an instance. -/
def figOf (p : PlaceInput) (n : Nat) (b : Bytes) : Fig :=
  let vals := valsOf p.recs n
  let ty := b.u8 0
  let ag := (slotsOf b).filter fun x => x.2.kind ≤ 2
  let bud := (recIn p.recs 0x601 n).getD []
  let cls := (recIn p.recs 0x602 (classOf b)).elim 0 (·.u32 0)
  { n, ftype := ty, pclass := classOf b, single := isSingle b
    cost := typeCost p.rate b vals (max 4096 (groupLen p.recs (slotOf b 0).index)) (outsPerTick p.recs p.rate (slotOf b 0).index)
    local_ := typeMem ty, parts := typeParts ty, stage := stageBytes p.recs p.rate b vals
    maxLofs := if bud.u32 0 = 0 then cls else bud.u32 0
    mask := bud.u8 4
    inputs := ag.map fun x => (p.home x.2.kind x.2.index, slotBound p.recs p.rate x.2)
    group := ((slotsOf b).find? fun x => x.2.kind == 2).map fun x =>
      if (recIn p.recs 0x403 x.2.index).isSome then p.home 2 x.2.index else 4 }

/-- Hops between two devices of a ring on the shorter way round. -/
def ringHops (n a b : Nat) : Nat :=
  let d := if a ≤ b then b - a else a - b
  min d (n - d)

/-- The release bound of an instance on a device (R252). -/
def Fig.release (nDev dev : Nat) (f : Fig) : Nat :=
  f.inputs.foldl (fun a x => max a (x.2 + 2000 * ringHops nDev x.1 dev)) 0

/-- The sort order of R254. -/
def figLe (a b : Fig) : Bool :=
  decide (a.pclass < b.pclass ∨ (a.pclass = b.pclass ∧ (b.cost < a.cost ∨ (a.cost = b.cost ∧ a.n ≤ b.n))))

/-! ### The limits (R249 to R253) -/

/-- A placement being made: executions pinned on each engine in their order, and executions placed now. -/
structure Work where
  p : PlaceInput
  bound : Nat
  free : Nat
  figs : Table Fig
  insts : Table PlacedInst := []
  pinned : Table (List Nat) := []
  fresh : Table (List Nat) := []

/-- The roles of R263, by code. -/
inductive PRole where
  | primary
  | twin
  | spare
  | single
  deriving DecidableEq

/-- ROLE of R263. -/
def PRole.code : PRole → Nat
  | .primary => 0
  | .twin => 1
  | .spare => 2
  | .single => 3

/-- Why a placement is refused, with the fields of R263. -/
structure PlaceFail where
  reason : Nat
  inst : Nat
  role : Nat
  device : Nat
  need : Nat
  best : Nat
  unit : Nat

/-- A figure of an instance by number. -/
def Work.fig (w : Work) (n : Nat) (f : Fig → Nat) : Nat := (w.figs.find? n).elim 0 f

/-- The release bound of an instance on a device. -/
def Work.rel (w : Work) (dev n : Nat) : Nat := (w.figs.find? n).elim 0 (Fig.release w.p.devs.length dev)

/-- The static order of an engine: pinned executions, then the others by release bound and sort order (R254, R256). -/
def Work.order (w : Work) (e : Nat) : List Nat :=
  let dev := e / 64
  let le (a b : Nat) : Bool :=
    decide (w.rel dev a < w.rel dev b) || (w.rel dev a == w.rel dev b &&
      match w.figs.find? a, w.figs.find? b with
      | some x, some y => figLe x y
      | _, _ => true)
  w.pinned.get [] e ++ sortBy le (w.fresh.get [] e)

/-- The instances that an engine spares. -/
def Work.spared (w : Work) (e : Nat) : List Nat :=
  (w.insts.filter fun x => x.2.device == e / 64 && x.2.spare == e % 64).map (·.1)

/-- The sum of a figure over executions, and the largest over instances spared. -/
def Work.sum (w : Work) (f : Fig → Nat) (ns : List Nat) : Nat := ns.foldl (fun a n => a + w.fig n f) 0
@[inherit_doc Work.sum] def Work.top (w : Work) (f : Fig → Nat) (ns : List Nat) : Nat := ns.foldl (fun a n => max a (w.fig n f)) 0

/-- EXEC_NS, RESERVE_NS and LOAD_NS (R249). -/
def Work.execNs (w : Work) (e : Nat) : Nat := w.sum (·.cost) (w.order e)
@[inherit_doc Work.execNs] def Work.reserve (w : Work) (e : Nat) : Nat := 2 * w.top (·.cost) (w.spared e)
@[inherit_doc Work.execNs] def Work.load (w : Work) (e : Nat) : Nat := w.execNs e + w.reserve e

/-- Executions in a cluster, with those of every engine of it. -/
def Work.clusterExecs (w : Work) (c : Nat) : List Nat := (List.range 8).flatMap fun i => w.order (8 * c + i)

/-- The demand of an engine, or of its cluster, under a limit of R250. -/
def Work.demand (w : Work) (e : Nat) : Nat → Nat
  | 0x601 => w.load e
  | 0x603 => 1024 * (w.sum (·.local_) (w.order e) + w.top (·.local_) (w.spared e))
  | 0x604 => w.sum (fun f => 512 * f.local_) (w.clusterExecs (e / 8))
  | 0x605 => w.sum (·.stage) (w.clusterExecs (e / 8))
  | _ => w.sum (·.parts) (w.order e) + 2 * w.top (·.parts) (w.spared e)

/-- The limits of R249 and R250. -/
def Work.limit (w : Work) : Nat → Nat
  | 0x601 => w.bound
  | 0x603 => 240 * 1024
  | 0x604 => 960 * 1024
  | 0x605 => 1792 * 1024
  | _ => 64

/-- The first part of the order of R496. -/
def sumLimits : List Nat := [0x601, 0x603, 0x604, 0x605, 0x606]
/-- The engine or cluster that a refusal names under a limit. -/
def unitOf (e code : Nat) : Nat := if code = 0x604 || code = 0x605 then e % 64 / 8 else e % 64

/-- The worst finishes of an engine's executions in one tick (R253). -/
def Work.finishes (w : Work) (e : Nat) : List (Nat × Nat) :=
  ((w.order e).foldl (fun (a : Nat × List (Nat × Nat)) n =>
    let t := max a.1 (w.rel (e / 64) n) + w.fig n (·.cost)
    (t, a.2 ++ [(n, t)])) (0, [])).2

/-- The worst finish of an instance on one of its engines; 0 where it has none. -/
def Work.finishOn (w : Work) (dev eng n : Nat) : Nat :=
  if eng = 255 then 0 else (w.finishes (64 * dev + eng)).foldl (fun a x => if x.1 == n then x.2 else a) 0

/-- LOFS of a paired instance (R253). -/
def Work.lofs (w : Work) (n : Nat) : Nat :=
  let x := w.insts.get { } n
  ceilDiv (max (w.finishOn x.device x.primary n) (w.finishOn x.device x.twin n) + 10000) 1000 * 1000

/-- The first rule of R253 that an engine breaks: its code, the amount and what is admitted. -/
def Work.timing (w : Work) (e : Nat) : Option (Nat × Nat × Nat) :=
  let fs := w.finishes e
  let late := fs.find? fun x =>
    !(w.insts.get { } x.1).single && w.fig x.1 (·.maxLofs) != 0 && w.fig x.1 (·.maxLofs) < w.lofs x.1
  match late with
  | some x => some (0x607, w.lofs x.1, w.fig x.1 (·.maxLofs))
  | none =>
    let low := fs.foldl (fun (a : Option Nat) x => some (a.elim (w.rel (e / 64) x.1) fun m => min m (w.rel (e / 64) x.1))) none
    match fs.getLast?, low with
    | some x, some m => if tMinOf w.p.rate + m < x.2 then some (0x60A, x.2, tMinOf w.p.rate + m) else none
    | _, _ => none

/-- The first limit that an engine breaks as it stands: code, demand, limit. -/
def Work.broken (w : Work) (e : Nat) : Option (Nat × Nat × Nat) :=
  match sumLimits.find? fun c => w.limit c < w.demand e c with
  | some c => some (c, w.demand e c, w.limit c)
  | none => w.timing e

/-! ### The choice of engines (R251, R254, R496) -/

/-- Gives an instance an engine in a role. `pin` puts the execution behind the pinned ones. -/
def Work.attach (w : Work) (n dev eng : Nat) (role : PRole) (pin : Bool := false) : Work :=
  let x := { w.insts.get { } n with device := dev }
  let e := 64 * dev + eng
  let x := match role with
    | .primary | .single => { x with primary := eng }
    | .twin => { x with twin := eng }
    | .spare => { x with spare := eng }
  let w := { w with insts := w.insts.put n x }
  if role = .spare then w
  else if pin then { w with pinned := w.pinned.put e (w.pinned.get [] e ++ [n]) }
  else { w with fresh := w.fresh.put e (w.fresh.get [] e ++ [n]) }

/-- The usable engines of a device (R246, R248): provided, not retired and not kept free. -/
def Work.usable (w : Work) (dev : Nat) : List Nat :=
  (List.range (numEngines w.p.l)).filter fun e => !bitOf (w.p.retired.get 0 dev) e && !bitOf w.free e

/-- Tries an engine in a role: the placement with it, or the limit that it breaks with NEED and BEST (R496). -/
def Work.tryOn (w : Work) (n dev eng : Nat) (role : PRole) : Except (Nat × Nat × Nat) Work :=
  let e := 64 * dev + eng
  let w' := w.attach n dev eng role
  let codes := if role = .spare then [0x601, 0x603, 0x606] else sumLimits
  match codes.find? fun c => w.limit c < w'.demand e c with
  | some c => .error (c, w'.demand e c - w.demand e c, w.limit c - w.demand e c)
  | none =>
    match if role = .spare then none else w'.timing e with
    | some f => .error f
    | none => .ok w'

/-- The place of a limit in the order of R496. -/
def limitRank (code : Nat) : Nat := ([0x601, 0x603, 0x604, 0x605, 0x606, 0x607, 0x60A].idxOf code)

/-- The refusal that the failures of all candidates give (R496): the limit furthest along, and the candidate that admitted most. -/
def refusalOf (n dev : Nat) (role : PRole) (fails : List (Nat × Nat × Nat × Nat)) : PlaceFail :=
  let code := fails.foldl (fun a f => if limitRank a < limitRank f.2.1 then f.2.1 else a) 0x601
  let cand := (fails.filter fun f => f.2.1 == code).foldl
    (fun (a : Option (Nat × Nat × Nat × Nat)) f => match a with
      | none => some f
      | some g => if g.2.2.2 < f.2.2.2 || (g.2.2.2 == f.2.2.2 && unitOf f.1 code < unitOf g.1 code) then some f else some g) none
  let f := cand.getD (0, code, 0, 0)
  { reason := code, inst := n, role := role.code, device := dev, need := f.2.2.1, best := f.2.2.2, unit := unitOf f.1 code }

/-- CLUSTER_SPREAD (R496). -/
def Work.spread (w : Work) (n dev : Nat) (role : PRole) : PlaceFail :=
  let ok := (w.usable dev).filter fun e => match w.tryOn n dev e role with
    | .ok _ => true
    | .error _ => false
  { reason := 0x602, inst := n, role := role.code, device := dev, need := 3, best := ((ok.map (· / 8)).eraseDups).length, unit := 255 }

/-- The first candidate that fits, or every failure. -/
def Work.tryAll (w : Work) (n dev : Nat) (role : PRole) : List Nat → List (Nat × Nat × Nat × Nat) →
    Except (List (Nat × Nat × Nat × Nat)) Work
  | [], fails => .error fails
  | e :: es, fails =>
    match w.tryOn n dev e role with
    | .ok w' => .ok w'
    | .error f => w.tryAll n dev role es (fails ++ [(e, f)])

/-- The engine of a role by the rule of R254: lowest LOAD_NS, for a spare after its reserve has grown, ties to the lower number. -/
def Work.choose (w : Work) (n dev : Nat) (role : PRole) (avoid : List Nat) : Except PlaceFail Work :=
  let key (e : Nat) : Nat :=
    let k := 64 * dev + e
    if role = .spare then w.execNs k + max (w.reserve k) (2 * w.fig n (·.cost)) else w.load k
  let cands := (w.usable dev).filter fun e => !avoid.contains (e / 8)
  if cands.isEmpty then .error (w.spread n dev role)
  else
    let keyed := cands.map fun e => (key e, e)
    let sorted := (sortBy (fun a b => decide (a.1 < b.1 ∨ (a.1 = b.1 ∧ a.2 ≤ b.2))) keyed).map (·.2)
    match w.tryAll n dev role sorted [] with
    | .ok w' => .ok w'
    | .error fails => .error (refusalOf n dev role fails)

/-- The cluster of an engine role, if it has one. -/
def clusterOf (eng : Nat) : List Nat := if eng = 255 then [] else [eng / 8]

/-- Places every role that a paired instance lacks, or the engine of a single-run one, on its device (R254, R259). -/
def Work.fill (w : Work) (n dev : Nat) : Except PlaceFail Work := do
  let x := w.insts.get { } n
  if x.single then
    if x.primary = 255 then w.choose n dev .single [] else return w
  else
    let w ← if x.primary = 255 then w.choose n dev .primary (clusterOf x.twin) else pure w
    let x := w.insts.get { } n
    let w ← if x.twin = 255 then w.choose n dev .twin (clusterOf x.primary) else pure w
    let x := w.insts.get { } n
    if x.spare = 255 then w.choose n dev .spare (clusterOf x.primary ++ clusterOf x.twin) else return w

/-- An instance on one device (R249, R251). -/
def Work.placeOn (w : Work) (f : Fig) (dev : Nat) : Except PlaceFail Work :=
  let w := { w with insts := w.insts.put f.n { single := f.single, ftype := f.ftype, device := dev } }
  if !f.single && ((w.usable dev).map (· / 8)).eraseDups.length < 3 then .error (w.spread f.n dev .primary)
  else w.fill f.n dev

/-- The permitted devices of an instance, those that hold most of its inputs first (R254). -/
def Work.devices (w : Work) (f : Fig) : List Nat :=
  let ok := w.p.devs.filter fun d => (f.mask == 0 || bitOf f.mask d) && f.group.all (· == d)
  let count (d : Nat) : Nat := (f.inputs.filter fun x => x.1 == d).length
  sortBy (fun a b => decide (count b < count a ∨ (count a = count b ∧ a ≤ b))) ok

/-- Tries devices in turn; the refusal is that of the last one. -/
def Work.tryDevices (w : Work) (f : Fig) (last : PlaceFail) : List Nat → Except PlaceFail Work
  | [] => .error last
  | d :: ds =>
    match w.placeOn f d with
    | .ok w' => .ok w'
    | .error e => w.tryDevices f e ds

/-- Places one instance (R254). -/
def Work.placeNew (w : Work) (f : Fig) : Except PlaceFail Work :=
  let ds := w.devices f
  let role := if f.single then 3 else 0
  if ds.isEmpty then .error { reason := 0x60C, inst := f.n, role, device := w.p.cd, need := 0, best := 0, unit := 255 }
  else if w.bound < f.cost then
    .error { reason := 0x609, inst := f.n, role, device := ds.getLast?.getD w.p.cd, need := f.cost, best := w.bound, unit := 255 }
  else w.tryDevices f { reason := 0x60C, inst := f.n, role, device := w.p.cd, need := 0, best := 0, unit := 255 } ds

/-- Places instances in order. -/
def Work.placeAll (w : Work) : List Fig → Except PlaceFail Work
  | [] => .ok w
  | f :: fs => do
    let w ← w.placeNew f
    w.placeAll fs

/-! ### Sample store (R120, R124, R156, R263) -/

/-- The longest window of any instance that reads a channel, in ticks. -/
def longestWindow (p : PlaceInput) (ch : Nat) : Nat :=
  (recsOf p.recs 0x501).foldl (fun a r =>
    if (slotsOf r.2).any fun x => x.2.kind == 0 && x.2.index == ch then max a (windowTicks p.rate r.2 (valsOf p.recs r.1)) else a) 0

/-- The least power of two from 256 that is not below `n`. -/
def ringSize (n : Nat) : Nat := ((List.range 16).map fun i => 2 ^ (8 + i)).find? (fun k => decide (n ≤ k)) |>.getD (2 ^ 23)

/-- Ring depths (R124); a ring in use is not made smaller (R256, R257). -/
def ringsOf (p : PlaceInput) (prev : Table Nat) : Table Nat :=
  (recsOf p.recs 0x302).map fun c => (c.1, max (ringSize (longestWindow p c.1 + 2)) (prev.get 0 c.1))

/-- Bytes that the groups need (R156). -/
def groupBytes (rs : List Rec) (g : Nat) (b : Bytes) : Nat :=
  let len := b.u32 4 + b.u32 8
  let ch := ((recsOf rs 0x402).filter fun c => c.2.u8 0xA == g).length
  b.u16 0 * (64 + ch * (40 + 4 * len + 4 * ceilDiv (ceilDiv len 64) 2))

/-- The limits of the sample store: the DETAIL of the refusal. -/
def storeFail (p : PlaceInput) (rings : Table Nat) : Option Nat :=
  let hist (d : Nat) : Nat := ((rings.filter fun r => p.home 0 r.1 == d).foldl (fun a r => a + 8 * r.2) 0)
  let grp (d : Nat) : Nat := (((recsOf p.recs 0x403).filter fun g => p.home 2 g.1 == d).foldl (fun a g => a + groupBytes p.recs g.1 g.2) 0)
  let store := 40 * 2 ^ 20
  if p.devs.any fun d => decide (store < hist d) then some 0x303
  else if p.devs.any fun d => decide (store < hist d + grp d) then some 0x401
  else none

/-! ### Full and incremental placement -/

/-- The figures of every instance. -/
def figsOf (p : PlaceInput) : Table Fig := (recsOf p.recs 0x501).map fun r => (r.1, figOf p r.1 r.2)

/-- The start of a placement. -/
def startWork (p : PlaceInput) : Work :=
  let pol := recIn p.recs 0x603 0
  { p, bound := tMinOf p.rate * pol.elim 700 (·.u16 0) / 1000, free := pol.elim 0 (·.u64 8), figs := figsOf p }

/-- A full placement (R254). -/
def fullWork (p : PlaceInput) : Except PlaceFail Work :=
  let w := startWork p
  w.placeAll (sortBy figLe w.figs.vals)

/-- The engine is there and not retired. -/
def Work.live (w : Work) (dev eng : Nat) : Bool := decide (eng < numEngines w.p.l) && !bitOf (w.p.retired.get 0 dev) eng

/-- Pins the instances `keep` of the placement in use on their live engines, in their static orders (R256). -/
def Work.pin (prev : Placement) (keep : Nat → Bool) (w : Work) : Work :=
  let role (dev eng : Nat) : Nat := if w.live dev eng then eng else 255
  let insts := (prev.insts.filter fun x => keep x.1).map fun x =>
    let f := x.2
    (x.1, { device := f.device, primary := role f.device f.primary, twin := role f.device f.twin, spare := role f.device f.spare
            ftype := w.fig x.1 (·.ftype), single := f.single, pinned := true, roleTaken := f.roleTaken, isNew := false })
  { w with insts
           pinned := (prev.orders.filter fun o => w.live (o.1 / 64) (o.1 % 64)).map fun o => (o.1, o.2.filter keep) }

/-- A figure of a pinned instance has risen (R257). -/
def Work.grown (w : Work) (old : PlacedInst) (n : Nat) : Bool :=
  w.fig n (·.ftype) != old.ftype || old.cost < w.fig n (·.cost) || old.local_ < w.fig n (·.local_) || old.parts < w.fig n (·.parts) ||
  old.stage < w.fig n (·.stage) || old.release < w.rel old.device n

/-- The demand of an instance itself under a limit, in a role. -/
def Work.own (w : Work) (n : Nat) (role : PRole) (code : Nat) : Option Nat :=
  let k := if role = .spare then 2 else 1
  match code with
  | 0x601 => some (k * w.fig n (·.cost))
  | 0x603 => some (1024 * w.fig n (·.local_))
  | 0x604 => if role = .spare then none else some (512 * w.fig n (·.local_))
  | 0x605 => if role = .spare then none else some (w.fig n (·.stage))
  | 0x606 => some (k * w.fig n (·.parts))
  | _ => none

/-- GROWTH of a pinned instance on one of its engines (R257, R496). -/
def Work.growth (w : Work) (n dev eng : Nat) (role : PRole) : Option PlaceFail :=
  if eng = 255 then none
  else (w.broken (64 * dev + eng)).map fun f =>
    let (need, best) := match w.own n role f.1 with
      | some o => (o, f.2.2 - (f.2.1 - o))
      | none => (f.2.1, f.2.2)
    let x : PlacedInst := w.insts.get { } n
    { reason := 0x60B, inst := n, role := (if x.single then PRole.single else role).code, device := dev, need, best
      unit := unitOf (64 * dev + eng) f.1 }

/-- The first pinned instance that has grown past a limit. -/
def Work.firstGrowth (w : Work) (prev : Placement) (keep : Nat → Bool) : Option PlaceFail :=
  ((prev.insts.filter fun x => keep x.1 && w.grown x.2 x.1).filterMap fun x =>
    let y := w.insts.get { } x.1
    ((w.growth x.1 y.device y.primary .primary).orElse fun _ => w.growth x.1 y.device y.twin .twin).orElse
      fun _ => w.growth x.1 y.device y.spare .spare).head?

/-- The spare that took a lost role permanently keeps it (R193, R259). `first` is the role it took, where that is known. -/
def Work.takeRole (w : Work) (prev : PlacedInst) (n : Nat) (tookTwin : Bool) : Work :=
  let x := w.insts.get { } n
  let lostP := x.primary = 255
  let lostT := x.twin = 255 && prev.twin != 255
  if x.single || x.spare = 255 || !(lostP || lostT) then w
  else
    let role := if lostT && (tookTwin || !lostP) then PRole.twin else PRole.primary
    let sp := x.spare
    let w := { w with insts := w.insts.put n { x with spare := 255, roleTaken := true } }
    w.attach n x.device sp role true

/-- The first pass of R259. -/
def Work.repair (w : Work) (prev : Placement) (took : Nat → Bool) : List Fig → Except PlaceFail Work
  | [] => .ok w
  | f :: fs => do
    let old := prev.insts.get { } f.n
    let w ← (w.takeRole old f.n (took f.n)).fill f.n old.device
    w.repair prev took fs

/-- An incremental placement (R256, R257, R259). `took` says of an instance whose role engine was retired that its spare took
the twin's role. -/
def incWork (p : PlaceInput) (prev : Placement) (took : Nat → Bool) : Except PlaceFail Work :=
  let w := startWork p
  let keep (n : Nat) : Bool := match prev.insts.find? n, w.figs.find? n with
    | some x, some f => x.single == f.single
    | _, _ => false
  let w := w.pin prev keep
  match w.firstGrowth prev keep with
  | some f => .error f
  | none =>
    let figs := sortBy figLe w.figs.vals
    let r := do
      let w ← w.repair prev took (figs.filter fun f => keep f.n)
      w.placeAll (figs.filter fun f => !keep f.n)
    match r with
    | .ok w => .ok w
    | .error e =>
      match fullWork p with
      | .ok _ => .error { e with reason := 0x608 }
      | .error _ => .error e

/-- The placement that a finished work stands for (R245, R253). `prev` is the placement that it was made over, if any. -/
def Work.result (w : Work) (rings : Table Nat) (prev : Option Placement) (replaced : Bool) : Placement :=
  let old (n : Nat) : Option PlacedInst := prev.bind fun p => p.insts.find? n
  let insts := w.insts.map fun x =>
    let n := x.1
    let y := x.2
    let lofs := if y.single then 0 else w.lofs n
    let o := old n
    let keepLofs := !replaced && y.pinned && !y.roleTaken && !y.single && o.any fun z => !w.grown z n
    (n, { y with
          cost := w.fig n (·.cost), local_ := w.fig n (·.local_), parts := w.fig n (·.parts), stage := w.fig n (·.stage)
          release := w.rel y.device n
          finish := w.finishOn y.device y.primary n, finishTwin := w.finishOn y.device y.twin n
          lofs := if keepLofs then o.elim lofs (·.lofs) else lofs
          isNew := o.isNone
          moved := !y.pinned && o.any fun z => (z.device, z.primary, z.twin, z.spare) != (y.device, y.primary, y.twin, y.spare) })
  let engs := w.p.devs.flatMap fun d => (List.range 64).map fun e => 64 * d + e
  { insts, rings, tMin := tMinOf w.p.rate, bound := w.bound, free := w.free
    orders := (engs.map fun e => (e, w.order e)).filter fun o => !o.2.isEmpty }

/-- What a placement assigns to instances and engines (R245). -/
def Placement.assigned (p : Placement) : List (List Nat) :=
  p.insts.map (fun x => [0, x.1, x.2.device, x.2.primary, x.2.twin, x.2.spare, x.2.lofs]) ++ p.orders.map (fun o => 1 :: o.1 :: o.2)

/-- A placement as lists of numbers. -/
def Placement.rows (p : Placement) : List (List Nat) :=
  p.assigned ++ p.rings.map fun r => [2, r.1, r.2]

/-- The records of R246. -/
def placeRecs (rs : List Rec) : List Rec := rs.filter fun r => within 3 6 (r.rtype / 256)

/-- A placement with its digests (R247). -/
def Placement.digested (p : PlaceInput) (prev : Option Placement) (pl : Placement) : Placement :=
  { pl with digest := crc32c (Config.placeBytes pl.rows)
            inputDigest := crc32c (Config.inputBytes (placeRecs p.recs) p.rate (b2n p.l) (prev.elim [] Placement.rows))
            proven := true }

/-- How a placement ends (R263): NO_RESOURCE with its DETAIL, or a refusal. -/
inductive PlaceEnd where
  | store (detail : Nat)
  | refused (f : PlaceFail)
  | placed (p : Placement)

/-- A placement (R254 to R259, R263). Without a placement in use, or with REPLACE, every instance is placed afresh. -/
def runPlacement (p : PlaceInput) (prev : Option Placement) (replace : Bool) (took : Nat → Bool) : PlaceEnd :=
  let rings := ringsOf p (if replace then [] else prev.elim [] (·.rings))
  match storeFail p rings with
  | some d => .store d
  | none =>
    let inc := if replace then none else prev
    match match inc with
      | some q => incWork p q took
      | none => fullWork p with
    | .error f => .refused f
    | .ok w => .placed ((w.result rings prev replace).digested p inc)

/-! ### Reports (R263, R265, R266) -/

/-- The 40 bytes of a refusal (R263). -/
def PlaceFail.data (f : PlaceFail) : Bytes :=
  packLe [(4, f.reason), (2, f.inst), (1, f.role), (1, f.device), (4, min f.need (2 ^ 32 - 1)), (4, min f.best (2 ^ 32 - 1)), (1, f.unit)] ++
  zeros 23

/-- The instances that an engine executes and those that it spares. -/
def Placement.execs (p : Placement) (dev eng : Nat) : List PlacedInst :=
  ((p.orders.get [] (64 * dev + eng)).filterMap fun n => p.insts.find? n)
@[inherit_doc Placement.execs] def Placement.spared (p : Placement) (dev eng : Nat) : List PlacedInst :=
  (p.insts.filter fun x => x.2.device == dev && x.2.spare == eng).map (·.2)

/-- EXEC_NS and RESERVE_NS of an engine in a placement (R249). -/
def Placement.execNs (p : Placement) (dev eng : Nat) : Nat := (p.execs dev eng).foldl (fun a x => a + x.cost) 0
@[inherit_doc Placement.execNs] def Placement.reserve (p : Placement) (dev eng : Nat) : Nat :=
  2 * (p.spared dev eng).foldl (fun a x => max a x.cost) 0

/-- UTIL of an engine: LOAD_NS/T_MIN per mille, rounded up (R265). -/
def Placement.util (p : Placement) (dev eng : Nat) : Nat := ceilDiv ((p.execNs dev eng + p.reserve dev eng) * 1000) (max 1 p.tMin)

/-- MAX_UTIL and WORST_LOFS (R265). -/
def Placement.maxUtil (p : Placement) : Nat :=
  (List.range 256).foldl (fun a k => max a (p.util (k / 64) (k % 64))) 0
@[inherit_doc Placement.maxUtil] def Placement.worstLofs (p : Placement) : Nat := p.insts.foldl (fun a x => max a x.2.lofs) 0

/-- The data of PLACE (R265). -/
def Placement.report (p : Placement) : Bytes :=
  let count (f : PlacedInst → Bool) : Nat := (p.insts.filter fun x => f x.2).length
  packLe [(4, p.digest.toNat), (4, p.inputDigest.toNat), (2, p.insts.length), (2, count (·.isNew)), (2, count (·.moved)),
    (2, p.maxUtil), (4, p.worstLofs)] ++ zeros 20

/-- An instance entry of PLACEMENT_GET (R266). -/
def PlacedInst.entry (n : Nat) (x : PlacedInst) : Bytes :=
  packLe [(2, n), (1, x.ftype), (1, x.device), (1, x.primary), (1, x.twin), (1, x.spare),
    (1, b2n x.pinned + 2 * b2n x.moved + 4 * b2n x.single + 8 * b2n x.roleTaken), (4, x.cost), (4, x.release), (4, x.finish),
    (4, if x.single then 0 else x.finishTwin), (4, x.lofs), (2, x.local_), (2, 0)]

/-- An engine entry of PLACEMENT_GET (R266). -/
def Placement.engEntry (p : Placement) (dev eng : Nat) (retired : Bool) : Bytes :=
  let ex := p.execs dev eng
  let sp := p.spared dev eng
  let fin := ex.foldl (fun a x => max a (if x.primary = eng then x.finish else x.finishTwin)) 0
  packLe [(1, eng), (1, eng / 8), (1, dev), (1, if retired then 1 else if bitOf p.free eng then 2 else 0), (4, p.execNs dev eng),
    (4, p.reserve dev eng), (2, p.util dev eng),
    (2, ex.foldl (fun a x => a + x.parts) 0 + 2 * sp.foldl (fun a x => max a x.parts) 0),
    (2, ex.foldl (fun a x => a + x.local_) 0 + sp.foldl (fun a x => max a x.local_) 0), (2, ex.length), (2, sp.length), (2, 0),
    (4, fin), (4, 0)]

/-! ### The boot check (R460) -/

/-- Every placed instance has its roles on live engines, in three clusters where it is paired (R251). -/
def Work.rolesOk (w : Work) (dev : Nat) (x : PlacedInst) : Bool :=
  if x.single then w.live dev x.primary
  else w.live dev x.primary && w.live dev x.twin && w.live dev x.spare &&
    [x.primary / 8, x.twin / 8, x.spare / 8].eraseDups.length == 3

/-- A stored placement keeps the limits of R249 to R253 for the records it is stored with. -/
def storedOk (p : PlaceInput) (pl : Placement) : Bool :=
  let w := startWork p
  let own := pl.insts.filter fun x => x.2.device == p.cd
  let w' := w.pin pl fun n => (w.figs.find? n).isSome
  pl.proven && pl.insts.keys == sortBy (fun a b => decide (a ≤ b)) w.figs.keys &&
  (storeFail p (ringsOf p pl.rings)).isNone && pl.tMin == tMinOf p.rate &&
  own.all (fun x => w.rolesOk p.cd x.2 && w.fig x.1 (fun f => b2n f.single) == b2n x.2.single && decide (w.fig x.1 (·.cost) ≤ w.bound)) &&
  (List.range (numEngines p.l)).all fun e => (w'.broken (64 * p.cd + e)).isNone

end Sys2Proof.Machine
end

