-- ==== Sys2Proof/Machine/Cross.lean ====
section
/-!
DEFINITION. What a commit checks across records (R74, R263): every family's rules, in one order.
-/
namespace Sys2Proof.Machine

/-- The first of several findings. -/
def firstOf : List (Option CommitErr) → Option CommitErr
  | [] => none
  | some e :: _ => some e
  | none :: es => firstOf es

/-- The first record of a type that fails, with its object. -/
def failing (rs : List Rec) (rtype off : Nat) (bad : Nat → Bytes → Bool) : Option CommitErr :=
  ((recsOf rs rtype).find? fun r => bad r.1 r.2).map fun r => .field rtype r.1 off

/-- Trackers: their SV channels exist (R123), and an acquisition source has 100,000 outputs a second (R111). -/
def timeCross (rs : List Rec) : Option CommitErr :=
  let chs (b : Bytes) : List Nat := [b.u16 4, b.u16 6, b.u16 8]
  let ok (b : Bytes) (ch : Nat) : Bool :=
    if b.u8 0 = 0 then (recIn rs 0x302 ch).isSome
    else (chanRate rs ch).any fun x => x.1 == 100000 * x.2.r
  firstOf ((recsOf rs 0x207).map fun r => ((List.range 3).find? fun i => !(ok r.2 ((chs r.2).getD i 0))).map fun i =>
    .field 0x207 r.1 (4 + 2 * i))

/-- Streams and SV channels (R123); of two that collide, the one with the higher object number is named. -/
def svCross (rs : List Rec) : Option CommitErr :=
  let sts := recsOf rs 0x301
  let chs := recsOf rs 0x302
  let key (b : Bytes) : Bytes := Bytes.slice b 0 8 ++ [BitVec.ofNat 8 (b.u8 0x24)] ++ Bytes.slice b 0x30 128
  let floor (b : Bytes) : Nat := ceilDiv ((b.u8 0xC - 1) * 1000000000) (max 1 (b.u16 0xA)) + 20000
  firstOf
    [failing rs 0x301 0 fun n b => sts.any fun r => decide (r.1 < n) && key r.2 == key b,
     failing rs 0x301 0x14 fun _ b => decide (b.u32 0x14 < floor b),
     failing rs 0x302 0 fun _ b => (recIn rs 0x301 (b.u16 0)).isNone,
     failing rs 0x302 2 fun _ b => (recIn rs 0x301 (b.u16 0)).any fun st => st.u8 0xD ≤ b.u8 2,
     failing rs 0x302 2 fun n b => chs.any fun r => decide (r.1 < n) && r.2.u16 0 == b.u16 0 && r.2.u8 2 == b.u8 2]

/-- The limits of R120. -/
def svLimits (l : Bool) (rs : List Rec) : Option CommitErr :=
  let units := (recsOf rs 0x301).foldl (fun a r => a + if r.2.u16 0xA = 14400 then 8 else 3) 0
  if pick l 1536 768 < units then some (.noRes 0x0301)
  else if pick l 4096 2048 < (recsOf rs 0x302).length then some (.noRes 0x0302)
  else none

/-- Groups and their channels (R155, R167). -/
def acqCross (rs : List Rec) : Option CommitErr :=
  let members (g : Nat) : List (Nat × Bytes) := (recsOf rs 0x402).filter fun r => r.2.u8 0xA == g
  let rate (ch : Nat) : Option (Nat × Nat) := (chanRate rs ch).map fun x => (x.1, x.2.r)
  let same (a b : Option (Nat × Nat)) : Bool :=
    match a, b with
    | some x, some y => x.1 * y.2 == y.1 * x.2
    | none, none => true
    | _, _ => false
  let early (g : Nat) (b : Bytes) : Bool := bitOf (b.u8 3) 1 && (members g).any fun m =>
    (chanRate rs m.1).any fun x => decide (b.u32 4 * x.2.r * 1000000000 < 400 * x.1)
  firstOf
    [failing rs 0x403 0 fun g _ => (members g).isEmpty,
     failing rs 0x402 0xA fun n b => b.u8 0xA != 0xFF && !(same (rate n) (((members (b.u8 0xA)).head?).elim none fun m => rate m.1)),
     failing rs 0x403 4 early]

/-- The instance of a number runs single. -/
def singleIn (rs : List Rec) (n : Nat) : Bool := (recIn rs 0x501 n).any isSingle

/-- Instances: their SV channels exist (R123), a paired one reads no OUTBITS of a single-run one (R194), the channels of a DC_LINE
have one rate in its range (R242), and settings agree with one another (R222). -/
def instCross (rs : List Rec) : Option CommitErr :=
  let slotBad (b : Bytes) (x : InSlot) : Bool :=
    (x.kind == 0 && (recIn rs 0x302 x.index).isNone) ||
    (x.kind == 3 && x.sub ≤ 31 && !isSingle b && singleIn rs x.index)
  let outRate (ch : Nat) : Option (Nat × Nat) := (chanRate rs ch).map fun x => (x.1, max 1 x.2.r)
  let dcBad (b : Bytes) : Bool := b.u8 0 == 0x10 &&
    match outRate (slotOf b 0).index, outRate (slotOf b 1).index with
    | some x, some y => x.1 * y.2 != y.1 * x.2 || decide (x.1 < 100000 * x.2) || decide (25000000 * x.2 < x.1)
    | _, _ => true
  firstOf
    [firstOf ((recsOf rs 0x501).map fun r => ((slotsOf r.2).find? fun x => slotBad r.2 x.2).map fun x => .field 0x501 r.1 (8 + 4 * x.1)),
     failing rs 0x501 8 fun _ b => dcBad b,
     ((recsOf rs 0x502).find? fun r => (recIn rs 0x501 r.1).isNone).map fun r => .object 0x502 r.1,
     ((recsOf rs 0x503).find? fun r => (recIn rs 0x501 r.1).isNone).map fun r => .object 0x503 r.1]

/-- Settings that do not agree with one another (R222, R231, R235); `sent` gives the entries as they were sent for an instance. -/
def settingsCross (rs : List Rec) (sent : Nat → List Nat) : Option CommitErr :=
  firstOf ((recsOf rs 0x501).map fun r =>
    (settingsAgree (r.2.u8 0) (valsOf rs r.1)).map fun nos =>
      let es := sent r.1
      let at_ := (nos.filterMap fun n => es.idxOf? n).head?
      .field 0x502 r.1 (at_.elim 8 fun i => 8 + 8 * i))

/-- Publication (R194, R196, R197, R201). -/
def pubCross (rs : List Rec) : Option CommitErr :=
  let ms := recsOf rs 0x5F1
  let kindBad (b : Bytes) : Bool :=
    match recIn rs 0x501 (b.u16 0) with
    | some i => (b.u8 2 == 0 && !typeHasBit (i.u8 0) (b.u8 3)) || (b.u8 2 == 1 && !typeHasVal (i.u8 0) (b.u8 3))
    | none => true
  let prot (cb : Nat) : Bool := (recIn rs 0x5F0 cb).any fun b => bitOf (b.u8 0xB) 0
  let encs (cb : Nat) (b : Bytes) : List Nat := (List.range (b.u16 0xE)).map fun m =>
    match recIn rs 0x5F1 (cb * 128 + m) with
    | some x => x.u8 4
    | none => ((outputsTo rs 1 (cb * 128 + m)).head?).elim 4 fun o => o.2.u8 1
  let pmuBad (rate inst : Nat) : Bool :=
    match recIn rs 0x501 inst with
    | some b => b.u8 0 != 1 || (setting 1 (valsOf rs inst) 2).toNat != rate
    | none => true
  firstOf
    [failing rs 0x5F1 3 fun _ b => kindBad b,
     failing rs 0x5F1 0 fun m b => prot (m / 128) && singleIn rs (b.u16 0),
     failing rs 0x5F0 0xE fun cb b => decide (1518 < gooseFrameMax b (encs cb b)),
     firstOf ((recsOf rs 0x5F2).map fun r => ((List.range (r.2.u8 0xC)).find? fun i => pmuBad (r.2.u16 2) (r.2.u16 (0x14 + 4 * i))).map
       fun i => .field 0x5F2 r.1 (0x14 + 4 * i)),
     if 4096 < ms.length then some (.noRes 0x05F0) else none]

/-- A finding as record and offset. -/
def asField (x : Option (Nat × Nat × Nat)) : Option CommitErr := x.map fun e => .field e.1 e.2.1 e.2.2

/-- A change of TABLE_ID of a lane that carries hubs of a converter that is not blocked (R327). -/
def State.tableErr (rs : List Rec) (s : State) : Option CommitErr :=
  let moved (n : Nat) : Bool :=
    match s.laneRec n, recIn rs 0x801 n with
    | some a, some b => tableId s.cfg a != tableId rs b
    | _, _ => false
  if (List.range 24).any fun n => moved n && (s.laneConvs n).any fun c => !(s.cv c).latched then some (.noRes 0x0802) else none

/-- The lattice rate of a configuration (R110). -/
def latticeOf (rs : List Rec) : Nat := (recIn rs 0x201 0).elim 4800 (·.u16 0)

/-- Every check of a commit across records, before the limits of the sample store and placement (R263). -/
def State.crossErr (rs : List Rec) (sent : Nat → List Nat) (s : State) : Option CommitErr :=
  let l := s.isL
  let rate := latticeOf rs
  firstOf [svCross rs, acqCross rs, timeCross rs, instCross rs, settingsCross rs sent, pubCross rs, placeCross rs,
    asField (convCross rs (singleIn rs)), asField (valveCross rs), logicCross rate rs (singleIn rs), netCross l rate rs, eventCross rs,
    pairCross s.redun rs, svLimits l rs, if convTooMany l rs then some (.noRes 0x0701) else none, s.tableErr rs]

end Sys2Proof.Machine
end

