-- ==== Sys2Proof/Machine/Power.lean ====
section
/-!
DEFINITION. Rail monitors, the target of shedding, the actions of its stages and recovery (R439 to R448).
-/
namespace Sys2Proof.Machine

/-- Layout and checks of the SHED record (R448). -/
def shedSpec (rtype obj : Nat) (b : Bytes) : Option RecSpec :=
  match rtype with
  | 0xD01 => some (fixedRec 8 [(0, within 1 5 (b.u8 0)), (1, b.u8 1 == 0), (2, decide (b.u16 2 ≤ 1000)), (4, decide (b.u16 4 ≤ 1000)),
      (6, within 10 60000 (b.u16 6))] (obj == 0))
  | _ => none

/-- PWR_WARN_STAGE, WARN_DWELL, SHED_DWELL and RECOVER_HOLD (R448). -/
def State.warnStage (s : State) : Nat := s.fld 0xD01 0 3 (·.u8 0)
@[inherit_doc State.warnStage] def State.warnDwell (s : State) : Fine := s.fld 0xD01 0 5 (·.u16 2) * 1000000 * nsF
@[inherit_doc State.warnStage] def State.shedDwell (s : State) : Fine := s.fld 0xD01 0 2 (·.u16 4) * 1000000 * nsF
@[inherit_doc State.warnStage] def State.recoverHold (s : State) : Fine := s.fld 0xD01 0 1000 (·.u16 6) * 1000000 * nsF

/-! ### Monitors (R441, R442) -/

/-- The level stands 2 % of nominal on the safe side of the threshold that set the band. -/
def Rail.safeSide (i : Nat) (r : Rail) (level : Nat) : Bool :=
  let h := railNominal i * 2 / 100
  if r.overV then decide (level + h ≤ railThreshold i 3)
  else decide (railThreshold i (r.band - 1) + h ≤ level)

/-- One sample of a rail at an instant (R442). -/
def Rail.sample (i : Nat) (now : Fine) (level : Nat) (r : Rail) : Rail :=
  let runs := (List.range 4).map fun k => if beyond i k level then r.runs.getD k 0 + 1 else 0
  let crossed (k : Nat) : Bool := decide (4 ≤ runs.getD k 0)
  let to_ := if crossed 2 || crossed 3 then 3 else if crossed 1 then 2 else if crossed 0 then 1 else 0
  let r := { r with level, runs, sum := r.sum + level, n := r.n + 1, min := if r.n = 0 then level else Min.min r.min level }
  let r :=
    if r.band < to_ then { r with band := to_, overV := crossed 3 && !crossed 2, safe := 0 }
    else if r.band = 0 then { r with safe := 0 }
    else
      let safe := if r.safeSide i level then r.safe + 1 else 0
      if 4 ≤ safe then { r with band := r.band - 1, overV := false, safe := 0 } else { r with safe }
  { r with since1 := if r.band = 0 then none else some (r.since1.getD now)
           since2 := if r.band < 2 then none else some (r.since2.getD now) }

/-- The stage that a monitor demands (R444). -/
def Rail.demand (r : Rail) (now warnDwell shedDwell : Fine) : Nat :=
  match r.band with
  | 0 => 0
  | 1 => if r.since1.any fun t => t + warnDwell ≤ now then 2 else 1
  | 2 => if r.since2.any fun t => t + shedDwell ≤ now then 4 else 3
  | _ => 5

/-- What each monitor demands, with its TRIGGER number; PWR_WARN comes last. -/
def State.demands (s : State) : List (Nat × Nat) :=
  (s.pwr.rails.zipIdx.map fun r => (r.2, r.1.demand s.now s.warnDwell s.shedDwell)) ++ [(0xFF, if s.pwr.warn then s.warnStage else 0)]

/-! ### Stages (R444 to R446) -/

/-- LEVEL of EV_SHED_STAGE: the level of the rail named, 0 for PWR_WARN. -/
def State.railLevel (s : State) (i : Nat) : Nat := (s.pwr.rails[i]?).elim 0 (·.level)

/-- EV_SHED_STAGE (R392). -/
def State.evShed (old new trigger : Nat) (s : State) : State :=
  s.post (mkEv 0x08 0 s.now [(1, old), (1, new), (1, trigger), (1, 0), (4, s.railLevel trigger)] (new == 0))

/-- Changes the power state. -/
def State.modPwr (f : Power → Power) (s : State) : State := { s with pwr := f s.pwr }

/-- What a stage sheds as it is reached (R445). Stages 1 and 3 act where the stage is read. -/
def State.shedAction (stage : Nat) (s : State) : State :=
  match stage with
  | 2 => s.shedGroups.traceStop
  | 4 => s.shedPorts
  | 5 => ((s.latch_ 0 0x10).latch_ 1 0x10).requestSafe .power
  | _ => s

/-- The mode that a power-driven SAFE_HOLD ends in (R33, R446). -/
def State.returnMode (s : State) : Mode :=
  if s.gaf.prevMode == .service && s.paired && s.partnerActive then .standby else s.gaf.prevMode

/-- The actions of a stage are reversed as it is left (R446). -/
def State.unshedAction (stage : Nat) (s : State) : State :=
  match stage with
  | 2 => if s.gaf.mode == .safeHold then s else s.unshedGroups.traceResume
  | 4 => s.unshedPorts
  | 5 => if s.gaf.mode == .safeHold && s.gaf.powerDriven && s.gaf.pend.isNone then s.pendMode s.returnMode .recover else s
  | _ => s

/-- Rises one stage. -/
def State.riseOne (trigger : Nat) (s : State) : State :=
  let n := s.pwr.stage + 1
  ((s.modPwr fun p => { p with stage := n, holders := p.holders.put n trigger }).evShed (n - 1) n trigger).shedAction n

/-- Rises `k` stages, each in turn. -/
def State.rise (trigger : Nat) : Nat → State → State
  | 0, s => s
  | k + 1, s => State.rise trigger k (s.riseOne trigger)

/-- The target is formed anew (R444): the stage rises to it, and the hold of R446 runs while it lies below. -/
def State.retarget (s : State) : State :=
  let ds := s.demands
  let target := ds.foldl (fun m d => max m d.2) 0
  let keep (stage holder : Nat) : Nat :=
    if ds.any fun d => d.1 == holder && stage ≤ d.2 then holder else ((ds.find? fun d => stage ≤ d.2).map (·.1)).getD holder
  let s := s.modPwr fun p => { p with holders := p.holders.map fun h => (h.1, keep h.1 h.2) }
  let old := s.pwr.target
  let trigger := ((ds.find? fun d => d.2 == target).map (·.1)).getD 0xFF
  let s := if s.pwr.stage < target then s.rise trigger (target - s.pwr.stage) else s
  s.modPwr fun p =>
    { p with target, below := if p.stage ≤ target then none else if old < target then some s.now else some (p.below.getD s.now) }

/-- RECOVER_HOLD has passed: the stage falls one step, and the hold starts again (R446). -/
def State.fall (s : State) : State :=
  if 0 < s.pwr.stage && s.pwr.below.any fun t => t + s.recoverHold ≤ s.now then
    let n := s.pwr.stage
    let trigger := s.pwr.holders.get 0xFF n
    let s := s.modPwr fun p =>
      { p with stage := n - 1, holders := p.holders.erase n, below := if p.target < n - 1 then some s.now else none }
    (s.evShed n (n - 1) trigger).unshedAction n
  else s

/-- Stages act while the device is out of reset. -/
def State.outOfReset (f : State → State) (s : State) : State := if s.part.inReset then s else f s

/-- All rails lie above their warn level (R447). -/
def State.railsUp (s : State) : Bool := s.pwr.rails.zipIdx.all fun r => !beyond r.2 0 r.1.level

/-- A sample of all rails. In reset only the levels are followed, and an internal reset ends once every rail is up. -/
def State.railSample (levels : List Nat) (s : State) : State :=
  if s.part.inReset then
    let s := s.modPwr fun p => { p with rails := p.rails.zipIdx.map fun r => { r.1 with level := levels.getD r.2 r.1.level } }
    s.modPwr fun p => { p with internalReset := p.internalReset && !s.railsUp }
  else
    (s.modPwr fun p => { p with rails := p.rails.zipIdx.map fun r => r.1.sample r.2 s.now (levels.getD r.2 r.1.level) }).retarget

/-- PWR_WARN after its filter (R443). -/
def State.powerWarn (level : Bool) (s : State) : State :=
  let s := s.modPwr fun p => { p with warn := level, warnSeen := p.warnSeen || level }
  s.outOfReset State.retarget

end Sys2Proof.Machine
end

