-- ==== Sys2Proof/Machine/Store.lean ====
section
/-!
DEFINITION. The store: banks and their slots, calibration items, firmware images and FW_UPDATE (R103, R454 to R466).
-/
namespace Sys2Proof.Machine

/-- Changes the store. -/
def State.modStore (f : Store → Store) (s : State) : State := { s with store := f s.store }

/-! ### Banks (R459 to R462) -/

/-- The generation of a valid slot. -/
def Slot.gen? {α : Type} : Slot α → Option U32
  | .valid g _ => some g
  | _ => none

/-- What a valid slot holds. -/
def Slot.body? {α : Type} : Slot α → Option α
  | .valid _ b => some b
  | _ => none

/-- The valid slot with the higher generation: true names slot 1 (R462). -/
def bestSlot {α : Type} (a b : Slot α) : Option Bool :=
  match a.gen?, b.gen? with
  | some x, some y => some (decide (x.toNat < y.toNat))
  | some _, none => some false
  | none, some _ => some true
  | none, none => none

/-- The generation of the next bank: one above the highest valid one (R451, R461). -/
def nextGen {α : Type} (a b : Slot α) : U32 :=
  match bestSlot a b with
  | some true => b.gen?.getD 0 + 1
  | some false => a.gen?.getD 0 + 1
  | none => 1

/-- The slot that is written: the one that does not hold the newest bank; slot 0 where there is none (R459). -/
def freeSlot {α : Type} (a b : Slot α) : Bool :=
  match bestSlot a b with
  | some x => !x
  | none => false

/-- Counts an erase of a slot of the store area: configuration slots 0 and 1, calibration slots 2 and 3 (R467). -/
def State.countErase (i : Nat) (s : State) : State :=
  { s with lehr := { s.lehr with eraseCounts := s.lehr.eraseCounts.modify 0 i (· + 1) } }

/-- Puts a configuration slot. -/
def Store.setCfg (st : Store) (slot : Bool) (x : Slot CfgBank) : Store := if slot then { st with cfg1 := x } else { st with cfg0 := x }
/-- Puts a calibration slot. -/
def Store.setCal (st : Store) (slot : Bool) (x : Slot (List CalItem)) : Store :=
  if slot then { st with cal1 := x } else { st with cal0 := x }

/-- The write of a configuration bank begins: its slot is erased and its header written (R461). -/
def State.startBank (c : Commit) (s : State) : State :=
  let slot := freeSlot s.store.cfg0 s.store.cfg1
  let s := (s.modStore fun st => st.setCfg slot (.interrupted c.gen.toNat)).countErase (b2n slot)
  s.modGaf fun g => { g with commit := some c }

/-- The commit marker of the configuration bank is written. -/
def State.cfgMarker (s : State) : State :=
  match s.gaf.commit with
  | some c =>
    if c.marker.isSome then s
    else
      let slot := freeSlot s.store.cfg0 s.store.cfg1
      let s := s.modStore fun st =>
        { st.setCfg slot (.valid c.gen { recs := c.recs, features := c.features, place := c.place }) with cfgUse := some slot }
      let effect := if c.cascade || c.master then c.effect else some (nextTickStart s.rate s.now)
      let s := s.modGaf fun g => { g with commit := some { c with marker := some s.now, effect } }
      if s.cascaded then { s with cas := { s.cas with written := some c.gen } } else s
  | none => s

/-- The commit marker of the calibration bank is written. -/
def State.calMarker (s : State) : State :=
  match s.store.calCommit with
  | some c =>
    if c.marker.isSome then s
    else
      let slot := freeSlot s.store.cal0 s.store.cal1
      s.modStore fun st => { st.setCal slot (.valid c.gen c.items) with calUse := some slot, calCommit := some { c with marker := some s.now } }
  | none => s

/-- BANK_MARKER_WRITTEN (R461). -/
def State.bankMarker (k : BankKind) (s : State) : State :=
  if s.part.inReset then s
  else match k with
    | .config => s.cfgMarker
    | .cal => s.calMarker

/-- BANK_MARKER_WRITTEN (R461, R462). -/
def execBankMarkerWritten (dt : Nat) (k : BankKind) (s : State) : Host.Outcome State Fault Refusal := goOn dt (State.bankMarker k) s

/-! ### Calibration (R103, R464 to R466) -/

/-- The write of a calibration bank begins. `op` is the CAL_WRITE behind it. -/
def State.startCal (items : List CalItem) (op : Option Nat) (s : State) : State :=
  let slot := freeSlot s.store.cal0 s.store.cal1
  let gen := nextGen s.store.cal0 s.store.cal1
  (s.modStore fun st => { st.setCal slot (.interrupted gen.toNat) with calCommit := some { items, gen, op } }).countErase (2 + b2n slot)

/-- A list of items with one replaced. -/
def putItem (x : CalItem) (items : List CalItem) : List CalItem :=
  sortBy (fun a b => decide (a.item < b.item ∨ (a.item = b.item ∧ a.obj ≤ b.obj)))
    (x :: items.filter fun y => !(y.item == x.item && y.obj == x.obj))

/-- UTC_LEAP as stored, 0 where it is absent. -/
def leapOf (items : List CalItem) (d : Dom) : Int :=
  ((items.find? fun c => c.item == 3 && c.obj == d.num).map fun c => Bytes.sle c.data 0 4).getD 0

/-- A write of UTC_LEAP that is due is made, unless PWR_WARN or another write holds it back (R103, R463). -/
def State.leapWrite (s : State) : State :=
  if !s.store.leapOwed || s.pwr.warn || s.store.calCommit.isSome then s
  else
    let put (d : Dom) (items : List CalItem) : List CalItem :=
      let adj := (s.time.dom d).leapAdj
      if leapOf items d = adj then items else putItem { item := 3, obj := d.num, data := sleBytes 4 adj } items
    (s.modStore fun st => { st with leapOwed := false }).startCal (put .b (put .a s.store.items)) none

/-- The items of a calibration bank take effect at the first lattice tick after its marker (R465): LEAP_ADJ follows UTC_LEAP, and a
channel whose ACQ_SKEW the command wrote remembers the phase of its link (R164). -/
def State.calApply (s : State) : State :=
  match s.store.calCommit with
  | some c =>
    match c.marker with
    | some t =>
      let at_ := nextTickStart s.rate t
      if s.now < at_ then s
      else
        let old := s.store.items
        let s := s.modStore fun st => { st with items := c.items, calGen := c.gen, calCommit := none }
        let s := if c.op.isNone then s else [Dom.a, Dom.b].foldl (fun s d =>
          if leapOf old d = leapOf c.items d then s else s.modDom d fun x => { x with leapAdj := leapOf c.items d }) s
        let s := (c.items.filter fun x => x.item == 1 && c.op.isSome && !old.contains x).foldl (fun s x =>
          s.modChan x.obj fun y => { y with calPhase := (s.fld 0x402 x.obj 4 (·.u8 0) |> s.link).lehr.map (·.1) }) s
        let s := match c.op with
          | some n => s.finishOp n .ok 0 (packLe [(4, c.gen.toNat), (4, 0), (8, at_ / nsF), (2, (tickOf s.rate at_).2)])
          | none => s
        s.leapWrite
    | none => s
  | none => s

/-- One entry of CAL_WRITE as it stands in the payload: its offset there, ITEM, OBJECT, LEN and data. -/
structure CalEntry where
  off : Nat
  item : Nat
  obj : Nat
  len : Nat
  data : Bytes

/-- Reads `n` entries from payload offset `off` (R465): the command length that an entry running past the end would need. -/
def calEntries (p : Bytes) : Nat → Nat → List CalEntry → Except Nat (List CalEntry)
  | 0, off, acc => if off = p.length then .ok acc else .error off
  | n + 1, off, acc =>
    if p.length < off + 8 then .error (off + 8)
    else
      let len := p.u32 (off + 4)
      let next := off + 8 + 4 * ceilDiv len 4
      if p.length < next then .error next
      else calEntries p n next (acc ++ [{ off, item := p.u16 off, obj := p.u16 (off + 2), len, data := Bytes.slice p (off + 8) len }])

/-- An ITEM exists, and so does the OBJECT (R464). -/
def calItemOk (item : Nat) : Bool := within 1 3 item
@[inherit_doc calItemOk] def calObjOk (l : Bool) (item obj : Nat) : Bool :=
  match item with
  | 1 => obj < numAcq l
  | 2 => obj ≤ 63
  | _ => obj ≤ 1

/-- The LEN and the data of an item are in range (R464). -/
def calLenOk (item len : Nat) : Bool := if item = 2 then within 4 1024 len && len % 4 == 0 else len == 4
@[inherit_doc calLenOk] def calDataOk (item : Nat) (d : Bytes) : Bool :=
  match item with
  | 1 => withinZ (-6553600) 6553600 (d.sle 0 4)
  | 3 => withinZ (-255) 255 (d.sle 0 4)
  | _ => true

/-- The whole payload of a CAL_WRITE. -/
def calPayload (nItems cflags : U16) (rsv : U32) (entries : Bytes) : Bytes :=
  packLe [(2, nItems.toNat), (2, cflags.toNat), (4, rsv.toNat)] ++ entries

/-- The command length that a CAL_WRITE should have had (R465). -/
def calLengthErr (p : Bytes) : Option Nat :=
  if p.length < 16 then some 16
  else match calEntries p (p.u16 0) 8 [] with
    | .error n => if p.u16 0 = 0 then none else some n
    | .ok _ => none

/-- The field checks of a CAL_WRITE. -/
def calChecks (l : Bool) (p : Bytes) : Checks :=
  let del := bitOf (p.u16 2) 0
  let es := match calEntries p (p.u16 0) 8 [] with
    | .ok es => es
    | .error _ => []
  [(0, within 1 64 (p.u16 0)), (2, onlyBits 1 (p.u16 2)), (4, zeroAt p 4 4)] ++ es.zipIdx.flatMap fun x =>
    let e := x.1
    let twice := (es.take x.2).any fun f => f.item == e.item && f.obj == e.obj
    [(e.off, calItemOk e.item && !twice), (e.off + 2, calObjOk l e.item e.obj), (e.off + 4, del || calLenOk e.item e.len),
     (e.off + 8, del || calDataOk e.item e.data)]

/-- CAL_WRITE from step 6 of R59 on (R463, R465). -/
def State.calWrite (seq : Nat) (p : Bytes) (s : State) : State × Reply :=
  match s.gaf.ops.find? fun o => o.wait == .cal && o.started && o.outcome.isNone with
  | some o => (s, busy o.h.mb.val)
  | none =>
    if s.pwr.warn then (s, busy 0x10)
    else match firstBad (calChecks s.isL p) with
      | some o => (s, badAt o)
      | none =>
        match calEntries p (p.u16 0) 8 [] with
        | .error _ => (s, badAt 0)
        | .ok es =>
          let del := bitOf (p.u16 2) 0
          let items := es.foldl (fun (its : List CalItem) e =>
            if del then its.filter fun y => !(y.item == e.item && y.obj == e.obj)
            else putItem { item := e.item, obj := e.obj, data := e.data } its) s.store.items
          (s.startCal items (some seq), .wait .cal)

/-- CAL_READ (R466). -/
def State.calRead (path : Path) (item obj : U16) (rsv : U32) (buf : BufDesc) (s : State) : State × Reply :=
  let o := obj.toNat
  match firstBad [(0, calItemOk item.toNat), (2, o == 0xFFFF || calObjOk s.isL item.toNat o), (4, rsv == 0)] with
  | some e => (s, badAt e)
  | none =>
    match bufBad buf 8 path with
    | some e => (s, badAt e)
    | none =>
      let es := s.store.items.filter fun c => c.item == item.toNat && (o == 0xFFFF || c.obj == o)
      if s.gaf.romHold then (s, noRes 0x0D02)
      else if es.isEmpty then (s, noRes 0x0D01)
      else
        let bytes (c : CalItem) : Bytes := packLe [(2, c.item), (2, c.obj), (4, c.data.length)] ++ padTo 4 c.data
        let fit := es.foldl (fun (a : Bytes × Nat × Bool) c =>
          if a.2.2 && a.1.length + (bytes c).length ≤ bufRoom buf then (a.1 ++ bytes c, a.2.1 + 1, true) else (a.1, a.2.1, false)) ([], 0, true)
        s.deliver buf fit.1 (packLe [(4, s.store.calGen.toNat), (2, fit.2.1)])

/-! ### Firmware (R453 to R458) -/

/-- The slot of a name: true is B. -/
def Store.image (st : Store) (b : Bool) : Mem := if b then st.slotB else st.slotA
/-- Writes the slot of a name. -/
def Store.setImage (st : Store) (b : Bool) (m : Mem) : Store := if b then { st with slotB := m } else { st with slotA := m }

/-- A 32-bit word of an image. -/
def imageWord (m : Mem) (off : Nat) : Nat := leNat (Mem.readBytes 0xFF m off 4)

/-- An image is valid (R456); `crypto` says that key, signature and hashes verify. -/
def imageValid (m : Mem) (otp : U32) (crypto : Bool) : Bool :=
  imageWord m 0 == 0x58473634 && imageWord m 4 % 65536 == 1 && decide (imageWord m 0x10 % 256 ≤ 0xB0) &&
  decide (otp.toNat ≤ imageWord m 0xC) && crypto

/-- The data that a WRITE programs: from host memory under KIND 1, none under KIND 2, whose LENGTH leaves room for none. -/
def State.fwData (buf : BufDesc) (s : State) : Bytes := if buf.kind = 1 then Mem.readBytes 0 s.hostMem buf.addr.toNat buf.len.toNat else []

/-- The field checks of FW_UPDATE (R457). -/
def fwChecks (op : Nat) (rsv : BitVec 24) (off : Nat) (buf : BufDesc) (verified : Bool) : Checks :=
  let wr := op == 1
  [(0, within 1 5 op && (op != 3 || verified)), (1, rsv == 0), (4, !wr || (off % 4096 == 0 && decide (off ≤ 28 * 2 ^ 20))),
   (8, buf.addr.toNat % 4 == 0 && (buf.kind == 1 || buf.addr == 0)),
   (0x10, !wr || (buf.len.toNat % 4096 == 0 && decide (buf.len.toNat ≤ 1048576) && decide (off + buf.len.toNat ≤ 28 * 2 ^ 20))),
   (0x14, if wr then buf.kind == 1 || (buf.kind == 2 && buf.len == 0) else buf.kind == 0), (0x16, buf.rsv == 0)]

/-- FW_UPDATE from step 6 of R59 on (R457, R463). -/
def State.fwUpdate (op : Byte) (rsv : BitVec 24) (off : U32) (buf : BufDesc) (s : State) : State × Reply :=
  let n := op.toNat
  match s.gaf.ops.find? fun o => o.wait == .flash && o.started && o.outcome.isNone with
  | some o => (s, busy o.h.mb.val)
  | none =>
    if s.pwr.warn && n != 2 && within 1 5 n then (s, busy 0x10)
    else match firstBad (fwChecks n rsv off.toNat buf s.store.verified) with
      | some e => (s, badAt e)
      | none =>
        match n with
        | 1 => (s.modStore fun st => { st with verified := false, job := some (.write off.toNat (s.fwData buf)) }, .wait .flash)
        | 2 => (s.modStore fun st => { st with job := some .verify }, .wait .flash)
        | 3 => (s.modStore fun st => { st with active := !s.gaf.image, trial := true, activateReset := true, verified := false }, okNone)
        | 4 =>
          if s.store.trial && s.gaf.romHold then (s.modStore fun st => { st with trial := false }, okNone)
          else if s.store.trial then
            let sec := BitVec.ofNat 32 (imageWord (s.store.image s.gaf.image) 0xC)
            (s.modStore fun st => { st with trial := false, secVer := sec, otpSec := if st.otpSec.toNat < sec.toNat then sec else st.otpSec },
              okNone)
          else (s, okNone)
        | _ => (s.modStore fun st => { st with verified := false, job := some .erase }, .wait .flash)

/-- A flash operation ends (R457); `crypto` is what the signature and hash checks of a VERIFY found. -/
def State.flashDone (crypto : Bool) (s : State) : State :=
  let slot := !s.gaf.image
  let m := s.store.image slot
  let finish (r : Result) (d : Bytes) (s : State) : State := s.finishWaiting (fun o => o.wait == .flash) fun _ => (r, 0, d)
  if s.part.inReset then s
  else match s.store.job with
    | none => s
    | some (.write off data) =>
      finish .ok [] (s.modStore fun st => { st.setImage slot (Mem.writeBytes 0xFF m off data) with job := none })
    | some .erase => finish .ok [] (s.modStore fun st => { st.setImage slot [] with job := none })
    | some .verify =>
      let ok := imageValid m s.store.otpSec crypto
      let s := s.modStore fun st => { st with job := none, verified := ok }
      if ok then finish .ok (packLe [(4, imageWord m 8), (4, imageWord m 0xC)]) s else finish .authFail [] s

/-- FLASH_OP_COMPLETE (R457). -/
def execFlashOpComplete (dt : Nat) (crypto : Bool) (s : State) : Host.Outcome State Fault Refusal := goOn dt (State.flashDone crypto) s

end Sys2Proof.Machine
end

