-- ==== Sys2Proof/Machine/Staging.lean ====
section
/-!
DEFINITION. Staging: the records of an envelope, their checks, the features they need, and the configuration that a transaction
makes (R61 to R65, R72 to R75, R208, R283).
-/
namespace Sys2Proof.Machine

/-- What the record tables say of a record, by its range (R73). `ty` is the type of the instance it names, where that is known. -/
def State.specOf (rtype obj : Nat) (b : Bytes) (ty : Option Nat) (s : State) : Option RecSpec :=
  let l := s.isL
  match rtype / 256 with
  | 1 => if rtype = 0x101 then some (fixedRec 4 [(0, b.u32 0 ≤ 1)] (obj == 0)) else none
  | 2 => timeSpec l rtype obj b
  | 3 => svSpec l rtype obj b
  | 4 => acqSpec l rtype obj b
  | 5 => if rtype < 0x5F0 then instSpec l ty rtype obj b else pubSpec l rtype obj b
  | 6 => placeSpec l s.cd rtype obj b
  | 7 => convSpec l rtype obj b
  | 8 => valveSpec l rtype obj b
  | 9 => logicSpec l rtype obj b
  | 10 => netSpec l rtype obj b
  | 11 => eventSpec l rtype obj b
  | 12 => pairSpec rtype obj b
  | 13 => shedSpec rtype obj b
  | _ => none

/-- The features that a record needs (R64, R65). -/
def State.recNeeds (rtype obj : Nat) (b : Bytes) (s : State) : List Nat :=
  (if within 7 8 (rtype / 256) then [3] else []) ++ (s.specOf rtype obj b none).elim [] (·.needs)

/-- The feature that an opcode needs (R65). -/
def opNeeds : Nat → List Nat
  | 0x60 | 0x61 | 0x62 | 0x63 | 0x64 | 0x70 => [3]
  | 0x71 | 0x72 => [4]
  | 0xA1 | 0xA2 => [10]
  | 0xC0 | 0xC1 => [13]
  | _ => []

/-- The record types that a staging command carries (R65, R78, R296, R388, R431, R438). -/
def carries (op rtype : Nat) : Bool :=
  let range (r : Nat) : Bool := rtype / 256 == r
  match op with
  | 0x11 => true
  | 0x20 | 0x21 => range 5
  | 0x22 => rtype == 0x502
  | 0x40 | 0x41 => range 3
  | 0x50 => range 4
  | 0x60 => range 7 && rtype ≤ 0x706
  | 0x62 => rtype == 0x707 || rtype == 0x708
  | 0x70 => range 8
  | 0x80 => range 9
  | 0x90 => rtype == 0xA01 || within 0xA05 0xA08 rtype
  | 0x91 => within 0xA02 0xA04 rtype
  | 0xA0 => range 2
  | 0xC0 => rtype == 0xC01
  | _ => false

/-! ### The envelope (R72) -/

/-- A record as it stands in a payload, with its offset there. -/
structure RawRec where
  off : Nat
  rtype : Nat
  rver : Nat
  rop : Nat
  obj : Nat
  rlen : Nat
  rsv : Nat
  body : Bytes

/-- Reads the records of a payload from an offset: the payload offset at which the sequence is broken, otherwise. -/
def rawRecs (p : Bytes) : Nat → Nat → Except Nat (List RawRec)
  | 0, off => if off = p.length then .ok [] else .error off
  | fuel + 1, off =>
    if off = p.length then .ok []
    else if p.length < off + 12 then .error off
    else
      let n := p.u16 (off + 8)
      if p.length < off + 12 + n || n % 4 ≠ 0 then .error (off + 8)
      else do
        let rest ← rawRecs p fuel (off + 12 + n)
        return { off, rtype := p.u16 off, rver := p.u8 (off + 2), rop := p.u8 (off + 3), obj := p.u32 (off + 4), rlen := n
                 rsv := p.u16 (off + 0xA), body := Bytes.slice p (off + 12) n } :: rest

/-- The payload of a staging command. -/
def envPayload (e : Envelope) : Bytes := packLe [(4, e.txn.toNat), (4, e.rsv.toNat)] ++ e.records

/-- The records of an envelope. -/
def envRaws (e : Envelope) : Except Nat (List RawRec) := rawRecs (envPayload e) ((envPayload e).length / 12) 8

/-- What a record stages. -/
def RawRec.staged (r : RawRec) : Staged := { rtype := r.rtype, obj := r.obj, body := if r.rop = 1 then none else some r.body }

/-! ### The configuration that records make (R75, R205, R208, R283) -/

/-- Puts a record. -/
def putRec (x : Rec) (rs : List Rec) : List Rec := x :: rs.filter fun r => !(r.rtype == x.rtype && r.obj == x.obj)
/-- Removes a record. -/
def dropRec (rtype obj : Nat) (rs : List Rec) : List Rec := rs.filter fun r => !(r.rtype == rtype && r.obj == obj)

/-- The settings that a SETTINGS record leaves (R208): those it does not list keep their values. -/
def mergeSettings (ty : Nat) (old : Table U32) (b : Bytes) : Table U32 :=
  (setEntries b).foldl (fun (t : Table U32) e =>
    t.put e.1 (((typeSettings ty).find? fun d => d.no == e.1).elim e.2 fun d => d.round e.2)) old

/-- A configuration being made: its records, and the instances created in it whose settings stand at their defaults. -/
structure Making where
  recs : List Rec
  fresh : List Nat := []

/-- A delete takes what belongs to the object with it (R75, R121). -/
def Making.drop (rtype obj : Nat) (m : Making) : Making :=
  let rs := dropRec rtype obj m.recs
  let rs := if rtype = 0x501 then dropRec 0x502 obj (dropRec 0x503 obj rs) else rs
  let rs := if rtype = 0x301 then rs.filter fun r => !(r.rtype == 0x302 && r.body.u16 0 == obj) else rs
  { m with recs := rs }

/-- One staged record takes its place. -/
def Making.take (m : Making) (x : Staged) : Making :=
  match x.body with
  | none => m.drop x.rtype x.obj
  | some b =>
    match x.rtype with
    | 0x501 =>
      let other := (recIn m.recs 0x501 x.obj).any fun o => o.u8 0 != b.u8 0
      let rs := if other then dropRec 0x502 x.obj (dropRec 0x503 x.obj m.recs) else m.recs
      { recs := putRec { rtype := 0x501, obj := x.obj, body := b } rs, fresh := x.obj :: m.fresh }
    | 0x502 =>
      let ty := (recIn m.recs 0x501 x.obj).elim 0 (·.u8 0)
      let old := if m.fresh.contains x.obj then [] else valsOf m.recs x.obj
      { recs := putRec { rtype := 0x502, obj := x.obj, body := setBody x.obj (mergeSettings ty old b) } m.recs
        fresh := m.fresh.filter (· != x.obj) }
    | 0x708 =>
      { m with recs := putRec { rtype := 0x708, obj := x.obj, body := compMerge (recIn m.recs 0x708 x.obj) b } m.recs }
    | _ => { m with recs := putRec { rtype := x.rtype, obj := x.obj, body := b } m.recs }

/-- The configuration that staged records make of a base (R75). -/
def compose (base : List Rec) (xs : List Staged) : List Rec := sortRecs (xs.foldl Making.take { recs := base }).recs

/-- The committed records, those that wait for a matrix boundary included. -/
def State.allRecs (s : State) : List Rec :=
  match s.conv.newRecs with
  | some n => sortRecs ((s.cfg.filter fun r => !within 7 8 (r.rtype / 256)) ++ n.2)
  | none => s.cfg

/-- The base of a transaction. -/
def State.txnBase (fromEmpty : Bool) (s : State) : List Rec := if fromEmpty then [] else s.allRecs

/-! ### Checks on receipt (R60, R64, R72, R74) -/

/-- The payload offset of the first bad field of a record in a command of an opcode. -/
def State.rawBad (op : Nat) (ty : Option Nat) (r : RawRec) (s : State) : Option Nat :=
  match s.specOf r.rtype r.obj r.body ty with
  | none => some r.off
  | some sp =>
    let at_ (x : Option Nat) : Option Nat := x.map fun o => r.off + 12 + o
    if !carries op r.rtype then some r.off
    else if r.rver ≠ 1 then some (r.off + 2)
    else if 1 < r.rop || ((op = 0x21 || op = 0x41) && r.rop ≠ 1) then some (r.off + 3)
    else if !sp.objOk then some (r.off + 4)
    else if r.rop = 1 then (if r.rlen ≠ 0 then some (r.off + 8) else if r.rsv ≠ 0 then some (r.off + 0xA) else none)
    else if (r.rtype = 0x502 || r.rtype = 0x503) && ty.isNone then some (r.off + 4)
    else if r.rlen < sp.fixed then some (r.off + 8)
    else match at_ (firstBad sp.counts) with
      | some o => some o
      | none =>
        if r.rlen ≠ sp.len then some (r.off + 8)
        else if r.rsv ≠ 0 then some (r.off + 0xA)
        else at_ (firstBad sp.checks)

/-- The first bad field of the records of a command, each judged with the instances that the records before it leave. -/
def State.rawsBad (op : Nat) (s : State) : Making → List RawRec → Option Nat
  | _, [] => none
  | m, r :: rs =>
    let ty := (recIn m.recs 0x501 r.obj).map (·.u8 0)
    match s.rawBad op ty r with
    | some o => some o
    | none => s.rawsBad op (m.take r.staged) rs

/-- The first feature that a staging command lacks (R59 step 4, R65). -/
def State.stagingLacks (e : Envelope) (s : State) : Option Nat :=
  match envRaws e with
  | .error _ => none
  | .ok rs => (rs.flatMap fun r => if r.rop = 0 then s.recNeeds r.rtype r.obj r.body else if within 7 8 (r.rtype / 256) then [3] else []).find?
      fun f => !s.feat f

/-- The first bad field of a staging command with the records that its transaction holds already (R72). -/
def State.stagingBad (op : Nat) (e : Envelope) (fromEmpty : Bool) (held : List Staged) (s : State) : Option Nat :=
  if e.rsv ≠ 0 then some 4
  else match envRaws e with
    | .error o => some o
    | .ok rs => s.rawsBad op (held.foldl Making.take { recs := s.txnBase fromEmpty }) rs

/-! ### Features (R61 to R64) -/

/-- The features that the device offers (R61, R453). -/
def State.offered (s : State) : BitVec 128 :=
  if s.gaf.romHold then 0
  else BitVec.ofNat 128 (maskOf 16 fun i => (i != 2 || !s.isL) && (i != 14 || s.isArbiter))

/-- HELLO (R62). -/
def State.hello (maj : U16) (rsv : U32) (s : State) : State × Reply :=
  match firstBad [(0x10, maj == 1), (0x14, rsv == 0)] with
  | some o => (s, badAt o)
  | none => ({ s with gaf := { s.gaf with session := true } },
      okWith (packLe [(16, s.offered.toNat), (16, s.gaf.committed.toNat), (2, 1), (2, 0), (2, 16), (2, 0)]))

/-- The features that the configuration in use needs. -/
def State.usedFeatures (s : State) : List Nat := (s.txnBase false).flatMap fun r => s.recNeeds r.rtype r.obj r.body

/-- FEATURES_COMMIT (R63). -/
def State.featuresCommit (req : BitVec 128) (s : State) : State × Reply :=
  let new := (req &&& s.offered) ||| (if s.isArbiter then BitVec.ofNat 128 (2 ^ 14) else 0)
  let high := (List.range 112).find? fun i => req.getLsbD (16 + i)
  let lost := (List.range 16).find? fun i => s.feat i && !new.getLsbD i && s.usedFeatures.contains i
  match high, lost with
  | some i, _ => (s, badField (0x10000 + 16 + i))
  | none, some i => (s, badField (0x10000 + i))
  | none, none => ({ s with gaf := { s.gaf with committed := new } }, okWith (leBytes 16 new.toNat))

end Sys2Proof.Machine
end

