-- ==== Sys2Proof/Machine/Commit.lean ====
section
/-!
DEFINITION. Configuration transactions: opening, staging, commit and abort, placement and its report, and reading settings back (R72
to R79, R108, R113, R258 to R266).
-/
namespace Sys2Proof.Machine

/-! ### Transactions (R74, R76) -/

/-- A placement of the open transaction runs in the background. -/
def State.placing (id : U32) (s : State) : Option Op :=
  s.gaf.ops.find? fun o => o.outcome.isNone && (objectsOf o.cmd).contains (0, id.toNat) && match o.wait with
    | .placing .. => true
    | _ => false

/-- The transaction named is another's, or an operation holds it (R76). -/
def State.txnBusy (h : CmdHead) (id : U32) (s : State) : Option Reply :=
  match s.gaf.txn with
  | some t =>
    if t.id != id then none
    else if t.mb != h.mb || t.path != h.path || t.committing then some (busy t.mb.val)
    else (s.placing id).map fun o => busy o.h.mb.val
  | none => none

/-- The open transaction of a number. -/
def State.openTxn (id : U32) (s : State) : Option Txn := s.gaf.txn.filter fun t => t.id == id

/-- Time in µs since an instant, as a DETAIL. -/
def State.elapsedUs (t : Fine) (s : State) : Nat := min (2 ^ 32 - 1) ((s.now - t) / (1000 * nsF))

/-- Runs a command that names a transaction: BUSY where it is held, BAD_FIELD at TXN_ID where it is not open, BAD_FIELD at the first
bad field, TIMEOUT the first time after it was aborted for idleness (R59, R76). -/
def State.withTxn (h : CmdHead) (id : U32) (bad : Option Nat) (f : Txn → State → State × Reply) (s : State) : State × Reply :=
  match s.txnBusy h id with
  | some r => (s, r)
  | none =>
    match s.openTxn id with
    | some t =>
      let t := { t with last := s.now }
      let s := s.modGaf fun g => { g with txn := some t }
      match bad with
      | some o => (s, badAt o)
      | none => f t s
    | none =>
      match s.gaf.txnTimedOut.find? fun e => e.1 == id with
      | none => (s, badAt 0)
      | some e =>
        match bad with
        | some o => (s, badAt o)
        | none =>
          (s.modGaf fun g => { g with txnTimedOut := g.txnTimedOut.filter fun x => x.1 != id },
            .done .timeout (s.elapsedUs e.2) [] false [])

/-- The mailbox whose commit is running. -/
def State.committer (s : State) : Option Op := s.gaf.ops.find? fun o => o.wait == .commit && o.started && o.outcome.isNone

/-- CONFIG_BEGIN (R74). -/
def State.configBegin (h : CmdHead) (baseGen tflags : U32) (s : State) : State × Reply :=
  match s.gaf.txn.map (fun t => t.mb.val) <|> s.committer.map (fun o => o.h.mb.val) with
  | some n => (s, busy n)
  | none =>
    match firstBad [(0, baseGen == 0 || baseGen == s.cfgGen), (4, onlyBits 1 tflags.toNat)] with
    | some o => (s, badAt o)
    | none =>
      let id := s.gaf.nextTxn
      (s.modGaf fun g => { g with
          txn := some { id, mb := h.mb, path := h.path, base := s.cfgGen, fromEmpty := bitOf tflags.toNat 0, last := s.now }
          nextTxn := nextNum id },
        okWith (packLe [(4, id.toNat), (4, s.cfgGen.toNat)]))

/-- CONFIG_ABORT (R74). -/
def State.configAbort (h : CmdHead) (txn rsv : U32) (s : State) : State × Reply :=
  s.withTxn h txn (firstBad [(4, rsv == 0)]) fun _ s => (s.modGaf fun g => { g with txn := none }, okNone)

/-- The open transaction has received no command for 60 s (R76). -/
def State.txnIdle (s : State) : State :=
  match s.gaf.txn with
  | some t =>
    if t.committing || (s.placing t.id).isSome || s.part.inReset || s.now < t.last + 60 * secF then s
    else s.modGaf fun g => { g with txn := none, txnTimedOut := (t.id, t.last) :: g.txnTimedOut }
  | none => s

/-! ### Placement of a configuration (R109, R254 to R263) -/

/-- The retired engines of this device, as a mask. -/
def State.retiredMask (s : State) : Nat := maskOf 64 fun e => (s.engine e).retired

/-- The input of a placement (R246). -/
def State.placeInput (recs : List Rec) (s : State) : PlaceInput :=
  let ring := s.cascaded && (recIn recs 0xC02 0).isSome
  let devs := if ring then List.range ((recIn recs 0xC02 0).elim 1 (·.u8 0)) else [s.cd]
  let other (d : Nat) : Nat := ((s.cas.devs.get { } d).last).elim 0 (·.retired.toNat)
  { recs, rate := latticeOf recs, l := s.isL, cd := s.cd, devs
    retired := devs.map fun d => (d, if d = s.cd then s.retiredMask else other d) }

/-- The spare of an instance took the twin's role (R193, R259). -/
def State.tookTwin (s : State) (n : Nat) : Bool := (s.inst n).stand.any fun x => x.perm && !x.primary

/-- A commit changes the rate in use (R108). -/
def State.rateChanges (recs : List Rec) (s : State) : Bool := latticeOf recs != s.rate

/-- Places a configuration over the placement in use; a change of rate places afresh (R109). -/
def State.placeNow (recs : List Rec) (replace : Bool) (s : State) : PlaceEnd :=
  runPlacement (s.placeInput recs) (if s.place.proven then some s.place else none) (replace || s.rateChanges recs) s.tookTwin

/-- An engine that a placement uses has been retired (R260). -/
def State.lostEngine (p : Placement) (s : State) : Bool :=
  let dead (d e : Nat) : Bool := e != 255 && bitOf ((s.placeInput s.cfg).retired.get 0 d) e
  p.insts.any fun x => dead x.2.device x.2.primary || dead x.2.device x.2.twin || dead x.2.device x.2.spare

/-- A refused cross-reference as an answer (R60, R77); `at_` gives the offset of a record in the command, where the command carries it. -/
def crossReply (at_ : Nat → Nat → Option Nat) : CommitErr → Reply
  | .noRes d => noRes d
  | .field t o off => .done .badField ((at_ t o).getD 0 + 0xC + off) (packLe [(2, t), (4, o)]) false []
  | .object t o => .done .badField ((at_ t o).getD 0 + 4) (packLe [(2, t), (4, o)]) false []

/-- The answer to a placement that was not made. -/
def PlaceEnd.refusal : PlaceEnd → Option Reply
  | .store d => some (noRes d)
  | .refused f => some (.done .placementRefused f.reason f.data false [])
  | .placed _ => none

/-! ### Commit (R74, R75, R77) -/

/-- The numbers of the settings that the last staged SETTINGS record of an instance sent, in its order. -/
def sentSettings (xs : List Staged) (n : Nat) : List Nat :=
  ((xs.reverse.find? fun x => x.rtype == 0x502 && x.obj == n).bind (·.body)).elim [] fun b => (setEntries b).map (·.1)

/-- What a commit touches: the records staged and those that differ. Under FROM_EMPTY only those that differ (R75). -/
def changedKeys (old new : List Rec) (xs : List Staged) (fromEmpty : Bool) : List (Nat × Nat) :=
  let diff := (old ++ new).filter fun r => recIn old r.rtype r.obj != recIn new r.rtype r.obj
  ((diff.map fun r => (r.rtype, r.obj)) ++ if fromEmpty then [] else xs.map fun x => (x.rtype, x.obj)).eraseDups

/-- The object that a record belongs to: an instance's records are of one object. -/
def objKey (k : Nat × Nat) : Nat × Nat := if within 0x501 0x503 k.1 then (0x501, k.2) else k

/-- A tracker's ANGLE_OFFSET would step (R113). -/
def State.angleSteps (recs : List Rec) (s : State) : Bool :=
  (recsOf recs 0x207).any fun r => (s.rec? 0x207 r.1).any fun b => b.u32 0x14 != r.2.u32 0x14

/-- The bank is sent to the other devices of the ring by its master (R435). -/
def State.sendBank (c : Commit) (s : State) : State :=
  let n := (recIn s.cfg 0xC02 0).elim 1 (·.u8 0)
  ((List.range n).filter fun d => d != s.cd).foldl (fun s d => s.emit (.casConfig d (.bank c.gen c.recs c.features c.place c.changed))) s

/-- Checks, places and starts to write the configuration that staged records make. -/
def State.commitRun (fromEmpty : Bool) (staged : List Staged) (placed : Option Placement) (txn : Option U32)
    (at_ : Nat → Nat → Option Nat) (s : State) : State × Reply :=
  let old := s.allRecs
  let recs := compose (s.txnBase fromEmpty) staged
  if s.gaf.mode != .commission && (s.rateChanges recs || s.angleSteps recs) then (s, wrongMode 8)
  else match s.crossErr recs (sentSettings staged) with
    | some e => (s, crossReply at_ e)
    | none =>
      let end_ := match placed with
        | some p => if s.lostEngine p then s.placeNow recs false else .placed p
        | none => s.placeNow recs false
      match end_ with
      | .placed p =>
        let c : Commit := { recs, place := p, gen := nextGen s.store.cfg0 s.store.cfg1, features := s.gaf.committed
                            changed := changedKeys old recs staged fromEmpty, txn, master := s.cascaded && s.part.straps.masterEn && s.cas.formed }
        let s := s.startBank c
        let s := if c.master then s.sendBank c else s
        (s, .wait .commit)
      | e => (s, (e.refusal).getD okNone)

/-- CONFIG_COMMIT (R74, R77). -/
def State.configCommit (h : CmdHead) (txn rsv : U32) (s : State) : State × Reply :=
  match s.txnBusy h txn with
  | some r => (s, r)
  | none =>
    if s.pwr.warn then (s, busy 0x10)
    else if s.gaf.commit.isSome && (s.openTxn txn).isSome then (s, .wait .turn)
    else s.withTxn h txn (firstBad [(4, rsv == 0)]) fun t s =>
      let r := s.commitRun t.fromEmpty t.staged t.placed (some t.id) fun _ _ => none
      (if r.2 == .wait .commit then r.1.modGaf fun g => { g with txn := some { t with committing := true } } else r.1, r.2)

/-- A staging command in a transaction of its own (R72, R74, R76): it waits for a commit that runs, and is BUSY where that commit or
the open transaction holds an object it touches. -/
def State.implicit (op : Nat) (e : Envelope) (s : State) : State × Reply :=
  let raws := match envRaws e with
    | .ok rs => rs
    | .error _ => []
  let keys := raws.map fun r => objKey (r.rtype, r.obj)
  let touches (ks : List (Nat × Nat)) : Bool := ks.any fun k => keys.contains (objKey k)
  let holder := (s.gaf.txn.filter fun t => touches (t.staged.map fun x => (x.rtype, x.obj))).map fun t => t.mb.val
  let runner := if s.gaf.commit.any fun c => touches c.changed then s.committer.map (fun o => o.h.mb.val) else none
  match holder <|> runner with
  | some n => (s, busy n)
  | none =>
    if s.pwr.warn then (s, busy 0x10)
    else if s.gaf.commit.isSome then (s, .wait .turn)
    else match s.stagingBad op e false [] with
      | some o => (s, badAt o)
      | none =>
        s.commitRun false (raws.map (·.staged)) none none fun t o =>
          (raws.reverse.find? fun r => r.rtype == t && r.obj == o).map fun r => 0x10 + r.off

/-- A staging command or CONFIG_RECORD (R72, R74). -/
def State.staging (op : Nat) (h : CmdHead) (e : Envelope) (s : State) : State × Reply :=
  if e.txn = 0 then s.implicit op e
  else
    let t := s.openTxn e.txn
    s.withTxn h e.txn (s.stagingBad op e (t.any (·.fromEmpty)) (t.elim [] (·.staged))) fun t s =>
      match envRaws e with
      | .ok rs =>
        (s.modGaf fun g => { g with txn := some { t with staged := t.staged ++ rs.map (·.staged), placed := none } }, okNone)
      | .error o => (s, badAt o)

/-! ### PLACE and PLACEMENT_GET (R74, R258, R265, R266) -/

/-- PLACE: the placement is computed in the background. -/
def State.placeCmd (h : CmdHead) (txn pflags : U32) (s : State) : State × Reply :=
  s.withTxn h txn (firstBad [(4, onlyBits 3 pflags.toNat)]) fun t s =>
    let recs := compose (s.txnBase t.fromEmpty) t.staged
    match s.crossErr recs (sentSettings t.staged) with
    | some e => (s, crossReply (fun _ _ => none) e)
    | none =>
      let dry := bitOf pflags.toNat 1
      match s.placeNow recs (bitOf pflags.toNat 0) with
      | .placed p => (s, .wait (.placing .ok 0 p.report (some p) dry))
      | .refused f => (s, .wait (.placing .placementRefused f.reason f.data none dry))
      | .store d => (s, noRes d)

/-- A background placement ends. -/
def State.placeDone (s : State) : State :=
  if s.part.inReset then s
  else s.gaf.ops.foldl (fun s o =>
    match o.wait with
    | .placing r d b p dry =>
      if o.outcome.isSome then s
      else
        let s := match p with
          | some p =>
            if dry then s.modGaf fun g => { g with dryRun := some p }
            else s.modGaf fun g => { g with txn := g.txn.map fun (t : Txn) => { t with placed := some p } }
          | none => s
        s.finishOp o.seq r d b
    | _ => s) s

/-- PLACEMENT_GET (R266). -/
def State.placementGet (h : CmdHead) (source select : Byte) (first count rsv : U16) (buf : BufDesc) (s : State) : State × Reply :=
  let insts := select == 0
  match firstBad [(0, decide (source.toNat ≤ 2)), (1, decide (select.toNat ≤ 1)),
      (2, decide (first.toNat < if insts then numInsts s.isL else numEngines s.isL)), (4, within 1 1024 count.toNat), (6, rsv == 0)] with
  | some o => (s, badAt o)
  | none =>
    match bufBad buf 8 h.path with
    | some o => (s, badAt o)
    | none =>
      let own := s.gaf.txn.filter fun t => t.mb == h.mb && t.path == h.path
      let found : Option (Placement × U32) := match source.toNat with
        | 0 => if s.place.proven then some (s.place, s.cfgGen) else none
        | 1 => own.bind fun t => t.placed.map fun p => (p, t.base)
        | _ => s.gaf.dryRun.map fun p => (p, s.cfgGen)
      match found with
      | none => (s, noRes 0x0601)
      | some (p, gen) =>
        let nums := (List.range count.toNat).map (first.toNat + ·)
        let es := if insts then nums.filterMap fun n => (p.insts.find? n).map fun x => PlacedInst.entry n x
          else (nums.filter fun e => decide (e < numEngines s.isL)).map fun e => p.engEntry s.cd e (s.engine e).retired
        let n := bufFits buf 32 es.length
        let s := if source == 2 then s.modGaf fun g => { g with dryRun := none } else s
        s.deliver buf (es.take n).flatten
          (packLe [(4, p.digest.toNat), (4, p.inputDigest.toNat), (4, gen.toNat), (2, n), (2, p.maxUtil)])

/-! ### SETTINGS_READ (R79) -/

/-- The running state of the Marver events (R79). -/
def State.marverState (s : State) : Bytes :=
  (List.range 256).flatMap fun n =>
    let e := s.mar? n
    let t := s.fld 0x208 n 0 (·.u8 0)
    packLe [(1, e.emode.toNat), (1, t), (1, (s.tracker t).state.code), (1, 0), (4, e.firings)]

/-- SETTINGS_READ. -/
def State.settingsRead (h : CmdHead) (inst : U16) (source rsv : Byte) (buf : BufDesc) (s : State) : State × Reply :=
  let n := inst.toNat
  let rec_ := recIn s.allRecs 0x501 n
  let ty := rec_.elim 0 (·.u8 0)
  let vals := match source.toNat with
    | 0 => valsOf s.allRecs n
    | _ => if (s.inst n).settings.isEmpty then valsOf s.cfg n else (s.inst n).settingsAt s.tick
  let body := if source == 3 then s.marverState else setBody n (allSettings ty vals)
  let short := buf.kind == 1 && decide (buf.len.toNat < body.length)
  let bufAt := bufBad buf 4 h.path
  match firstBad [(0, if source == 3 then n == 0 else rec_.isSome),
      (2, decide (source.toNat ≤ 3) && !(source == 2 && rec_.any isSingle)), (3, rsv == 0),
      (4, bufAt != some 4), (0xC, bufAt != some 0xC && !short)] <|> bufAt with
  | some o => (s, badAt o)
  | none =>
    let r := s.deliver buf body (packLe [(4, min (bufRoom buf) body.length), (4, 0)])
    (r.1, r.2)

end Sys2Proof.Machine
end

