-- ==== Sys2Proof/Machine/Apply.lean ====
section
/-!
DEFINITION. A configuration takes effect: what each family does when its records change, at a commit's effect tick and at boot
(R27, R75 to R78, R108, R109, R113, R117, R126, R146, R149, R160, R178, R192, R199, R200, R296, R348, R385, R400, R448, R460).
-/
namespace Sys2Proof.Machine

/-- A change of configuration: the records before, the keys that changed, and the start of the tick at which it takes effect. -/
structure Change where
  old : List Rec
  keys : List (Nat × Nat)
  at_ : Fine

/-- The objects of a type that changed. -/
def Change.objs (c : Change) (rtype : Nat) : List Nat := (c.keys.filter fun k => k.1 == rtype).map (·.2)

/-! ### Streams and acquisition -/

/-- Streams whose records, or whose channels' records, changed start anew; what a deleted record held goes (R126, R137). -/
def State.applyStreams (c : Change) (s : State) : State :=
  let chans := c.objs 0x302
  let of_ (rs : List Rec) (ch : Nat) : List Nat := ((recIn rs 0x302 ch).map (·.u16 0)).toList
  let ns := (c.objs 0x301 ++ chans.flatMap fun ch => of_ c.old ch ++ of_ s.cfg ch).eraseDups
  let s := ns.foldl (fun s n =>
    if (s.rec? 0x301 n).isNone then { s with sv := { s.sv with streams := s.sv.streams.erase n } }
    else if (recIn c.old 0x301 n).isNone then s.modStream n fun _ => { } else s.streamChanged n) s
  (chans.filter fun ch => (s.rec? 0x302 ch).isNone).foldl (fun s ch => { s with sv := { s.sv with rings := s.sv.rings.erase ch } }) s

/-- The kind of a channel's change: a filter change clears its chain, and the cause is told (R146, R149). -/
def chanChange (old new : Option Bytes) : Option (Bool × Nat) :=
  match new with
  | none => none
  | some b =>
    let part (x : Option Bytes) (o n : Nat) : Bytes := x.elim [] fun y => Bytes.slice y o n
    let moved (o n : Nat) : Bool := part old o n != Bytes.slice b o n
    let filter := moved 6 4
    if moved 0 2 then some (filter, 1) else if moved 2 4 then some (filter, 2) else if filter then some (true, 3) else none

/-- Links, channels and groups whose records changed (R140, R146, R149, R160). -/
def State.applyAcq (c : Change) (s : State) : State :=
  let s := (c.objs 0x401).foldl (fun s n => if recIn c.old 0x401 n == s.rec? 0x401 n then s else s.modLink n Link.drop) s
  let s := (c.objs 0x402).foldl (fun s n =>
    if (s.rec? 0x402 n).isNone then { s with acq := { s.acq with chans := s.acq.chans.erase n } }
    else match chanChange (recIn c.old 0x402 n) (s.rec? 0x402 n) with
      | some (clear, cause) => s.modChan n fun x => { x with pendSettle := some (c.at_, cause), clearAt := if clear then some c.at_ else x.clearAt }
      | none => s) s
  let member (rs : List Rec) (n : Nat) : Option Nat := (recIn rs 0x402 n).map (·.u8 0xA)
  let moved := (c.objs 0x402).flatMap fun n =>
    if member c.old n == member s.cfg n then [] else (member c.old n).toList ++ (member s.cfg n).toList
  ((c.objs 0x403 ++ moved.filter (· < 8)).eraseDups).foldl (fun s n => s.groupChanged n) s

/-! ### Instances (R78, R109, R178, R193, R258) -/

/-- An instance in its initial state, from tick `k` on. -/
def State.newInst (n : Nat) (k : Nat × Nat) (restarted : Bool) (s : State) : State :=
  let p : PlacedInst := s.place.insts.get { } n
  s.modInst n fun _ =>
    { start := if s.gaf.mode == .safeHold || s.gaf.mode == .boot then none else some k, restarted := if restarted then some k else none
      roles := { primary := p.primary, twin := p.twin, spare := p.spare }, settings := [(k, valsOf s.cfg n)], decided := tickBefore s.rate k }

/-- An instance that goes on takes the roles of the placement: the engines that are new to it start from tick `k`. -/
def State.moveInst (n : Nat) (k : Nat × Nat) (s : State) : State :=
  let p : PlacedInst := s.place.insts.get { } n
  let r : Roles := { primary := p.primary, twin := p.twin, spare := p.spare }
  let last := subTicks s.rate k 1
  s.modInst n fun x =>
    if x.roles == r && x.dead.isNone && !x.stand.any (·.perm) then x
    else { x with roles := r, stand := none, dead := none
                  done := [r.primary, r.twin].foldl (fun (d : Table (Nat × Nat)) e => if (d.find? e).isSome then d else d.put e last) x.done
                  start := if x.start.isNone && s.enginesRun then some k else x.start }

/-- New settings hold from tick `k`, unless a re-run of the instance is pending then (R78). -/
def State.giveSettings (n : Nat) (k : Nat × Nat) (s : State) : State :=
  let v := valsOf s.cfg n
  s.modInst n fun x =>
    if x.duels.any fun d => d.cause != 0 then { x with pendSettings := some v }
    else { x with settings := ((k, v) :: x.settings).take 8, pendSettings := none }

/-- Settings that waited for a re-run hold from tick `k` once none is pending (R78). -/
def State.takeSettings (k : Nat × Nat) (s : State) : State :=
  { s with eng := { s.eng with insts := s.eng.insts.map fun (x : Nat × Inst) =>
      match x.2.pendSettings with
      | some v =>
        if x.2.duels.any fun d => d.cause != 0 then x
        else (x.1, { x.2 with settings := ((k, v) :: x.2.settings).take 8, pendSettings := none })
      | none => x } }

/-- Instances take the records and the placement: deleted ones go, created and replaced ones start from their initial state, the
others go on. -/
def State.applyInsts (c : Change) (s : State) : State :=
  let k := tickOf s.rate c.at_
  let here (n : Nat) : Bool := (s.rec? 0x501 n).isSome && (s.place.insts.find? n).any fun p => p.device == s.cd
  let gone := s.eng.insts.keys.filter fun n => !here n
  let s := { s with eng := { s.eng with insts := gone.foldl (fun (t : Table Inst) n => t.erase n) s.eng.insts
                                        results := s.eng.results.filter fun r => (s.rec? 0x501 r.1).isSome } }
  (s.recs 0x501).foldl (fun s r =>
    let n := r.1
    if !here n then s
    else if c.keys.contains (0x501, n) || (s.eng.insts.find? n).isNone then
      let other := (recIn c.old 0x501 n).any fun b => b.u8 0 != r.2.u8 0
      let s := if other then { s with eng := { s.eng with results := s.eng.results.erase n } } else s
      s.newInst n k false
    else
      let s := s.moveInst n k
      if recIn c.old 0x502 n == s.rec? 0x502 n then s else s.giveSettings n k) s

/-! ### Trackers, Marver and time (R85, R91, R103, R117) -/

/-- Trackers and Marver events whose records changed. -/
def State.applyTime (c : Change) (s : State) : State :=
  let s := (c.objs 0x207).foldl (fun s n => if (s.rec? 0x207 n).isSome then s else { s with trk := s.trk.erase n }) s
  (c.objs 0x208).foldl (fun s n =>
    match s.rec? 0x208 n with
    | none => { s with mar := { s.mar with events := s.mar.events.erase n } }
    | some b =>
      let matrix := b.u8 2 == 3 || b.u8 2 == 4 || b.u8 2 == 6
      let e : MarEvent := { emode := BitVec.ofNat 8 (b.u8 1), from_ := if matrix then nextMatrix c.at_ else c.at_ }
      { s with mar := { s.mar with events := s.mar.events.put n e } }) s

/-- SOURCE, PTP_DOMAIN and PROFILE of a domain, and its UTC_OFFSET (R85, R103). -/
def domKey (rs : List Rec) (x : Dom) : List Nat × Nat :=
  (recIn rs 0x202 x.num).elim ([4], 37) fun b => ([b.u8 0, b.u8 1, b.u8 2], b.u16 0xA)

/-- A commit changes a domain or the selection of working time (R85, R91, R103). -/
def State.applyDomains (c : Change) (s : State) : State :=
  let s := [Dom.a, Dom.b].foldl (fun s x =>
    let o := domKey c.old x
    let n := domKey s.cfg x
    let s := if o.1 == n.1 then s else s.toFree x
    if o.2 == n.2 then s
    else (s.modDom x fun d => { d with leapAdj := 0 }).modStore fun st => { st with leapOwed := true }) s
  let pref (rs : List Rec) : Nat := (recIn rs 0x203 0).elim 0 (·.u8 0)
  let s := if pref c.old == pref s.cfg then s else { s with time := { s.time with owedSwitch := s.time.src != s.preferred } }
  s.switchIfDue.leapWrite

/-! ### Publication, logic, records, pair, cascade -/

/-- GOOSE control blocks and C37.118.2 streams whose records changed start anew (R199, R200, R202). -/
def State.applyPub (c : Change) (s : State) : State :=
  let cbs := (c.objs 0x5F0 ++ (c.objs 0x5F1).map (· / 128)).eraseDups
  let s := { s with eng := { s.eng with goose := cbs.foldl (fun (t : Table GooseCb) n => t.erase n) s.eng.goose } }
  (c.objs 0x5F2).foldl (fun s n =>
    match s.rec? 0x5F2 n with
    | none => { s with eng := { s.eng with c37 := s.eng.c37.erase n } }
    | some b =>
      s.modC37 n fun x => { x with on := if (recIn c.old 0x5F2 n).isNone then bitOf (b.u8 0xD) 3 else x.on, frames := [], changedAt := some c.at_ }) s

/-- Logic tasks and GOOSE subscriptions whose records changed (R348, R350). -/
def State.applyLogic (c : Change) (s : State) : State :=
  let prog (n : Nat) : Bool := (c.objs 0x901).contains n || (c.objs 0x902 ++ c.objs 0x903).any fun o => o / 65536 == n
  let was (n : Nat) : Bool := (recIn c.old 0x901 n).any fun b => b.u8 0 == 1
  let s := ((List.range 8).filter prog).foldl (fun s n => s.taskChanged n true (!was n)) s
  let subOf (rs : List Rec) (m : Nat) : List Nat := ((recIn rs 0x907 m).map (·.u16 0)).toList
  let subs := (c.objs 0x906 ++ (c.objs 0x907).flatMap fun m => subOf c.old m ++ subOf s.cfg m).eraseDups
  { s with log := { s.log with subs := subs.foldl (fun (t : Table Sub) n => t.erase n) s.log.subs } }

/-- A recorder starts with an empty ring; a record it was writing is closed as truncated. -/
def State.resetRecorder (n : Nat) (s : State) : State :=
  let s := match (s.recorder n).openRec with
    | some (num, _) => s.modRecord num fun r =>
        if r.state = 0 then { r with state := 2, copying := false, endAt := min r.endAt s.now } else r
    | none => s
  s.modRecorder n fun d => { d with ring := [], openRec := none }

/-- Recorders whose records changed. -/
def State.applyRecorders (c : Change) (s : State) : State := (c.objs 0xB03).foldl (fun s n => s.resetRecorder n) s

/-- Pairing begins or ends, and a ring is joined or left (R431, R438). -/
def State.applyPair (c : Change) (s : State) : State :=
  let s := if (recIn c.old 0xC01 0).isSome == s.paired then s else s.modPair fun p => { knownEpoch := p.knownEpoch, mirrorLock := p.mirrorLock }
  if recIn c.old 0xC02 0 == s.rec? 0xC02 0 then s else { s with cas := { lock := s.cas.lock } }

/-- The lattice rate that a configuration brings: at once where it is the rate in use, or else at tick 0 of the first second that
begins at or after its effect tick (R108, R110). -/
def State.applyRate (c : Change) (s : State) : State :=
  let named := (s.rec? 0x201 0).isSome
  let r := latticeOf s.cfg
  if r = s.rate then { s with time := { s.time with rate := if named then r else 0, rateNew := none } }
  else { s with time := { s.time with rateNew := some (r, ceilDiv c.at_ secF) } }

/-- What every family does when its records have changed. The records are in place already. -/
def State.applyChange (c : Change) (s : State) : State :=
  let s := ((s.applyRate c).applyStreams c).applyAcq c
  let s := ((s.applyTime c).applyInsts c).applyPub c
  let s := ((s.applyLogic c).applyRecorders c).applyPair c
  ((s.netApply c.old).eventsApply c.old).retarget

/-! ### CONFIG_APPLY (R77, R435) -/

/-- Converter, valve fabric records: those of R77 that wait for a matrix cycle boundary. -/
def isMatrixRec (r : Rec) : Bool := within 7 8 (r.rtype / 256)

/-- The effect tick of a commit has begun. -/
def State.applyCommit (c : Commit) (t : Fine) (s : State) : State :=
  let old := s.cfg
  let rows := s.place.assigned
  let s := s.modGaf fun g =>
    { g with commit := none, committed := if c.cascade then c.features else g.committed
             txn := if g.txn.any fun x => c.txn == some x.id then none else g.txn.map fun (x : Txn) => { x with placed := none } }
  let s := { s with
      cfg := sortRecs ((c.recs.filter fun r => !isMatrixRec r) ++ old.filter isMatrixRec)
      conv := { s.conv with newRecs := some (nextMatrix t, c.recs.filter isMatrixRec) }
      cfgGen := c.gen, cfgValid := true, place := c.place, cas := { s.cas with written := none } }
  let ch : Change := { old, keys := c.changed, at_ := t }
  let s := ((s.applyChange ch).applyDomains ch).outputs
  let s := if rows == s.place.assigned then s else s.evPlacement 0xFFFF 3
  s.finishWaiting (fun o => o.wait == .commit) fun _ =>
    (.ok, 0, packLe [(4, c.gen.toNat), (4, 0), (8, t / nsF), (2, (tickOf s.rate t).2)])

/-- The master names the effect tick once every device that has not been lost has reported its marker: the first tick that starts
2 ticks or more later (R435). -/
def State.nameEffect (s : State) : State :=
  match s.gaf.commit with
  | some c =>
    let n := (s.rec? 0xC02 0).elim 1 (·.u8 0)
    let others := (List.range n).filter fun d => d != s.cd
    let told (d : Nat) : Bool :=
      let x : CasDev := s.cas.devs.get { } d
      x.lost || x.last.any fun f => f.written == some c.gen || f.gen == c.gen
    if !c.master || c.effect.isSome || c.marker.isNone || !others.all told then s
    else
      let k := addTicks s.rate (nextTick s.rate s.tick) 2
      let s := s.modGaf fun g => { g with commit := some { c with effect := some (tickStart s.rate k) } }
      others.foldl (fun s d => s.emit (.casConfig d (.effect c.gen k))) s
  | none => s

/-- A commit whose effect tick has begun applies; so does a calibration bank. -/
def State.configApply (s : State) : State :=
  if s.part.inReset then s
  else
    let s := s.nameEffect
    let s := match s.gaf.commit with
      | some c =>
        match c.effect with
        | some t => if c.marker.isSome && t ≤ s.now then s.keepSync (State.applyCommit c t) else s
        | none => s
      | none => s
    s.calApply

end Sys2Proof.Machine
end

