-- ==== Sys2Proof/Machine/Boot.lean ====
section
/-!
DEFINITION. Resets, the boot of the ROM and of the firmware, and the reset of the PCIe function (R33, R40, R447 to R453, R458, R460,
R462, R477, R478).
-/
namespace Sys2Proof.Machine

/-! ### Resets (R40, R447, R449, R478) -/

/-- What the store keeps through every reset: the flash and the OTP. -/
def Store.nonvolatile (st : Store) : Store :=
  { slotA := st.slotA, slotB := st.slotB, active := st.active, trial := st.trial, activateReset := st.activateReset, secVer := st.secVer
    otpSec := st.otpSec, cfg0 := st.cfg0, cfg1 := st.cfg1, cal0 := st.cal0, cal1 := st.cal1 }

/-- A reset begins: `por` for those that act as PORST_N. Everything goes but the flash, the OTP, the levels of the balls and what lies
outside the device; but for a reset that acts as PORST_N, the latched straps and the VDD_AUX domain stay too. -/
def State.enterReset (por : Bool) (s : State) : State :=
  let por := por || s.part.porLow
  let p := s.part
  { part := { p with straps := if por then { } else p.straps, inReset := true, porLow := por, pcieUp := false, bootStep := 0, trigAt := [0, 0, 0, 0] }
    pair := { knownEpoch := if por then 0 else s.pair.knownEpoch }
    pwr := { s.pwr with
      rails := if por then s.pwr.rails.map fun r => { level := r.level, min := r.level } else s.pwr.rails
      stage := 0, holders := [], target := 0, below := none }
    valve := { ball := s.valve.ball }
    rec_ := { ddr := s.rec_.ddr, ddrMb := s.rec_.ddrMb }
    store := s.store.nonvolatile
    lehr := { eraseCounts := s.lehr.eraseCounts }
    hostMem := s.hostMem, emitted := s.emitted, free := s.free, pending := s.pending }

/-- A reset that ACTIVATE did not cause (R458). -/
def State.otherReset (por : Bool) (s : State) : State := (s.modStore fun st => { st with activateReset := false }).enterReset por

/-- PORST_N is low for a time in ns: a pulse shorter than 1 µs is ignored (R478). -/
def State.porst (lowNs : Nat) (s : State) : State := if lowNs < 1000 then s else s.otherReset true

/-- SYSRST_N is low; PORST_N governs while it is low too. -/
def State.sysrst (lowNs : Nat) (s : State) : State :=
  if lowNs < 1000 then s
  else
    let s := { s with part := { s.part with sysLow := true } }
    if s.part.porLow then s else s.otherReset false

/-- The rails ask for the internal reset (R447). -/
def State.railsFail (s : State) : Bool :=
  let level (i : Nat) : Nat := (s.pwr.rails[i]?).elim 0 (·.level)
  decide (level 6 < 2970) || decide (level 0 < 630) || decide (level 1 < 714)

/-- The internal power-on reset. -/
def State.internalPor (s : State) : State :=
  if s.railsFail then (s.otherReset true).modPwr fun p => { p with internalReset := true } else s

/-- The reset of a MODE_SET BOOT or of ACTIVATE begins (R66, R457). -/
def State.bootReset (s : State) : State :=
  if !s.part.inReset && s.gaf.bootAt.any fun t => t ≤ s.now then s.enterReset false else s

/-! ### The ROM (R452, R453, R458) -/

/-- The ROM enters SAFE_HOLD and serves the mailbox itself (R453). -/
def State.romSafeHold (c : SafeCause) (s : State) : State :=
  { s with gaf := { s.gaf with mode := .safeHold, romHold := true, fwReady := true, fwVer := 0, safeCause := c, committed := 0
                               since := s.nowNs }
           part := { s.part with bootStep := 3 } }

/-- A reset ends (R452): the straps are latched where it acted as PORST_N, and the ROM starts, unless TEST_EN is latched. After
SYSRST_N and an internal reset the rails must be up. A trial image that was not confirmed is given up (R458). -/
def State.resetRelease (selfTestOk : Bool) (s : State) : State :=
  if !s.part.inReset then s
  else if s.pwr.internalReset || (!s.part.porLow && !s.railsUp) then { s with part := { s.part with sysLow := false } }
  else
    let p := s.part
    let straps := if p.porLow then p.balls else p.straps
    let s := { s with part := { p with straps, porLow := false, sysLow := false, inReset := straps.testEn } }
    if straps.testEn then s
    else
      let s := { s with part := { s.part with bootStep := 1, selfTestOk, pcieUp := !p.perstLow } }
      let s := s.modStore fun st =>
        if st.trial && !st.activateReset then { st with trial := false, active := !st.active, activateReset := false }
        else { st with activateReset := false }
      if selfTestOk then s else s.romSafeHold .selfTest

/-! ### The firmware (R64, R451, R456, R462) -/

/-- EV_CAL_ROLLBACK for a slot that holds an interrupted write (R392, R462). -/
def State.rollback {α : Type} (kind : Nat) (a b : Slot α) (s : State) : State :=
  let used := bestSlot a b
  let gen := match used with
    | some true => (b.gen?).elim 0 (·.toNat)
    | some false => (a.gen?).elim 0 (·.toNat)
    | none => 0
  [a, b].foldl (fun s x => match x with
    | .interrupted g => s.post (mkEv 0x07 kind s.now [(1, used.elim 0xFF b2n), (3, 0), (4, g), (4, gen)])
    | _ => s) s

/-- The configuration banks are left alone under BOOT_SRC 0b01 (R451). -/
def State.ignoresCfg (s : State) : Bool := s.part.straps.bootSrc == 1

/-- The bank of the configuration in use. -/
def State.cfgBank (s : State) : Option CfgBank :=
  match s.store.cfgUse with
  | some true => s.store.cfg1.body?
  | some false => s.store.cfg0.body?
  | none => none

/-- The banks are selected (R462), the calibration items are in use, and the committed features are restored (R64, R415). -/
def State.selectBanks (s : State) : State :=
  let st := s.store
  let s := if s.ignoresCfg then s else s.rollback 0 st.cfg0 st.cfg1
  let s := s.rollback 1 st.cal0 st.cal1
  let cal := bestSlot st.cal0 st.cal1
  let slot := if cal == some true then st.cal1 else st.cal0
  let s := s.modStore fun st =>
    { st with cfgUse := if s.ignoresCfg then none else bestSlot st.cfg0 st.cfg1, calUse := cal
              items := if cal.isSome then slot.body?.getD [] else [], calGen := if cal.isSome then slot.gen?.getD 0 else 0 }
  let s := [Dom.a, Dom.b].foldl (fun s d => s.modDom d fun x => { x with leapAdj := leapOf s.store.items d }) s
  s.modGaf fun g => { g with committed := (s.cfgBank).elim 0 (·.features) ||| (if s.isArbiter then BitVec.ofNat 128 (2 ^ 14) else 0) }

/-- The ROM has looked at the images; `okA` and `okB` say that key, signature and hashes of each verify. The first valid one runs. -/
def State.loadFirmware (okA okB : Bool) (s : State) : State :=
  if s.part.inReset || s.part.bootStep != 1 then s
  else
    let valid (b : Bool) : Bool := imageValid (s.store.image b) s.store.otpSec (if b then okB else okA)
    let first := s.part.straps.bootSrc == 2 || s.store.active
    match [first, !first].find? valid with
    | none => s.romSafeHold .noImage
    | some b =>
      let s := s.modGaf fun g => { g with fwReady := true, image := b, fwVer := BitVec.ofNat 32 (imageWord (s.store.image b) 8) }
      ({ s with part := { s.part with bootStep := 2 } }).selectBanks

/-! ### Boot completes (R33, R460) -/

/-- The records of the bank in use apply, and its placement where it passes the check of R460. -/
def State.bootApply (s : State) : State :=
  match s.cfgBank with
  | none => s
  | some b =>
    let gen := (if s.store.cfgUse == some true then s.store.cfg1.gen? else s.store.cfg0.gen?).getD 0
    let s := { s with cfg := b.recs, cfgGen := gen, cfgValid := true }
    let s := { s with place := if storedOk (s.placeInput b.recs) b.place then b.place else { } }
    let s := s.applyChange { old := [], keys := b.recs.map fun r => (r.rtype, r.obj), at_ := s.now }
    let rate := if (s.rec? 0x201 0).isSome then latticeOf s.cfg else 0
    { s with time := { s.time with rate, rateNew := none, tick := some (tickOf (if rate = 0 then 4800 else rate) s.now)
                                   owedSwitch := s.time.src != s.preferred }
             acq := { s.acq with chans := [] }
             eng := { s.eng with c37 := s.eng.c37.map fun (x : Nat × C37) => (x.1, { x.2 with changedAt := none }) } }

/-- Boot completes (R33): with AUTOSTART and a proven placement the device goes to SERVICE, or waits for its role where it is paired;
otherwise it goes to COMMISSION. -/
def State.bootDone (s : State) : State :=
  if s.part.inReset || s.part.bootStep != 2 then s
  else
    let s := s.bootApply
    let s := { s with part := { s.part with bootStep := 3 } }
    let auto := bitOf (s.fld 0x101 0 0 (·.u32 0)) 0 && s.cfgValid && s.place.proven
    if !auto then s.pendMode .commission .boot
    else if s.paired then s
    else s.pendMode .service .boot

/-! ### The PCIe function (R450, R478) -/

/-- The PCIe function is reset: operations of mailboxes that are not assigned to MOE go without completions. A mode change accepted
stands, a reset announced still comes, and a bank whose marker is written still applies. -/
def State.pcieReset (s : State) : State :=
  let pcie (n : Nat) : Bool := !s.isMoe n
  let gone := s.gaf.ops.filter fun o => pcie o.h.mb.val
  let boots := (gone.any fun o => o.outcome.any (·.boot)) || s.mbx.any fun m => pcie m.1 && m.2.held.any (·.boot)
  let settled (o : Op) : Bool := match o.wait with
    | .mode => true
    | .commit => s.gaf.commit.any fun c => c.marker.isSome
    | .cal => s.store.calCommit.any fun c => c.marker.isSome
    | _ => false
  let s := (gone.filter fun o => o.outcome.isNone && !settled o).foldl (fun s o => s.dropWait o) s
  let s := s.modGaf fun g =>
    { g with ops := g.ops.filter fun o => !pcie o.h.mb.val, irqStatus := 0, session := false
             txn := if g.txn.any fun t => pcie t.mb.val then none else g.txn
             bootAt := if boots then some (s.now + 100000 * nsF) else g.bootAt }
  let s := { s with mbx := s.mbx.map fun (m : Nat × Mailbox) => if pcie m.1 then (m.1, { half := m.2.half, ring := m.2.ring, kept := m.2.kept }) else m }
  s.settle

/-- PCIE_FUNCTION_RESET. -/
def State.pcieEvent (e : PcieEvent) (s : State) : State :=
  let part (f : Part → Part) (s : State) : State := { s with part := f s.part }
  let fn (s : State) : State := if s.part.inReset then s else s.pcieReset
  match e with
  | .hotReset | .flr => fn s
  | .linkDown => fn (part (fun p => { p with pcieUp := false }) s)
  | .perstLow n => if n < 1000 then s else fn (part (fun p => { p with perstLow := true, pcieUp := false }) s)
  | .perstHigh => part (fun p => { p with perstLow := false }) s

/-! ### Rows -/

/-- PORST_N (R449, R478). -/
def execPorstN (dt : Nat) (lowNs : Nat) (s : State) : Host.Outcome State Fault Refusal := goOn dt (State.porst lowNs) s
/-- SYSRST_N (R449, R478). -/
def execSysrstN (dt : Nat) (lowNs : Nat) (s : State) : Host.Outcome State Fault Refusal := goOn dt (State.sysrst lowNs) s
/-- INTERNAL_POR (R447). -/
def execInternalPor (dt : Nat) (s : State) : Host.Outcome State Fault Refusal := goOn dt State.internalPor s
/-- BOOT_RESET_TIMER (R66, R457). -/
def execBootResetTimer (dt : Nat) (s : State) : Host.Outcome State Fault Refusal := goOn dt State.bootReset s
/-- RESET_RELEASE (R452). -/
def execResetRelease (dt : Nat) (selfTestOk : Bool) (s : State) : Host.Outcome State Fault Refusal :=
  goOn dt (State.resetRelease selfTestOk) s
/-- FW_LOADED (R452, R453). -/
def execFwLoaded (dt : Nat) (okA okB : Bool) (s : State) : Host.Outcome State Fault Refusal := goOn dt (State.loadFirmware okA okB) s
/-- BOOT_COMPLETE (R33, R460). -/
def execBootComplete (dt : Nat) (s : State) : Host.Outcome State Fault Refusal := goOn dt State.bootDone s
/-- PCIE_FUNCTION_RESET (R450, R478). -/
def execPcieFunctionReset (dt : Nat) (ev : PcieEvent) (s : State) : Host.Outcome State Fault Refusal := goOn dt (State.pcieEvent ev) s

end Sys2Proof.Machine
end

