-- ==== Sys2Proof/Machine/Cascade.lean ====
section
/-!
DEFINITION. The cascade ring: STATUS and CONFIG frames, and the loss of a device (R433 to R438).
-/
namespace Sys2Proof.Machine

/-- Changes the cascade. -/
def State.modCas (f : Cascade → Cascade) (s : State) : State := { s with cas := f s.cas }

/-- The device takes part in a ring. -/
def State.casRuns (s : State) : Bool := s.cascaded && !s.part.inReset && s.fwRuns

/-- N_DEV (R438). -/
def State.nDev (s : State) : Nat := s.fld 0xC02 0 1 (·.u8 0)

/-- The ring is formed: STATUS has come from each of the N_DEV devices, of equal builds, and from none of a higher number. -/
def State.ringFormed (s : State) : Bool :=
  (List.range 4).all fun d =>
    if d = s.cd then true
    else
      let x : CasDev := s.cas.devs.get { } d
      let there := x.last.isSome && !x.lost
      if d < s.nDev then there && x.last.any fun f => f.fwVer == s.gaf.fwVer else !there

/-- The STATUS frames of a fast cycle, one each way round the ring (R434). -/
def State.casStatus (s : State) : State :=
  if !s.casRuns then s
  else
    let f : CasStatus := { src := s.part.straps.cascadeId.toFin, tSent := s.now, rate := s.rate, timeSync := s.timeSync
                           configDigest := s.configDigest, gen := s.cfgGen, fwVer := s.gaf.fwVer, written := s.cas.written
                           retired := BitVec.ofNat 64 s.retiredMask }
    (s.emit (.casStatus { f with clockwise := true })).emit (.casStatus { f with clockwise := false })

/-- A STATUS frame is received: it is noted, passed on, and a commit that waited for the marker it reports goes on. -/
def State.casStatusRx (f : CasStatus) (s : State) : State :=
  if !s.casRuns || f.src.val == s.cd then s
  else
    let x : CasDev := s.cas.devs.get { } f.src.val
    let offset : Int := ((f.tSent + (f.hops.val + 1) * Config.spanDelay f.src.val : Nat) : Int) - s.now
    let news := x.last.all fun o => decide (o.tSent ≤ f.tSent)
    let y := { x with last := if news then some f else x.last, seenAt := s.now, offset := if news then offset else x.offset, lost := false }
    let s := s.modCas fun c => { c with devs := c.devs.put f.src.val y }
    let s := s.modCas fun c => { c with formed := s.ringFormed }
    let s := if f.hops.val < 2 then s.emit (.casStatus { f with hops := BitVec.toFin (BitVec.ofNat 2 (f.hops.val + 1)) }) else s
    s.nameEffect

/-- STATUS of a device is missing on both paths for 3 fast cycles: it is lost (R437). -/
def State.casLost (d : Nat) (s : State) : State :=
  let x : CasDev := s.cas.devs.get { } d
  if !s.casRuns || x.last.isNone || x.lost || s.now < x.seenAt + 30000 * nsF then s
  else
    let s := s.modCas fun c => { c with devs := c.devs.put d { x with lost := true } }
    (s.modCas fun c => { c with formed := s.ringFormed }).nameEffect

/-- A bank from the master is written as soon as PWR_WARN lets it (R435, R463). -/
def State.casWrite (s : State) : State :=
  match s.cas.held with
  | some c => if s.pwr.warn || s.part.inReset then s else (s.modCas fun x => { x with held := none, written := none }).startBank c
  | none => s

/-- A CONFIG frame of the master is received: the bank for this device, or the effect tick of one (R435). -/
def State.casConfigRx (f : CasConfig) (s : State) : State :=
  if !s.casRuns || s.part.straps.masterEn then s
  else match f with
    | .bank gen recs features place changed =>
      State.casWrite (s.modCas fun x => { x with held := some { recs, place, gen, features, changed, txn := none, cascade := true } })
    | .effect gen k =>
      s.modGaf fun g => { g with commit := g.commit.map fun c => if c.cascade && c.gen == gen then { c with effect := some (tickStart s.rate k) } else c }

/-- CASCADE_STATUS_RX (R434 to R436). -/
def execCascadeStatusRx (dt : Nat) (f : CasStatus) (s : State) : Host.Outcome State Fault Refusal :=
  goOn dt (State.overRing (State.casStatusRx f)) s

/-- CASCADE_CONFIG_RX (R435). -/
def execCascadeConfigRx (dt : Nat) (f : CasConfig) (s : State) : Host.Outcome State Fault Refusal :=
  goOn dt (State.overRing (State.casConfigRx f)) s

/-- CASCADE_DEVICE_LOST (R437). -/
def execCascadeDeviceLost (dt : Nat) (dev : Fin 4) (s : State) : Host.Outcome State Fault Refusal := goOn dt (State.casLost dev.val) s

/-- PWR_WARN after its filter; what a write to flash waits for is made when it deasserts (R443, R463). -/
def execPwrWarn (dt : Nat) (level : Bool) (s : State) : Host.Outcome State Fault Refusal :=
  goOn dt (fun s =>
    let s := s.powerWarn level
    if s.part.inReset then s else s.leapWrite.casWrite) s

end Sys2Proof.Machine
end

