-- ==== Sys2Proof/Machine/Registers.lean ====
section
/-!
DEFINITION. BAR0: what every register and mailbox byte reads, and the writes that act (R41 to R57, R106).
-/
namespace Sys2Proof.Machine

/-- BAR0 is reachable: the part is out of reset and PCIE_PERST_N is high (R450, R452). -/
def State.barUp (s : State) : Bool := !s.part.inReset && !s.part.perstLow

/-- A BAR0 access acts only where BAR0 is reachable, and shows that the link is up. -/
def State.barAccess (f : State → State) (s : State) : State :=
  if s.barUp then f { s with part := { s.part with pcieUp := true } } else s

/-! ### Reads -/

/-- DEV_ID (R43). -/
def State.devId (s : State) : Nat := 0x00640000 + (if s.isL then 0x0200 else 0x0100) + 0xB0

/-- DEV_STRAPS (R43). -/
def State.devStraps (s : State) : Nat :=
  let p := s.part.straps
  p.redunRole.toNat * 32 + b2n p.masterEn * 16 + p.cascadeId.toNat * 4 + p.bootSrc.toNat

/-- TMU_STATUS (R106). -/
def State.tmuStatus (s : State) : Nat :=
  let st (d : Domain) : Nat := match d.state with
    | .free => 0
    | .acquiring => 1
    | .locked => 2
    | .holdover => 3
  st s.time.domA + 4 * st s.time.domB + 64 * s.time.src.num + 256 * b2n s.timeSync + 512 * b2n s.offsetOver +
  4096 * b2n s.time.pps.valid + 8192 * b2n s.time.irig.valid + 16384 * b2n s.time.irig.reversed +
  32768 * b2n s.time.pps.reversed

/-- MBX_STATE of a mailbox (R46). -/
def State.mbxState (s : State) (n : Nat) : Nat :=
  b2n (s.mb n).busy + 4 * b2n (s.mb n).ringFull + 8 * b2n (s.isMoe n)

/-- The 64 bytes of a completion entry (R55). -/
def Completion.bytes (c : Completion) : Bytes :=
  packLe [(2, c.tag.toNat), (2, c.opcode), (2, c.result), (2, c.cflags), (4, c.detail), (2, c.data.length), (2, 0), (8, c.tDone)] ++
  c.data ++ zeros (40 - c.data.length)

/-- The three words of a latched T80 (R106). -/
def snapWord (t : Fine) (k : Nat) : Nat :=
  match k with
  | 0 => t / nsF
  | 1 => t / nsF / 2 ^ 32
  | 2 => t % nsF
  | _ => 0

/-- A doorbell block word (R46). -/
def State.doorbellRead (s : State) (n off : Nat) : Nat :=
  let m := s.mb n
  match off with
  | 0x04 => s.mbxState n
  | 0x08 => m.prod.toNat
  | 0x0C => m.cons.toNat
  | 0x10 => m.badbell * 65536 + m.dropwr
  | 0x14 => s.inFlight n
  | _ => 0

/-- A time unit word (R106). -/
def State.tmuRead (s : State) (a : Nat) : Nat :=
  let t := s.time
  let meas (d : Domain) (k : Nat) : Nat := match k with
    | 0 => d.measSeq.toNat
    | 2 => (d.measOfs % 2 ^ 32).toNat
    | 3 => (d.measOfs / 2 ^ 32 % 2 ^ 32).toNat
    | 4 => d.measDelay.toNat
    | 5 => d.measPort.val
    | 6 => d.measTrx.toNat
    | 7 => d.measTrx.toNat / 2 ^ 32
    | _ => 0
  match a with
  | 0x00 => s.tmuStatus
  | 0x10 => snapWord t.snap.w 0
  | 0x14 => snapWord t.snap.w 1
  | 0x18 => snapWord t.snap.w 2
  | 0x20 => snapWord t.snap.a 0
  | 0x24 => snapWord t.snap.a 1
  | 0x28 => snapWord t.snap.a 2
  | 0x30 => snapWord t.snap.b 0
  | 0x34 => snapWord t.snap.b 1
  | 0x38 => snapWord t.snap.b 2
  | 0x40 => t.domA.inc
  | 0x44 => t.domA.inc / 2 ^ 32
  | 0x48 => t.domB.inc
  | 0x4C => t.domB.inc / 2 ^ 32
  | 0x50 => (t.offset % 2 ^ 32).toNat
  | 0x54 => (t.offset / 2 ^ 32 % 2 ^ 32).toNat
  | 0x60 => t.tsqOvf.toNat
  | _ =>
    if within 0x80 0xBF a && a % 4 == 0 then
      let n := (a - 0x80) / 4
      let q := t.tsq.get { } n
      if n < numPorts s.isL then q.drops * 65536 + q.items.length else 0
    else if within 0x100 0x11F a && a % 4 == 0 then meas t.domA ((a - 0x100) / 4)
    else if within 0x120 0x13F a && a % 4 == 0 then meas t.domB ((a - 0x120) / 4)
    else 0

/-- The 32-bit word that a host read of BAR0 returns. Reads that clear are rows of their own. -/
def State.bar0Read (s : State) (a : Nat) : U32 :=
  BitVec.ofNat 32 <|
    if a < 0x1000 then
      match a with
      | 0x00 => s.devId
      | 0x04 => s.gaf.fwVer.toNat
      | 0x08 => s.devMode
      | 0x0C => s.devStatus
      | 0x10 => s.devStraps
      | 0x14 => s.gaf.alive.toNat
      | 0x18 => s.part.serial.toNat
      | 0x1C => s.part.serial.toNat / 2 ^ 32
      | 0x20 => s.gaf.irqStatus.toNat
      | 0x24 => s.gaf.irqMask.toNat
      | _ => 0
    else if a < 0x1400 then s.doorbellRead ((a - 0x1000) / 0x40) (a % 0x40)
    else if within 0x4000 0x4FFF a then s.tmuRead (a - 0x4000)
    else if within 0x8000 0x811F a then leNat (Mem.readBytes 0 s.gaf.msix (a - 0x8000) 4)
    else if within 0x10000 0x2FFFF a then
      let n := (a - 0x10000) / 0x2000
      let o := a % 0x2000
      if o < 0x1000 then leNat (Mem.readBytes 0 (s.mb n).half o 4)
      else match (s.mb n).ring.find? ((o - 0x1000) / 64) with
        | none => 0
        | some c => Bytes.u32 c.bytes (o % 64)
    else 0

/-! ### Writes and reads that act -/

/-- A write of a batch length to a doorbell (R46, R47). -/
def State.doorbell (n v : Nat) (s : State) : State :=
  let m := s.mb n
  let bytes := v % 8192
  if s.isMoe n || m.busy || bytes < 16 || 4096 < bytes || bytes % 16 ≠ 0 then
    s.setMb n { m with badbell := satAdd 16 m.badbell 1 }
  else s.setMb n { m with busy := true, bytes }

/-- A PCIe write to a command half (R46, R47). -/
def State.halfWrite (n off : Nat) (data : Bytes) (s : State) : State :=
  let m := s.mb n
  if s.isMoe n || m.busy then s.setMb n { m with dropwr := satAdd 16 m.dropwr 1 }
  else s.setMb n { m with half := Mem.writeBytes 0 m.half off (data.take (4096 - off)) }

/-- Writes held completions while the ring has room (R57). -/
def State.writeHeld (n : Nat) : List Completion → State → State
  | [], s => s.setMb n { s.mb n with held := [] }
  | c :: cs, s => if (s.mb n).full then s.setMb n { s.mb n with held := c :: cs } else (s.writeEntry n c).writeHeld n cs

/-- A write of CONS (R56, R57). -/
def State.consWrite (n : Nat) (v : U32) (s : State) : State :=
  let m := s.mb n
  if (m.prod - v).toNat ≤ 64 then
    let s := s.setMb n { m with cons := v }
    s.writeHeld n m.held
  else s

/-- A read of MBX_DROPCNT, which clears it (R46). -/
def State.dropcntRead (n : Nat) (s : State) : State :=
  let m := s.mb n
  let s := { s with gaf := { s.gaf with lastRead := BitVec.ofNat 32 (s.doorbellRead n 0x10) } }
  s.setMb n { m with badbell := 0, dropwr := 0 }

/-- A write of DEV_IRQ_STATUS clears the bits written as 1 (R43). -/
def State.irqClear (v : U32) (s : State) : State :=
  { s with gaf := { s.gaf with irqStatus := s.gaf.irqStatus &&& ~~~(v.setWidth 18) } }

/-- A write of DEV_IRQ_MASK raises the vector of each pending bit that it unmasks (R44). -/
def State.irqMaskWrite (v : U32) (s : State) : State :=
  let old := s.gaf.irqMask
  let new := v.setWidth 18
  let s := { s with gaf := { s.gaf with irqMask := new } }
  (List.range 18).foldl (fun s i =>
    if old.getLsbD i && !new.getLsbD i && s.gaf.irqStatus.getLsbD i then s.emit (.msix i) else s) s

/-- A write of TMU_SNAP latches the three times when LATCH is 1 (R106). -/
def State.latch (v : U32) (s : State) : State :=
  if v.getLsbD 0 then
    { s with time := { s.time with snap := { w := s.now, a := s.time.domA.t80, b := s.time.domB.t80 } } }
  else s

/-- A write of TMU_TSQ_OVF clears the bits written as 1 (R97). -/
def State.tsqOvfClear (v : U32) (s : State) : State :=
  { s with time := { s.time with tsqOvf := s.time.tsqOvf &&& ~~~(v.setWidth 16) } }

/-- A read of TMU_TSQ_STAT_n, which clears DROPS (R106). -/
def State.tsqStatRead (n : Nat) (s : State) : State :=
  let s := { s with gaf := { s.gaf with lastRead := BitVec.ofNat 32 (s.tmuRead (0x80 + 4 * n)) } }
  if n < numPorts s.isL then
    { s with time := { s.time with tsq := s.time.tsq.put n { s.time.tsq.get { } n with drops := 0 } } }
  else s

/-- A write to any other BAR0 address is ignored (R42); the MSI-X table keeps what is written to it. -/
def State.writeOther (a width : Nat) (v : U64) (s : State) : State :=
  if within 0x8000 0x811F a && a % (width / 8) == 0 && (width == 32 || width == 64) then
    { s with gaf := { s.gaf with msix := Mem.writeBytes 0 s.gaf.msix (a - 0x8000) (leBytes (width / 8) v.toNat) } }
  else s

/-! ### Meanings -/

/-- MBX_DOORBELL (R47). -/
def execMbxDoorbell (dt : Nat) (mb : Fin 16) (value : U32) (s : State) : Host.Outcome State Fault Refusal :=
  goOn dt (State.barAccess (State.doorbell mb.val value.toNat)) s

/-- COMMAND_HALF_WRITE (R47). -/
def execCommandHalfWrite (dt : Nat) (mb : Fin 16) (offset : Fin 4096) (data : Bytes) (s : State) :
    Host.Outcome State Fault Refusal :=
  goOn dt (State.barAccess (State.halfWrite mb.val offset.val data)) s

/-- MBX_DROPCNT, a read (R46). -/
def execMbxDropcnt (dt : Nat) (mb : Fin 16) (s : State) : Host.Outcome State Fault Refusal :=
  goOn dt (State.barAccess (State.dropcntRead mb.val)) s

/-- DEV_IRQ_STATUS (R43). -/
def execDevIrqStatus (dt : Nat) (value : U32) (s : State) : Host.Outcome State Fault Refusal :=
  goOn dt (State.barAccess (State.irqClear value)) s

/-- DEV_IRQ_MASK (R44). -/
def execDevIrqMask (dt : Nat) (value : U32) (s : State) : Host.Outcome State Fault Refusal :=
  goOn dt (State.barAccess (State.irqMaskWrite value)) s

/-- TMU_SNAP (R106). -/
def execTmuSnap (dt : Nat) (value : U32) (s : State) : Host.Outcome State Fault Refusal :=
  goOn dt (State.barAccess (State.latch value)) s

/-- TMU_TSQ_OVF (R97). -/
def execTmuTsqOvf (dt : Nat) (value : U32) (s : State) : Host.Outcome State Fault Refusal :=
  goOn dt (State.barAccess (State.tsqOvfClear value)) s

/-- TMU_TSQ_STAT_n, a read (R106). -/
def execTmuTsqStat (dt : Nat) (port : Fin 16) (s : State) : Host.Outcome State Fault Refusal :=
  goOn dt (State.barAccess (State.tsqStatRead port.val)) s

/-- REGISTER_WRITE_OTHER (R42). -/
def execRegisterWriteOther (dt : Nat) (addr : BitVec 18) (width : Nat) (value : U64) (s : State) :
    Host.Outcome State Fault Refusal :=
  goOn dt (State.barAccess (State.writeOther addr.toNat width value)) s

end Sys2Proof.Machine
end

