-- ==== Sys2Proof/Machine/Gaffer.lean ====
section
/-!
DEFINITION. The command core of the Gaffer: reading commands from a batch, the checks of R59 in their order, the meaning of every
opcode, and the order in which commands start (R39, R46 to R60, R65, R69 to R71, R86, R87).
-/
namespace Sys2Proof.Machine

/-! ### Reading commands (R49 to R51, R65) -/

/-- A buffer descriptor at an offset of a payload. -/
def bufDescAt (p : Bytes) (off : Nat) : BufDesc :=
  { addr := BitVec.ofNat 64 (p.u64 off), len := BitVec.ofNat 32 (p.u32 (off + 8)), kind := BitVec.ofNat 16 (p.u16 (off + 0xC))
    rsv := BitVec.ofNat 16 (p.u16 (off + 0xE)) }

/-- Fields of a payload by width. -/
def f8 (p : Bytes) (off : Nat) : Byte := BitVec.ofNat 8 (p.u8 off)
@[inherit_doc f8] def f16 (p : Bytes) (off : Nat) : U16 := BitVec.ofNat 16 (p.u16 off)
@[inherit_doc f8] def f32 (p : Bytes) (off : Nat) : U32 := BitVec.ofNat 32 (p.u32 off)
@[inherit_doc f8] def f64 (p : Bytes) (off : Nat) : U64 := BitVec.ofNat 64 (p.u64 off)
@[inherit_doc f8] def f24 (p : Bytes) (off : Nat) : BitVec 24 := BitVec.ofNat 24 (Bytes.le p off 3)

/-- The opcodes of the staging commands and of CONFIG_RECORD (R65). -/
def stagingOps : List Nat := [0x11, 0x20, 0x21, 0x22, 0x40, 0x41, 0x50, 0x60, 0x62, 0x70, 0x80, 0x90, 0x91, 0xA0, 0xC0]

/-- The payload length of an opcode that has one (R65). -/
def fixedLen : Nat → Option Nat
  | 0x01 => some 24
  | 0x02 => some 16
  | 0x03 => some 4
  | 0x04 => some 0
  | 0x10 | 0x12 | 0x13 | 0x30 | 0x71 => some 8
  | 0x23 => some 20
  | 0x31 | 0x52 | 0x61 | 0xA2 | 0xB0 | 0xB1 | 0xD1 | 0xE0 => some 24
  | 0x64 | 0xB2 => some 32
  | 0x72 | 0xA1 => some 16
  | 0x81 | 0x82 | 0xC1 => some 4
  | _ => none

/-- The payload of TRACE_CONFIGURE after its OP (R293). -/
def traceArgsAt (p : Bytes) : TraceArgs :=
  { nCh := f8 p 1, div := f16 p 2, pre := f32 p 4, trig := f8 p 8, trigArg := f8 p 9, rsv := f16 p 0xA, thresh := f32 p 0xC
    nodes := (List.range ((p.length - 16) / 4)).map fun i => f32 p (16 + 4 * i) }

/-- The payload of CONV_SETPOINT without its KIND (R286). -/
def setPointAt (p : Bytes) : SetPointArgs :=
  { conv := f8 p 0, qty := f8 p 2, apply := f8 p 3, value := f32 p 4, event := f8 p 8, rsv := f24 p 9, slope := f32 p 0xC
    tApply := f64 p 0x10 }

/-- A command of a fixed length (R65). -/
def parseFixed (op : Nat) (p : Bytes) : HostCmd :=
  match op with
  | 0x01 => .hello (BitVec.ofNat 128 (Bytes.le p 0 16)) (f16 p 0x10) (f16 p 0x12) (f32 p 0x14)
  | 0x02 => .featuresCommit (BitVec.ofNat 128 (Bytes.le p 0 16))
  | 0x03 => .modeSet (f8 p 0) (f8 p 1) (f16 p 2)
  | 0x04 => .statusGet
  | 0x10 => .configBegin (f32 p 0) (f32 p 4)
  | 0x12 => .configCommit (f32 p 0) (f32 p 4)
  | 0x13 => .configAbort (f32 p 0) (f32 p 4)
  | 0x23 => .settingsRead (f16 p 0) (f8 p 2) (f8 p 3) (bufDescAt p 4)
  | 0x30 => .place (f32 p 0) (f32 p 4)
  | 0x31 => .placementGet (f8 p 0) (f8 p 1) (f16 p 2) (f16 p 4) (f16 p 6) (bufDescAt p 8)
  | 0x52 => .segmentRead (f16 p 0) (f16 p 2) (f32 p 4) (bufDescAt p 8)
  | 0x61 => .convSetpoint (f8 p 1) (setPointAt p)
  | 0x64 => .traceRead (f32 p 0) (f32 p 4) (f16 p 8) (f16 p 0xA) (f32 p 0xC) (bufDescAt p 0x10)
  | 0x71 => .valveSleep (f32 p 0) (f32 p 4)
  | 0x72 => .valveWake (f32 p 0) (f16 p 4) (f16 p 6) (f32 p 8) (f32 p 0xC)
  | 0x81 => .logicRun (f8 p 0) (f8 p 1) (f16 p 2)
  | 0x82 => .logicStop (f8 p 0) (f8 p 1) (f16 p 2)
  | 0xA1 => .timeIncrementWrite (f8 p 0) (BitVec.ofNat 56 (Bytes.le p 1 7)) (f64 p 8)
  | 0xA2 => .timeStep (f8 p 0) (f8 p 1) (BitVec.ofNat 48 (Bytes.le p 2 6)) (f64 p 8) (f16 p 0x10) (BitVec.ofNat 48 (Bytes.le p 0x12 6))
  | 0xB0 => .eventAck (f32 p 0) (f32 p 4) (bufDescAt p 8)
  | 0xB1 => .recordList (f32 p 0) (f8 p 4) (f8 p 5) (f16 p 6) (bufDescAt p 8)
  | 0xB2 => .recordRead (f32 p 0) (f8 p 4) (f8 p 5) (f16 p 6) (f64 p 8) (bufDescAt p 0x10)
  | 0xC1 => .pairRevert (f8 p 0) (f24 p 1)
  | 0xD1 => .calRead (f16 p 0) (f16 p 2) (f32 p 4) (bufDescAt p 8)
  | 0xE0 => .fwUpdate (f8 p 0) (f24 p 1) (f32 p 4) (bufDescAt p 8) []
  | _ => .unknown op

/-- A command by its opcode and payload. A payload too short to be read, or of another length than the fixed one, gives the length
that R494 reports. -/
def parseCmd (op : Nat) (p : Bytes) : HostCmd :=
  if stagingOps.contains op then
    if p.length < 20 then .badLength op 20
    else .staging op { txn := f32 p 0, rsv := f32 p 4, records := p.drop 8 }
  else if op = 0x51 then
    if p.length = 12 then .acqArm (f8 p 1) (f8 p 0) (f16 p 2) (f64 p 4) none
    else if p.length = 28 then .acqArm (f8 p 1) (f8 p 0) (f16 p 2) (f64 p 4) (some (bufDescAt p 0xC))
    else .badLength op 28
  else if op = 0x63 then
    if p.length < 16 then .badLength op 16 else .traceConfigure (f8 p 0) (traceArgsAt p)
  else if op = 0xD0 then
    if p.length < 8 then .badLength op 16 else .calWrite (f16 p 0) (f16 p 2) (f32 p 4) (p.drop 8)
  else match fixedLen op with
    | none => .unknown op
    | some n => if p.length = n then parseFixed op p else .badLength op n

/-- The length that a command should have had (R494, R465). -/
def HostCmd.lengthErr : HostCmd → Option Nat
  | .badLength _ n => some n
  | .staging _ e =>
    let n := 8 + e.records.length
    if n < 20 then some 20 else if 4080 < n then some 4080 else if n % 4 ≠ 0 then some (4 * ceilDiv n 4) else none
  | .calWrite a b c es => if 4080 < 8 + es.length then some 4080 else calLengthErr (calPayload a b c es)
  | .traceConfigure _ a =>
    let n := a.nCh.toNat
    if n ≤ 16 then (if a.nodes.length = n then none else some (16 + 4 * n)) else if 16 < a.nodes.length then some 80 else none
  | _ => none

/-! ### Time commands (R82, R83, R86, R87) -/

/-- The domain of a number. -/
def domOf (n : Byte) : Dom := if n = 1 then .b else .a

/-- TIME_INCREMENT_WRITE. -/
def State.incrementWrite (domain : Byte) (rsv : BitVec 56) (inc : U64) (s : State) : State × Reply :=
  let x := domOf domain
  match s.gaf.ops.find? fun o => o.wait == .increment x && o.started && o.outcome.isNone && domain.toNat ≤ 1 with
  | some o => (s, busy o.h.mb.val)
  | none =>
    match firstBad [(0, decide (domain.toNat ≤ 1) && s.hostServo x), (1, rsv == 0), (8, within incMin incMax inc.toNat)] with
    | some o => (s, badAt o)
    | none => (s.modDom x (Domain.accept inc.toNat), .wait (.increment x))

/-- TIME_STEP: relative by VALUE and FRAC, or to the T80 they give. -/
def State.timeStep (domain smode : Byte) (rsv : BitVec 48) (value : U64) (frac : U16) (rsv2 : BitVec 48) (s : State) : State × Reply :=
  let x := domOf domain
  match firstBad [(0, decide (domain.toNat ≤ 1) && s.hostServo x), (1, decide (smode.toNat ≤ 1)), (2, rsv == 0), (0x12, rsv2 == 0)] with
  | some o => (s, badAt o)
  | none =>
    let part : Int := (frac.toNat * 65536 : Nat)
    let delta : Int :=
      if smode = 0 then value.toInt * 2 ^ 32 + part
      else (value.toNat * 2 ^ 32 : Nat) + part - ((s.time.dom x).count : Nat)
    let t := (s.stepDom x delta).noteSync s.timeSync
    (t, okWith (leBytes 8 ((t.time.dom x).count / 2 ^ 32)))

/-- A pending increment takes effect, and its command completes (R82, R87). -/
def State.incrementEffect (x : Dom) (s : State) : State :=
  if s.part.inReset || !(s.time.dom x).incDue then s
  else
    let s := s.modDom x Domain.takeInc
    s.finishWaiting (fun o => o.wait == .increment x) fun _ => (.ok, 0, leBytes 8 ((s.time.dom x).count / 2 ^ 32))

/-! ### STATUS_GET (R69) -/

/-- Instances that run. -/
def State.running (s : State) : Nat :=
  if s.enginesRun then (s.place.insts.filter fun x => x.2.device == s.cd && (s.inst x.1).start.isSome).length else 0

/-- STATUS_GET. -/
def State.statusGet (s : State) : State × Reply :=
  let locked (d : Domain) : Bool := d.state == .locked
  (s, okWith (packLe
    [(1, s.gaf.mode.code), (1, s.devMode / 256), (1, s.pwr.stage), (1, if s.gaf.mode == .safeHold then s.gaf.safeCause.code else 0),
     (1, s.time.src.num), (1, b2n (locked s.time.domA) + 2 * b2n (locked s.time.domB) + 4 * b2n s.timeSync), (1, s.roleCode),
     (1, b2n s.gaf.image), (4, s.cfgGen.toNat), (2, if (s.rec? 0x201 0).isSome then s.rate else 0), (2, s.ev.queue.length),
     (4, s.inFlightAll), (4, s.running), (4, (pruneAlarms s.ev.alarms).length), (12, 0)]))

/-! ### The checks of R59 -/

/-- The features that a command and the options it selects need, besides those of its records (R65). -/
def State.cmdNeeds (c : HostCmd) (s : State) : List Nat :=
  opNeeds c.opcode ++ match c with
    | .recordRead _ f _ _ _ _ => if f = 1 then [12] else []
    | .place t _ =>
      if ((s.openTxn t).map fun t => compose (s.txnBase t.fromEmpty) t.staged).any fun rs => (recIn rs 0xC02 0).isSome then [5] else []
    | _ => []

/-- The first feature that a command lacks. -/
def State.lacks (c : HostCmd) (s : State) : Option Nat :=
  ((s.cmdNeeds c).find? fun f => !s.feat f) <|> match c with
    | .staging _ e => s.stagingLacks e
    | _ => none

/-- Step 5 of R59: the answer to a command that the mode does not permit (R31, R32, R435, R453). -/
def State.modeErr (c : HostCmd) (s : State) : Option Reply :=
  let op := c.opcode
  let m := s.gaf.mode
  let no : Option Reply := some (wrongMode 8)
  let inService := m == .service || m == .standby
  let member := s.cascaded && !s.part.straps.masterEn
  if s.gaf.romHold then
    match c with
    | .modeSet code _ _ => if code = 1 then none else some (wrongMode 0xB)
    | .hello _ _ _ _ | .statusGet | .fwUpdate _ _ _ _ _ => none
    | .eventAck _ _ _ | .recordList _ _ _ _ _ | .recordRead _ _ _ _ _ _ | .calRead _ _ _ _ => some (noRes 0xD02)
    | _ => no
  else if m == .boot && op != 1 && op != 4 then no
  else if m == .safeHold && !safeOp op then no
  else match c with
    | .place _ f => if member then no else if inService && bitOf f.toNat 0 then some (wrongMode 9) else none
    | .configBegin _ _ | .staging _ _ => if member then no else none
    | .convSetpoint k _ => if m == .standby || (k = 1 && m != .service) then no else none
    | .valveSleep _ _ | .valveWake _ _ _ _ _ => if m == .standby then no else none
    | .calWrite _ _ _ _ => if m == .commission || m == .test then none else no
    | .fwUpdate o _ _ _ _ => if o = 3 && m == .service then no else none
    | .pairRevert _ _ => if inService then none else no
    | .timeStep d sm _ _ _ _ => if sm = 1 && d.toNat == s.time.src.num && inService then no else none
    | _ => none

/-- A command from step 6 of R59 on; `o` is its operation. -/
def State.carryOut (o : Op) (s : State) : State × Reply :=
  let h := o.h
  let path := o.h.path
  match o.cmd with
  | .hello _ maj _ rsv => s.hello maj rsv
  | .featuresCommit req => s.featuresCommit req
  | .modeSet m fl rsv => s.modeSet m fl rsv
  | .statusGet => s.statusGet
  | .configBegin g fl => s.configBegin h g fl
  | .staging op e => s.staging op h e
  | .configCommit t rsv => s.configCommit h t rsv
  | .configAbort t rsv => s.configAbort h t rsv
  | .settingsRead i src rsv b => s.settingsRead h i src rsv b
  | .place t fl => s.placeCmd h t fl
  | .placementGet src sel first n rsv b => s.placementGet h src sel first n rsv b
  | .acqArm op g rsv t b => s.acqArm o.seq op g rsv t b path
  | .segmentRead g seg fl b => s.segmentRead g seg fl b path
  | .convSetpoint k a => s.convSetpoint o.seq k a
  | .traceConfigure op a => s.traceConfigure h.mb.val op a
  | .traceRead first n mask fl rsv b => s.traceRead first n mask fl rsv b path
  | .valveSleep l rsv => s.valveSleep l rsv
  | .valveWake l a b c d => s.valveWake l (a, b, c, d)
  | .logicRun t st rsv => s.logicCmd true t st rsv
  | .logicStop t st rsv => s.logicCmd false t st rsv
  | .timeIncrementWrite d rsv inc => s.incrementWrite d rsv inc
  | .timeStep d sm rsv v f r2 => s.timeStep d sm rsv v f r2
  | .eventAck a fl b => s.eventAck a fl b path
  | .recordList first k rsv n b => s.recordList first k rsv n b path
  | .recordRead r fm fi fl off b => s.recordRead r fm fi fl off b path
  | .pairRevert op rsv => s.pairRevert op rsv
  | .calWrite n fl rsv es => s.calWrite o.seq (calPayload n fl rsv es)
  | .calRead i ob rsv b => s.calRead path i ob rsv b
  | .fwUpdate op rsv off b _ => s.fwUpdate op rsv off b
  | .badLength _ n => (s, .done .badLength n [] false [])
  | .unknown _ => (s, .done .badOpcode 0 [] false [])

/-- Carries out a command. Where it reads host memory, an access that is not answered leaves it waiting for the limit of R52, and one
that ends in an error status ends it with TIMEOUT. -/
def State.withHost (o : Op) (s : State) : State × Reply :=
  let (t, r) := s.carryOut o
  match o.cmd, r with
  | .fwUpdate op _ _ b _, .wait .flash =>
    if op = 1 && b.kind = 1 then
      match s.hostMeets b with
      | .answers => (t, r)
      | .silent => (s, .wait (.host s.now))
      | .aborts => (s, .done .timeout 0 [] false [])
    else (t, r)
  | _, _ => (t, r)

/-- A command with the checks of R59 in their order. -/
def State.command (o : Op) (s : State) : State × Reply :=
  match o.cmd with
  | .unknown _ => (s, .done .badOpcode 0 [] false [])
  | c =>
    match c.lengthErr with
    | some n => (s, .done .badLength n [] false [])
    | none =>
      match firstBad [(8, onlyBits 3 o.h.flags.toNat), (0xC, o.h.rsv == 0)] with
      | some e => (s, badField e)
      | none =>
        match s.lacks c with
        | some f => (s, .done .notNegotiated f [] false [])
        | none =>
          match s.modeErr c with
          | some r => (s, r)
          | none => s.withHost o

/-! ### Order of starts (R58) -/

/-- The Gaffer serves the mailbox interface. -/
def State.gafferUp (s : State) : Bool := s.gaf.fwReady && !s.part.inReset

/-- An operation may start now: the earlier commands of its mailbox have started, a FENCE finds none unfinished, and none that waits
its turn names an object of it. -/
def State.canStart (o : Op) (s : State) : Bool :=
  let before := (s.gaf.ops.takeWhile fun b => b.seq != o.seq).filter fun b => b.h.mb == o.h.mb
  let clear := before.isEmpty && (s.mb o.h.mb.val).held.isEmpty
  o.outcome.isNone && (!o.started || o.wait == .turn) && before.all (·.started) &&
  (o.started || !bitOf o.h.flags.toNat 0 || clear) &&
  !before.any fun b => b.wait == .turn && b.outcome.isNone && sameObject b.cmd o.cmd

/-- Starts an operation if it may. -/
def State.tryOp (s : State) (seq : Nat) : State :=
  match s.gaf.ops.find? fun o => o.seq == seq with
  | none => s
  | some o =>
    if s.canStart o then
      let r := s.command o
      r.1.applyReply seq r.2
    else s

/-- Starts every operation that may start, in parse order. -/
def State.pump (s : State) : State :=
  if s.gafferUp then (s.gaf.ops.map (·.seq)).foldl State.tryOp s else s

/-! ### Accepting commands (R50, R53, R54, R71) -/

/-- A command as it came: its header, how it came, and what it says; `cut` is the number of bytes of a command that ran past its
batch (R50). -/
structure Incoming where
  h : CmdHead
  cmd : HostCmd
  cut : Option Nat := none
  moeSeq : U32 := 0
  moeSrc : BitVec 128 := 0

/-- Answers a command that starts no operation. -/
def State.answer (i : Incoming) (r : Result) (detail cflags : Nat) (s : State) : State :=
  s.sendEntry { seq := 0, h := i.h, cmd := i.cmd, moeSeq := i.moeSeq, moeSrc := i.moeSrc }
    (mkCompletion i.h i.cmd.opcode r detail [] cflags [])

/-- The kept completion of the same TAG and OPCODE (R71). -/
def State.keptOf (i : Incoming) (s : State) : Option Completion :=
  (s.mb i.h.mb.val).kept.find? fun c => c.tag == i.h.tag && c.opcode == i.cmd.opcode

/-- Takes in one command: the check of R50, the replays of R71 over MOE, the check of R54; otherwise an operation is assigned. -/
def State.accept (s : State) (i : Incoming) : State :=
  let dup := s.tagInFlight i.h.tag
  let moe := i.h.path == .moe
  match i.cut with
  | some n => s.answer i .badLength n (b2n dup)
  | none =>
    match if moe then s.keptOf i else none with
    | some c => s.emit (.moe i.h.mb.val i.moeSeq i.moeSrc [{ c with cflags := c.cflags ||| 4 }])
    | none =>
      if moe && s.gaf.ops.any (fun o => o.h.tag == i.h.tag && o.cmd.opcode == i.cmd.opcode) then s
      else if dup then s.answer i .badField 2 1
      else
        let op : Op := { seq := s.gaf.opSeq, h := i.h, cmd := i.cmd, moeSeq := i.moeSeq, moeSrc := i.moeSrc, at_ := s.now }
        s.modGaf fun g => { g with ops := g.ops ++ [op], opSeq := g.opSeq + 1 }

/-- The commands of a batch from an offset on (R49, R50). -/
def parseBatch (mb : Fin 16) (path : Path) (seq : U32) (src : BitVec 128) (b : Bytes) : Nat → Nat → List Incoming
  | 0, _ => []
  | fuel + 1, off =>
    if b.length ≤ off then []
    else
      let op := b.u16 off
      let h : CmdHead := { mb, path, tag := f16 b (off + 2), flags := f32 b (off + 8), rsv := f32 b (off + 0xC) }
      let stop := off + 16 + b.u32 (off + 4)
      if b.length < stop then [{ h, cmd := .badLength op 0, cut := some (b.length - off), moeSeq := seq, moeSrc := src }]
      else
        { h, cmd := parseCmd op (Bytes.slice b (off + 16) (b.u32 (off + 4))), moeSeq := seq, moeSrc := src } ::
          parseBatch mb path seq src b fuel (16 * ceilDiv stop 16)

/-- Serves one mailbox in a pass: copies and parses its batch and sets CMD to IDLE (R47). -/
def State.serveBox (s : State) (n : Fin 16) : State :=
  let m := s.mb n.val
  if !m.busy then s
  else
    let b := Mem.readBytes 0 m.half 0 m.bytes
    (parseBatch n .pcie 0 0 b 257 0).foldl State.accept (s.setMb n.val { m with busy := false })

/-- A pass over the doorbells in ascending mailbox number (R48), after which the commands start. -/
def State.doorbellPass (s : State) : State :=
  if s.gafferUp then (((List.finRange 16).foldl State.serveBox s).pump).netOut else s

/-- The permitted sources of the MOE_PORT record (R70). -/
def State.moeSources (s : State) : List (BitVec 128) :=
  (s.rec? 0xA08 0).elim [] fun b => (List.range (b.u8 6)).map fun i => BitVec.ofNat 128 (leNat (Bytes.slice b (8 + 16 * i) 16).reverse)

/-- A command datagram over Ethernet (R70, R71): of its batch at most COUNT commands are read. -/
def State.moeDatagram (d : MoeDatagram) (s : State) : State :=
  let n := d.mailbox.toNat
  let b := (s.rec? 0xA08 0).getD []
  let permitted := s.feat 11 && bitOf (b.u16 0) d.port.val && d.udpPort.toNat == b.u16 2 && s.moeSources.contains d.src && s.isMoe n && n < 16
  if !s.gafferUp || s.devMac == 0 then s
  else if !permitted then { s with net := { s.net with moeReject := satAdd 32 s.net.moeReject 1 } }
  else if d.magic != 0x574D || d.version != 1 || d.typ != 1 || d.rsv != 0 || d.rsv2 != 0 then s
  else
    let is_ := (parseBatch (Fin.ofNat 16 n) .moe d.seq d.src d.batch 257 0).take d.count.toNat
    ((is_.foldl State.accept s).pump).netOut

/-- A host command reaches the Gaffer by its path: over PCIe a mailbox that is not assigned to MOE, over Ethernet one that is. -/
def State.reachable (h : CmdHead) (s : State) : Bool :=
  s.gafferUp && match h.path with
    | .pcie => s.barUp && !s.isMoe h.mb.val
    | .moe => s.isMoe h.mb.val && s.devMac != 0

/-- A host command arrives and is parsed. -/
def State.hostRow (h : CmdHead) (c : HostCmd) (s : State) : State :=
  if s.reachable h then
    let s := if h.path == .pcie then { s with part := { s.part with pcieUp := true } } else s
    ((s.accept { h, cmd := c, moeSrc := s.moeSources.headD 0 }).pump).netOut
  else s

/-! ### Time limits -/

/-- The buffer descriptor of a command that returns data. -/
def HostCmd.outBuf : HostCmd → Option BufDesc
  | .settingsRead _ _ _ b | .placementGet _ _ _ _ _ b | .segmentRead _ _ _ b | .traceRead _ _ _ _ _ b | .eventAck _ _ b
  | .recordList _ _ _ _ b | .recordRead _ _ _ _ _ b | .calRead _ _ _ b => some b
  | .acqArm _ _ _ _ b => b
  | _ => none

/-- A host-memory access has not completed within 10 ms (R52). -/
def State.hostTimeout (tag : U16) (s : State) : State :=
  match s.gaf.ops.find? fun o => o.h.tag == tag && o.outcome.isNone with
  | none => s
  | some o =>
    match o.wait with
    | .host t =>
      if s.part.inReset || s.now < t + 10000000 * nsF then s
      else
        let s := o.cmd.outBuf.elim s fun b => spoilBuf b s
        ((s.finishOp o.seq .timeout (s.elapsedUs t) []).pump).netOut
    | _ => s

end Sys2Proof.Machine
end

