-- ==== Sys2Proof/Machine/Lattice.lean ====
section
/-!
DEFINITION. What happens at the start of a lattice tick and of a fast cycle, and the delivery of Marver firings (R9, R90, R91,
R107 to R110, R115 to R117, R177, R270, R277, R306, R394).
-/
namespace Sys2Proof.Machine

/-- What a command has changed lets operations start, and what it drove out leaves through the switch core. -/
def State.settleOut (s : State) : State := s.pump.netOut

/-! ### Lattice ticks -/

/-- A committed lattice rate takes effect at tick 0 of its second: every instance restarts, and every history starts empty (R108, R109). -/
def State.rateSwitch (s : State) : State :=
  match s.time.rateNew with
  | none => s
  | some (r, sec) =>
    if s.now < sec * secF then s
    else
      let old := s.rate
      let last := subTicks r (sec, 0) 1
      let rate := if (s.rec? 0x201 0).isSome then r else 0
      let streams := s.sv.streams.map fun (x : Nat × Stream) => (x.1, { x.2 with frozen := x.2.frozen.map fun _ => last, ahead := [] })
      let tasks := s.log.tasks.map fun (x : Nat × Task) => (x.1, { x.2 with cycle := x.2.cycle.map fun k => tickOf r (tickStart old k) })
      let s := { s with
          time := { s.time with rate, rateNew := none, tick := some last }
          sv := { s.sv with streams, rings := [] }
          eng := { s.eng with images := [], landed := [] }
          log := { s.log with tasks } }
      let s := s.eng.insts.keys.foldl (fun s n => s.newInst n (sec, 0) true) s
      s.rec_.recorders.keys.foldl (fun s n => s.resetRecorder n) s

/-- The tasks whose cycle ends at tick `k`, with their retained states. -/
def State.endingTasks (k : Nat × Nat) (s : State) : List (Nat × Retained) :=
  ((s.recs 0x901).filter fun r => startsCycle r.2 k && (s.task r.1).running && (s.task r.1).cycle.isSome).map fun r =>
    (r.1, (s.task r.1).keep)

/-- What a tick does, in the order in which it does it: a switch of working time (R91), the mode (R34), a commit (R77), the summaries
of tick 0 (R394), settings and mirrored states (R78, R425), the logic engine around the capture of the image (R177, R336), the
recorders (R406) and the block sources (R287). -/
def State.tickWork (k : Nat × Nat) (s : State) : State :=
  let s := ((s.keepSync State.switchIfDue).modeTake).configApply
  let s := if k.2 = 0 then s.logSummaries else s
  let s := (s.takeSettings k).takeInsts k
  let s := { s with eng := { s.eng with engines := s.eng.engines.map fun (e : Nat × Engine) => (e.1, { e.2 with tickNs := 0 }) } }
  let ended := s.endingTasks k
  let s := ended.foldl (fun s t => s.mirrorTask t.1 t.2) (s.logicTick k)
  let s := (s.image k).elim s fun im => s.drecTick k im
  s.blockSources

/-- LATTICE_TICK: the tick that contains the instant starts, unless it, or a later one, has been produced (R90). -/
def State.latticeTick (s : State) : State :=
  if s.part.inReset then s
  else
    let s := s.rateSwitch
    let k := s.tick
    if s.time.tick.any fun l => !tickLt l k then s
    else (State.tickWork k { s with time := { s.time with tick := some k } }).settleOut

/-- LATTICE_TICK (R107). -/
def execLatticeTick (dt : Nat) (s : State) : Host.Outcome State Fault Refusal := goOn dt State.latticeTick s

/-! ### Matrix cycle boundaries (R77, R283, R287, R327) -/

/-- The CONVERTER record of a converter has gone: INIT, with nothing left to wait for (R75, R287). -/
def State.convGone (c : Nat) (s : State) : State :=
  let x := s.cv c
  let s := s.abandon c 0x0702 (causeData 0x800)
  let s := x.pend.foldl (fun s e => s.finishOp e.op .noResource 0x0702 (causeData 0x800)) s
  let s := s.finishWaiting (fun o => o.wait == .setpoint c 8) fun _ => (.ok, 0, setpointData s.now false 0 0)
  let s := s.postIf x.blockedAlarm (mkEv 0x16 c s.now [(4, 0), (4, (cycleOf s.now).2)] true)
  { s with conv := { s.conv with convs := s.conv.convs.erase c } }

/-- A converter whose CONVERTER or CONV_ARM records differ from `old` (R287). -/
def State.convChanged (old : List Rec) (s : State) (c : Nat) : State :=
  let same := recIn old 0x701 c == s.rec? 0x701 c && (List.range 6).all fun a => recIn old 0x702 (6 * c + a) == s.rec? 0x702 (6 * c + a)
  if same then s
  else if (s.cvRec c).isSome then s.convInit c
  else if (convOn old c).isSome then s.convGone c
  else s

/-- Converter and valve records that wait for the matrix cycle boundary `t` take effect. -/
def State.matrixApply (t : Fine) (s : State) : State :=
  match s.conv.newRecs with
  | none => s
  | some (at_, recs) =>
    if t < at_ then s
    else
      let old := s.cfg
      let new := sortRecs ((old.filter fun r => !isMatrixRec r) ++ recs)
      let s := { s with cfg := new, conv := { s.conv with newRecs := none } }
      let s := [0, 1].foldl (State.convChanged old) s
      let tabs := (List.range 8).filter fun n => recIn old 0x707 n != recIn new 0x707 n || recIn old 0x708 n != recIn new 0x708 n
      let s := tabs.foldl (fun s n =>
        let s := [0, 1].foldl (fun s c => s.modCv c fun x => { x with st := { x.st with tableStarted := x.st.tableStarted.put n false } }) s
        if (recIn new 0x707 n).isSome then s else { s with conv := { s.conv with tables := s.conv.tables.erase n } }) s
      (List.range 24).foldl (fun s n =>
        let id_ (rs : List Rec) : Option U32 := (recIn rs 0x801 n).map (tableId rs)
        if id_ old == id_ new then s else s.modLane n Lane.rejoin) s

/-- The matrix cycle boundary at `t` (R306). -/
def State.matrixBoundary (t : Fine) (s : State) : State :=
  (List.range 24).foldl (State.laneMatrix t) ((s.matrixApply t).sleepsDone t)

/-! ### Fast cycles -/

/-- Firings that belong to the cycle and act on the converter engine in it (R115, R283, R294). -/
def State.cycleFirings (c : Nat) (s : State) : State :=
  (s.mar.queue.filter fun f => f.cycle == c).foldl (fun s f =>
    match s.rec? 0x208 f.event with
    | none => s
    | some b =>
      match b.u8 2 with
      | 3 => s.compIndex (b.u8 3)
      | 4 => s.traceTrig 4 (b.u8 3)
      | 6 => if b.u8 3 = 0 then s.modTrace fun t => { t with resample := true } else s
      | _ => s) s

/-- The converters and the lanes in a fast cycle (R270). A word of the converter store is read by a converter that is configured (R28). -/
def State.converterWork (n : Nat × Nat) (t : Fine) (s : State) : State :=
  let s := [0, 1].foldl (State.convCycle n) s
  let reads := (s.cvRec 0).isSome || (s.cvRec 1).isSome
  let s := if reads then { s with conv := { s.conv with bad := false } } else s
  let s := (List.range 24).foldl (State.laneCycle n) s
  let s := [0, 1].foldl (fun s c => s.blockDone c t) (s.wakesDone t)
  s.traceCycle (cycleNum n)

/-- What a fast cycle does: role changes that are due (R422, R427), trackers (R112), the Marver (R115), a matrix boundary, the converters
and lanes, and what is sent on the pair and cascade links (R419, R425, R434). -/
def State.cycleWork (n : Nat × Nat) (s : State) : State :=
  let t := cycleStart n
  let s := s.roleCycle t
  let s := (s.recs 0x207).foldl (State.trackerCycle n) s
  let s := (s.marverCycle n).cycleFirings (cycleNum n)
  let s := if n.2 % 16 = 0 then s.matrixBoundary t else s
  let s := s.converterWork n t
  ((s.followReady.heartbeat n).mirrorCycle n).casStatus

/-- FAST_CYCLE: the fast cycle that contains the instant starts, unless it, or a later one, has been produced (R90). In reset only the
heartbeat is sent (R449). -/
def State.fastCycle (s : State) : State :=
  let n := s.cycle
  if s.part.inReset then s.heartbeat n
  else if s.time.fast.any fun l => cycleNum n ≤ cycleNum l then s
  else (State.cycleWork n { s with time := { s.time with fast := some n } }).settleOut

/-- FAST_CYCLE (R270). -/
def execFastCycle (dt : Nat) (s : State) : Host.Outcome State Fault Refusal := goOn dt State.fastCycle s

/-! ### Marver firings (R116, R117) -/

/-- A firing reaches its target. -/
def State.deliverFiring (f : Firing) (s : State) : State :=
  match s.rec? 0x208 f.event with
  | none => s
  | some b =>
    let arg := b.u8 3
    match b.u8 2 with
    | 1 =>
      if s.fld 0x206 arg 0 (·.u8 0) = 5 then
        { s with time := { s.time with pulses := s.time.pulses.modify { } arg fun p => { p with marver := f.stamp :: p.marver } } }
      else s
    | 2 => s.fireExternal 4 (2 ^ arg) f.stamp
    | 4 => s.convEvent arg f.stamp
    | 5 => s.flagFiring arg f.stamp
    | _ => s

/-- MARVER_FIRING: the first firing that waits is delivered once its stamp has come. -/
def State.marverFire (s : State) : State :=
  match s.mar.queue with
  | [] => s
  | f :: q => if s.now < f.stamp || s.part.inReset then s else State.deliverFiring f { s with mar := { s.mar with queue := q } }

/-- MARVER_FIRING (R116). -/
def execMarverFiring (dt : Nat) (s : State) : Host.Outcome State Fault Refusal := goOn dt State.marverFire s

end Sys2Proof.Machine
end

