-- ==== Sys2Proof/Machine/Duties.lean ====
section
/-!
DEFINITION. The rest of the commands: passes and time limits of the Gaffer, power stages, what takes effect at an instant of its own,
publication, the pair links, the Lehr, faults of the Gaffer and JTAG.
-/
namespace Sys2Proof.Machine

/-! ### The Gaffer (R48 to R79) -/

/-- MBX_RESP_CONS (R56, R57). -/
def execMbxRespCons (dt : Nat) (mb : Fin 16) (value : U32) (s : State) : Host.Outcome State Fault Refusal :=
  goOn dt (State.barAccess fun s => (s.consWrite mb.val value).settleOut) s

/-- DOORBELL_PASS (R48). -/
def execDoorbellPass (dt : Nat) (s : State) : Host.Outcome State Fault Refusal := goOn dt State.doorbellPass s

/-- MOE_DATAGRAM_RX (R71). -/
def execMoeDatagramRx (dt : Nat) (d : MoeDatagram) (s : State) : Host.Outcome State Fault Refusal := goOn dt (State.moeDatagram d) s

/-- HOST_ACCESS_TIMEOUT (R52). -/
def execHostAccessTimeout (dt : Nat) (tag : U16) (s : State) : Host.Outcome State Fault Refusal := goOn dt (State.hostTimeout tag) s

/-- TXN_IDLE_TIMEOUT (R76). -/
def execTxnIdleTimeout (dt : Nat) (s : State) : Host.Outcome State Fault Refusal := goOn dt State.txnIdle s

/-- CONFIG_APPLY (R77). -/
def execConfigApply (dt : Nat) (s : State) : Host.Outcome State Fault Refusal := goOn dt (fun s => s.configApply.settleOut) s

/-- MODE_TAKE_EFFECT (R34). -/
def execModeTakeEffect (dt : Nat) (s : State) : Host.Outcome State Fault Refusal := goOn dt (fun s => s.modeTake.settleOut) s

/-- PLACE_COMPLETE (R265). -/
def execPlaceComplete (dt : Nat) (s : State) : Host.Outcome State Fault Refusal := goOn dt (fun s => s.placeDone.settleOut) s

/-- DEV_ALIVE counts while the Gaffer runs, its ROM or the firmware (R43, R452). -/
def State.aliveTick (s : State) : State := if !s.part.inReset && s.part.bootStep != 0 then s.modGaf fun g => { g with alive := g.alive + 1 } else s

/-- DEV_ALIVE_TICK (R43). -/
def execDevAliveTick (dt : Nat) (s : State) : Host.Outcome State Fault Refusal := goOn dt State.aliveTick s

/-- LOCKSTEP_MISMATCH (R33). -/
def execLockstepMismatch (dt : Nat) (s : State) : Host.Outcome State Fault Refusal := goOn dt (State.requestSafe .lockstep) s

/-! ### Uncorrectable words (R28) -/

/-- Counts an error of a region; an uncorrectable one raises EV_ECC. -/
def State.countEcc (h : EccHit) (s : State) : State :=
  let r := h.region.val
  if h.corrected then { s with lehr := { s.lehr with corrected := s.lehr.corrected.modify 0 r (· + 1) } }
  else
    let s := { s with lehr := { s.lehr with uncorrected := s.lehr.uncorrected.modify 0 r (· + 1) } }
    s.post (mkEv 0x15 r s.now [(2, h.unit.toNat), (2, 0), (4, h.word.toNat), (4, min (2 ^ 32 - 1) (s.lehr.uncorrected.get 0 r))])

/-- GAFFER_ECC_ERROR (R28): SAFE_HOLD is entered. -/
def State.gafferEcc (word : U32) (s : State) : State :=
  if s.part.inReset then s
  else (s.countEcc { region := 6, unit := 0xFFFF, word, obj := 0, corrected := false }).requestSafe .gafferEcc

/-- GAFFER_ECC_ERROR (R28). -/
def execGafferEccError (dt : Nat) (word : U32) (s : State) : Host.Outcome State Fault Refusal := goOn dt (State.gafferEcc word) s

/-- The effect that a reader of an uncorrectable word meets (R28). `obj` names the instance, sample channel (from 65536 an acquisition
channel), frame, task (from 8 a mirror entry) or event SEQ that the word belongs to. -/
def State.eccEffect (h : EccHit) (s : State) : State :=
  let u := h.unit.toNat
  match h.region.val with
  | 0 => { s with eng := { s.eng with badCluster := (u, h.obj) :: s.eng.badCluster.filter (· != (u, h.obj)) } }
  | 1 => if u < numEngines s.isL then s.engineEcc u else s
  | 2 =>
    if h.obj < 65536 then
      { s with sv := { s.sv with rings := s.sv.rings.map fun (x : Nat × List Sample) =>
          if x.1 == h.obj then (x.1, modAt 0 (fun (e : Sample) => { e with q := e.q ||| qInvalid }) x.2) else x } }
    else if (s.acq.chans.find? (h.obj - 65536)).isSome then
      s.modChan (h.obj - 65536) fun x => { x with recent := modAt 0 (fun (e : AqOut) => { e with q := e.q ||| qInvalid }) x.recent }
    else s
  | 3 => { s with conv := { s.conv with bad := true } }
  | 4 => { s with net := { s.net with bad := h.obj :: s.net.bad.filter (· != h.obj) } }
  | 5 =>
    if h.obj < 8 then { s with log := { s.log with bad := h.obj :: s.log.bad.filter (· != h.obj) } }
    else s.modPair fun p => { p with sent := p.sent.erase (h.obj - 8) }
  | 6 => s
  | _ =>
    { s with ev := { s.ev with queue := s.ev.queue.map fun (e : QEntry) =>
        if e.seq.toNat == h.obj then { e with ev := mkEv 0xF2 0 s.now [(1, 1), (3, 0), (4, 1)] } else e } }

/-- One error that the scrub finds. -/
def State.scrubHit (s : State) (h : EccHit) : State :=
  let s := s.countEcc h
  if !h.corrected then s.eccEffect h
  else if h.region = 1 && h.unit.toNat < numEngines s.isL then s.modEngine h.unit.toNat fun g => { g with eccCorr := satAdd 32 g.eccCorr 1 }
  else s

/-! ### The Lehr (R467 to R469) -/

/-- Slices of one pass over the SRAM. -/
def scrubSlices : Nat := 128

/-- One slice of the SRAM scrub. -/
def State.sramScrub (hits : List EccHit) (s : State) : State :=
  if !s.lehrRuns then s
  else
    let s := hits.foldl State.scrubHit s
    let pos := s.lehr.scrubPos + 1
    let t0 := if s.lehr.scrubPos = 0 then s.now else s.lehr.scrubFrom
    if pos < scrubSlices then { s with lehr := { s.lehr with scrubPos := pos, scrubFrom := t0 } }
    else { s with lehr := { s.lehr with scrubPos := 0, scrubFrom := t0, scrubMs := (s.now - t0) / (1000000 * nsF) } }

/-- LEHR_SRAM_SCRUB (R467). -/
def execLehrSramScrub (dt : Nat) (hits : List EccHit) (s : State) : Host.Outcome State Fault Refusal :=
  goOn dt (fun s => (s.sramScrub hits).settleOut) s

/-- One slice of the DDR patrol scrub. -/
def State.ddrScrub (s : State) : State :=
  if s.lehrRuns && s.rec_.ddr then { s with lehr := { s.lehr with ddrPos := (s.lehr.ddrPos + 1) % max 1 s.rec_.ddrMb } } else s

/-- LEHR_DDR_SCRUB (R467). -/
def execLehrDdrScrub (dt : Nat) (s : State) : Host.Outcome State Fault Refusal := goOn dt State.ddrScrub s

/-- The slot holds an interrupted write. -/
def Slot.broken {α : Type} : Slot α → Bool
  | .interrupted _ => true
  | _ => false

/-- One erase of the flash maintenance: a slot that holds an interrupted write (R462, R467), which is not being written now. Under
BOOT_SRC 0b01 the configuration slots are left alone. -/
def State.flashMaintain (s : State) : State :=
  let st := s.store
  let cfgFree := !s.ignoresCfg && s.gaf.commit.all fun c => c.marker.isSome
  let calFree := st.calCommit.all fun c => c.marker.isSome
  if !s.lehrRuns || s.pwr.warn then s
  else if cfgFree && Slot.broken st.cfg0 then (s.modStore fun st => { st with cfg0 := .erased }).countErase 0
  else if cfgFree && Slot.broken st.cfg1 then (s.modStore fun st => { st with cfg1 := .erased }).countErase 1
  else if calFree && Slot.broken st.cal0 then (s.modStore fun st => { st with cal0 := .erased }).countErase 2
  else if calFree && Slot.broken st.cal1 then (s.modStore fun st => { st with cal1 := .erased }).countErase 3
  else s

/-- LEHR_FLASH_MAINTENANCE (R467). -/
def execLehrFlashMaintenance (dt : Nat) (s : State) : Host.Outcome State Fault Refusal := goOn dt State.flashMaintain s

/-- The temperature and supply item (R469). -/
def State.supplyItem (s : State) : Bytes :=
  let rs := s.pwr.rails
  packLe (rs.map fun r => (2, if r.n = 0 then r.level else r.sum / r.n)) ++ packLe (rs.map fun r => (2, r.min)) ++
  s.lehr.temps.flatMap (sleBytes 2) ++ sleBytes 2 (s.lehr.tempMax.getD 0) ++
  packLe [(1, s.pwr.stage), (1, b2n s.pwr.warn + 2 * b2n s.pwr.warnSeen), (2, 0), (4, s.lehr.scrubMs),
    (4, s.lehr.eraseCounts.foldl (fun m e => max m e.2) 0)]

/-- The sensors are sampled; at the first sample of a second the item of the second before is built. -/
def State.sensors (temps : List Int) (s : State) : State :=
  if !s.lehrRuns then s
  else
    let sec := s.now / secF
    let die := temps.getD 0 0
    let s : State :=
      if s.lehr.itemSec == some sec then s
      else
        let s := s.addItem 10 s.supplyItem
        { s with
          lehr := { s.lehr with itemSec := some sec, tempMax := none }
          pwr := { s.pwr with rails := s.pwr.rails.map fun r => { r with sum := 0, n := 0, min := r.level }, warnSeen := s.pwr.warn } }
    { s with lehr := { s.lehr with temps, tempMax := some (max die (s.lehr.tempMax.getD die)) } }

/-- LEHR_TELEMETRY (R469). -/
def execLehrTelemetry (dt : Nat) (temps : List Int) (s : State) : Host.Outcome State Fault Refusal := goOn dt (State.sensors temps) s

/-! ### Power (R442 to R446) -/

/-- RAIL_MONITOR_SAMPLE (R442). -/
def execRailMonitorSample (dt : Nat) (levels : List Nat) (s : State) : Host.Outcome State Fault Refusal :=
  goOn dt (State.railSample levels) s

/-- WARN_DWELL_EXPIRY (R444). -/
def execWarnDwellExpiry (dt : Nat) (s : State) : Host.Outcome State Fault Refusal := goOn dt (State.outOfReset State.retarget) s

/-- SHED_DWELL_EXPIRY (R444). -/
def execShedDwellExpiry (dt : Nat) (s : State) : Host.Outcome State Fault Refusal := goOn dt (State.outOfReset State.retarget) s

/-- RECOVER_HOLD_EXPIRY (R446). -/
def execRecoverHoldExpiry (dt : Nat) (s : State) : Host.Outcome State Fault Refusal := goOn dt (State.outOfReset State.fall) s

/-! ### Effects at an instant of their own -/

/-- ACQ_ARM_EFFECT (R170). -/
def execAcqArmEffect (dt : Nat) (group : Fin 8) (s : State) : Host.Outcome State Fault Refusal :=
  goOn dt (State.outOfReset fun s => (s.armsDue group.val).settleOut) s

/-- The start of the outer cycle that contains an instant (R9). -/
def outerStart (t : Fine) : Fine := t / (50000 * nsF) * (50000 * nsF)

/-- SETPOINT_EFFECT (R284). -/
def execSetpointEffect (dt : Nat) (conv : Fin 2) (qty : Fin 8) (s : State) : Host.Outcome State Fault Refusal :=
  goOn dt (State.outOfReset fun s => (s.setpointDue conv.val qty.val (outerStart s.now)).settleOut) s

/-- DEBLOCK_EFFECT (R289). -/
def execDeblockEffect (dt : Nat) (conv : Fin 2) (s : State) : Host.Outcome State Fault Refusal :=
  goOn dt (State.outOfReset fun s => (s.deblockEffect conv.val).settleOut) s

/-- INCREMENT_TAKE_EFFECT (R82). -/
def execIncrementTakeEffect (dt : Nat) (dom : Dom) (s : State) : Host.Outcome State Fault Refusal :=
  goOn dt (fun s => (s.incrementEffect dom).settleOut) s

/-- An announced leap second of a domain has come (R103): LEAP_ADJ moves, and the UTC_LEAP item is written. -/
def State.leapSecond (x : Dom) (s : State) : State :=
  let d := s.time.dom x
  match d.leap with
  | some (sec, negative) =>
    if s.part.inReset || d.t80 < sec * secF then s
    else
      let s := s.modDom x fun d => { d with leap := none, leapAdj := d.leapAdj + if negative then -1 else 1 }
      (s.modStore fun st => { st with leapOwed := true }).leapWrite
  | none => s

/-- LEAP_SECOND (R103). -/
def execLeapSecond (dt : Nat) (dom : Dom) (s : State) : Host.Outcome State Fault Refusal := goOn dt (State.leapSecond dom) s

/-! ### Acquisition, Gather and publication -/

/-- ACQ_OUTPUT (R147). The reduced order code has 16 channels (R2). -/
def execAcqOutput (dt : Nat) (ch : Fin 32) (s : State) : Host.Outcome State Fault Refusal :=
  if s.isL && 16 ≤ ch.val then .fault .notProvided
  else goOn dt (State.outOfReset fun s => (s.acqOutput ch.val).settleOut) s

/-- GATHER_PASS (R182): results are published and mirrored, and the block sources follow them (R287, R425). -/
def execGatherPass (dt : Nat) (s : State) : Host.Outcome State Fault Refusal :=
  goOn dt (State.outOfReset fun s => ((s.gatherPass.blockSources).mirrorPass).settleOut) s

/-- GOOSE_REPEAT (R199). -/
def execGooseRepeat (dt : Nat) (cb : Fin 64) (s : State) : Host.Outcome State Fault Refusal :=
  goOn dt (State.outOfReset fun s => (s.gooseRepeat cb.val).netOut) s

/-- C37_PUB_WAIT_EXPIRY (R200). -/
def execC37PubWaitExpiry (dt : Nat) (st : Fin 8) (s : State) : Host.Outcome State Fault Refusal :=
  goOn dt (State.outOfReset fun s => (s.c37Expire st.val).netOut) s

/-- C37_COMMAND_RX (R200). -/
def execC37CommandRx (dt : Nat) (idcode cmd : U16) (s : State) : Host.Outcome State Fault Refusal :=
  goOn dt (State.outOfReset fun s => (s.c37Command idcode.toNat cmd.toNat).netOut) s

/-! ### The pair links (R422 to R430) -/

/-- ARB_FRAME_RX (R422). -/
def execArbFrameRx (dt : Nat) (f : ArbFrame) (s : State) : Host.Outcome State Fault Refusal :=
  goOn dt (fun s => (s.arbFrame f).settleOut) s

/-- ARB_LOST (R422). -/
def execArbLost (dt : Nat) (s : State) : Host.Outcome State Fault Refusal := goOn dt State.arbGone s

/-- A mirror frame on a lane whose receiver holds lock (R424, R488). -/
def State.mirrorRx (crcOk : Bool) (lane : Nat) (items : List MirrorItem) (s : State) : State :=
  if s.pair.mirrorLock.getD lane false then s.mirrorFrame crcOk items else s

/-- MIRROR_FRAME_RX (R425). -/
def execMirrorFrameRx (dt : Nat) (crcOk : Bool) (lane : Fin 2) (items : List MirrorItem) (s : State) : Host.Outcome State Fault Refusal :=
  goOn dt (State.mirrorRx crcOk lane.val items) s

/-- MIRROR_LOSS (R422). -/
def execMirrorLoss (dt : Nat) (s : State) : Host.Outcome State Fault Refusal := goOn dt State.mirrorGone s

/-- PAIR_REVERT_HOLD (R429). -/
def execPairRevertHold (dt : Nat) (s : State) : Host.Outcome State Fault Refusal := goOn dt State.revertDueNow s

/-- TRANSFER_PREDRIVE (R429). -/
def execTransferPredrive (dt : Nat) (s : State) : Host.Outcome State Fault Refusal := goOn dt State.predrive s

/-- TRANSFER_AT (R429): the roles change at a module; the arbiter follows the transfer it has announced. -/
def execTransferAt (dt : Nat) (s : State) : Host.Outcome State Fault Refusal :=
  goOn dt (fun s => if s.isArbiter then s.arbTransfer else s.transferNow.settleOut) s

/-! ### Receivers and JTAG -/

/-- A receiver gains or loses lock (R299, R488). On XG64-L the receivers of VL12 to VL23 are ignored. -/
def State.receiver (rx : Receiver) (lock inverted : Bool) (s : State) : State :=
  match rx with
  | .valve n => if n.val < numLanes s.isL then s.laneLock n.val lock inverted else s
  | .mirror n => s.modPair fun p => { p with mirrorLock := modAt n.val (fun _ => lock) p.mirrorLock }
  | .cascade n => { s with cas := { s.cas with lock := modAt n.val (fun _ => lock) s.cas.lock } }

/-- RECEIVER_LOCK (R299). -/
def execReceiverLock (dt : Nat) (rx : Receiver) (lock inverted : Bool) (s : State) : Host.Outcome State Fault Refusal :=
  goOn dt (State.outOfReset (State.receiver rx lock inverted)) s

/-- What TDO reads after an instruction (R479): IDCODE, or nothing under BYPASS. -/
def State.jtagId (s : State) : Option U32 := if s.part.jtagIr = 2 then some 0xB00645D7 else none

/-- JTAG_INSTRUCTION (R479). -/
def execJtagInstruction (dt : Nat) (ir : BitVec 4) (s : State) : Host.Outcome State Fault Refusal :=
  goOn dt (fun s => { s with part := { s.part with jtagIr := ir } }) s

end Sys2Proof.Machine
end

