-- ==== Sys2Proof/Machine/HostRows.lean ====
section
/-!
DEFINITION. The meanings of the host commands, one for each row: the command arrives by its path, is parsed, and starts when the order of
R58 lets it.
-/
namespace Sys2Proof.Machine

/-- The host puts bytes into a buffer of its memory before it sends a command that reads them. -/
def State.hostPut (b : BufDesc) (img : Bytes) (s : State) : State :=
  if b.kind = 1 then { s with hostMem := Mem.writeBytes 0 s.hostMem b.addr.toNat (img.take b.len.toNat) } else s

/-- HELLO (R62). -/
def execHello (dt : Nat) (h : CmdHead) (drv : BitVec 128) (maj min : U16) (rsv : U32) (s : State) :
    Host.Outcome State Fault Refusal :=
  goOn dt (State.hostRow h (.hello drv maj min rsv)) s

/-- FEATURES_COMMIT (R63). -/
def execFeaturesCommit (dt : Nat) (h : CmdHead) (req : BitVec 128) (s : State) : Host.Outcome State Fault Refusal :=
  goOn dt (State.hostRow h (.featuresCommit req)) s

/-- MODE_SET (R66). -/
def execModeSet (dt : Nat) (h : CmdHead) (mode mflags : Byte) (rsv : U16) (s : State) : Host.Outcome State Fault Refusal :=
  goOn dt (State.hostRow h (.modeSet mode mflags rsv)) s

/-- STATUS_GET (R69). -/
def execStatusGet (dt : Nat) (h : CmdHead) (s : State) : Host.Outcome State Fault Refusal :=
  goOn dt (State.hostRow h .statusGet) s

/-- CONFIG_BEGIN (R74). -/
def execConfigBegin (dt : Nat) (h : CmdHead) (baseGen tflags : U32) (s : State) : Host.Outcome State Fault Refusal :=
  goOn dt (State.hostRow h (.configBegin baseGen tflags)) s

/-- CONFIG_RECORD (R74). -/
def execConfigRecord (dt : Nat) (h : CmdHead) (env : Envelope) (s : State) : Host.Outcome State Fault Refusal :=
  goOn dt (State.hostRow h (.staging 0x11 env)) s

/-- CONFIG_COMMIT (R74, R77). -/
def execConfigCommit (dt : Nat) (h : CmdHead) (txn rsv : U32) (s : State) : Host.Outcome State Fault Refusal :=
  goOn dt (State.hostRow h (.configCommit txn rsv)) s

/-- CONFIG_ABORT (R74). -/
def execConfigAbort (dt : Nat) (h : CmdHead) (txn rsv : U32) (s : State) : Host.Outcome State Fault Refusal :=
  goOn dt (State.hostRow h (.configAbort txn rsv)) s

/-- INSTANCE_CREATE (R205). -/
def execInstanceCreate (dt : Nat) (h : CmdHead) (env : Envelope) (s : State) : Host.Outcome State Fault Refusal :=
  goOn dt (State.hostRow h (.staging 0x20 env)) s

/-- INSTANCE_DELETE (R205). -/
def execInstanceDelete (dt : Nat) (h : CmdHead) (env : Envelope) (s : State) : Host.Outcome State Fault Refusal :=
  goOn dt (State.hostRow h (.staging 0x21 env)) s

/-- SETTINGS_WRITE (R78). -/
def execSettingsWrite (dt : Nat) (h : CmdHead) (env : Envelope) (s : State) : Host.Outcome State Fault Refusal :=
  goOn dt (State.hostRow h (.staging 0x22 env)) s

/-- SETTINGS_READ (R79). -/
def execSettingsRead (dt : Nat) (h : CmdHead) (inst : U16) (source rsv : Byte) (buf : BufDesc) (s : State) :
    Host.Outcome State Fault Refusal :=
  goOn dt (State.hostRow h (.settingsRead inst source rsv buf)) s

/-- PLACE (R74, R254, R265). -/
def execPlace (dt : Nat) (h : CmdHead) (txn pflags : U32) (s : State) : Host.Outcome State Fault Refusal :=
  goOn dt (State.hostRow h (.place txn pflags)) s

/-- PLACEMENT_GET (R266). -/
def execPlacementGet (dt : Nat) (h : CmdHead) (source select : Byte) (first count rsv : U16) (buf : BufDesc) (s : State) :
    Host.Outcome State Fault Refusal :=
  goOn dt (State.hostRow h (.placementGet source select first count rsv buf)) s

/-- STREAM_SUBSCRIBE (R122). -/
def execStreamSubscribe (dt : Nat) (h : CmdHead) (env : Envelope) (s : State) : Host.Outcome State Fault Refusal :=
  goOn dt (State.hostRow h (.staging 0x40 env)) s

/-- STREAM_UNSUBSCRIBE (R122). -/
def execStreamUnsubscribe (dt : Nat) (h : CmdHead) (env : Envelope) (s : State) : Host.Outcome State Fault Refusal :=
  goOn dt (State.hostRow h (.staging 0x41 env)) s

/-- ACQ_CONFIGURE (R169). -/
def execAcqConfigure (dt : Nat) (h : CmdHead) (env : Envelope) (s : State) : Host.Outcome State Fault Refusal :=
  goOn dt (State.hostRow h (.staging 0x50 env)) s

/-- ACQ_ARM with OP ARM_CONT (R157, R170). -/
def execArmCont (dt : Nat) (h : CmdHead) (group : Byte) (rsv : U16) (tArm : U64) (buf : Option BufDesc) (s : State) :
    Host.Outcome State Fault Refusal :=
  goOn dt (State.hostRow h (.acqArm 1 group rsv tArm buf)) s

/-- ACQ_ARM with OP ARM_SINGLE (R157, R170). -/
def execArmSingle (dt : Nat) (h : CmdHead) (group : Byte) (rsv : U16) (tArm : U64) (buf : Option BufDesc) (s : State) :
    Host.Outcome State Fault Refusal :=
  goOn dt (State.hostRow h (.acqArm 2 group rsv tArm buf)) s

/-- ACQ_ARM with OP DISARM (R157, R170). -/
def execDisarm (dt : Nat) (h : CmdHead) (group : Byte) (rsv : U16) (tArm : U64) (buf : Option BufDesc) (s : State) :
    Host.Outcome State Fault Refusal :=
  goOn dt (State.hostRow h (.acqArm 3 group rsv tArm buf)) s

/-- ACQ_ARM with OP FORCE (R152, R170). -/
def execForce (dt : Nat) (h : CmdHead) (group : Byte) (rsv : U16) (tArm : U64) (buf : Option BufDesc) (s : State) :
    Host.Outcome State Fault Refusal :=
  goOn dt (State.hostRow h (.acqArm 4 group rsv tArm buf)) s

/-- ACQ_ARM with OP SKEW_MEASURE (R163, R170). -/
def execSkewMeasure (dt : Nat) (h : CmdHead) (group : Byte) (rsv : U16) (tArm : U64) (buf : Option BufDesc) (s : State) :
    Host.Outcome State Fault Refusal :=
  goOn dt (State.hostRow h (.acqArm 5 group rsv tArm buf)) s

/-- SEGMENT_READ (R171). -/
def execSegmentRead (dt : Nat) (h : CmdHead) (group seg : U16) (rflags : U32) (buf : BufDesc) (s : State) :
    Host.Outcome State Fault Refusal :=
  goOn dt (State.hostRow h (.segmentRead group seg rflags buf)) s

/-- CONV_CONFIGURE (R296). -/
def execConvConfigure (dt : Nat) (h : CmdHead) (env : Envelope) (s : State) : Host.Outcome State Fault Refusal :=
  goOn dt (State.hostRow h (.staging 0x60 env)) s

/-- CONV_SETPOINT with KIND SET_POINT (R286). -/
def execSetPoint (dt : Nat) (h : CmdHead) (a : SetPointArgs) (s : State) : Host.Outcome State Fault Refusal :=
  goOn dt (State.hostRow h (.convSetpoint 0 a)) s

/-- CONV_SETPOINT with KIND DEBLOCK (R286, R289). -/
def execDeblock (dt : Nat) (h : CmdHead) (a : SetPointArgs) (s : State) : Host.Outcome State Fault Refusal :=
  goOn dt (State.hostRow h (.convSetpoint 1 a)) s

/-- CONV_SETPOINT with KIND BLOCK (R286, R288). -/
def execBlock (dt : Nat) (h : CmdHead) (a : SetPointArgs) (s : State) : Host.Outcome State Fault Refusal :=
  goOn dt (State.hostRow h (.convSetpoint 2 a)) s

/-- COMP_TABLE_WRITE (R283). -/
def execCompTableWrite (dt : Nat) (h : CmdHead) (env : Envelope) (s : State) : Host.Outcome State Fault Refusal :=
  goOn dt (State.hostRow h (.staging 0x62 env)) s

/-- TRACE_CONFIGURE with OP ARM (R293). -/
def execTraceArm (dt : Nat) (h : CmdHead) (a : TraceArgs) (s : State) : Host.Outcome State Fault Refusal :=
  goOn dt (State.hostRow h (.traceConfigure 1 a)) s

/-- TRACE_CONFIGURE with OP DISARM (R293). -/
def execTraceDisarm (dt : Nat) (h : CmdHead) (a : TraceArgs) (s : State) : Host.Outcome State Fault Refusal :=
  goOn dt (State.hostRow h (.traceConfigure 2 a)) s

/-- TRACE_CONFIGURE with OP FORCE (R293). -/
def execTraceForce (dt : Nat) (h : CmdHead) (a : TraceArgs) (s : State) : Host.Outcome State Fault Refusal :=
  goOn dt (State.hostRow h (.traceConfigure 3 a)) s

/-- TRACE_READ (R295). -/
def execTraceRead (dt : Nat) (h : CmdHead) (first count : U32) (chMask rflags : U16) (rsv : U32) (buf : BufDesc) (s : State) :
    Host.Outcome State Fault Refusal :=
  goOn dt (State.hostRow h (.traceRead first count chMask rflags rsv buf)) s

/-- VALVE_CONFIGURE (R326). -/
def execValveConfigure (dt : Nat) (h : CmdHead) (env : Envelope) (s : State) : Host.Outcome State Fault Refusal :=
  goOn dt (State.hostRow h (.staging 0x70 env)) s

/-- VALVE_SLEEP (R328). -/
def execValveSleep (dt : Nat) (h : CmdHead) (lanes rsv : U32) (s : State) : Host.Outcome State Fault Refusal :=
  goOn dt (State.hostRow h (.valveSleep lanes rsv)) s

/-- VALVE_WAKE (R329). -/
def execValveWake (dt : Nat) (h : CmdHead) (lanes : U32) (wId wIdMask : U16) (wData wDataMask : U32) (s : State) :
    Host.Outcome State Fault Refusal :=
  goOn dt (State.hostRow h (.valveWake lanes wId wIdMask wData wDataMask)) s

/-- LOGIC_LOAD (R347). -/
def execLogicLoad (dt : Nat) (h : CmdHead) (env : Envelope) (s : State) : Host.Outcome State Fault Refusal :=
  goOn dt (State.hostRow h (.staging 0x80 env)) s

/-- LOGIC_RUN (R363). -/
def execLogicRun (dt : Nat) (h : CmdHead) (tasks start : Byte) (rsv : U16) (s : State) : Host.Outcome State Fault Refusal :=
  goOn dt (State.hostRow h (.logicRun tasks start rsv)) s

/-- LOGIC_STOP (R364). -/
def execLogicStop (dt : Nat) (h : CmdHead) (tasks start : Byte) (rsv : U16) (s : State) : Host.Outcome State Fault Refusal :=
  goOn dt (State.hostRow h (.logicStop tasks start rsv)) s

/-- PORT_CONFIGURE (R388). -/
def execPortConfigure (dt : Nat) (h : CmdHead) (env : Envelope) (s : State) : Host.Outcome State Fault Refusal :=
  goOn dt (State.hostRow h (.staging 0x90 env)) s

/-- SWITCH_CONFIGURE (R388). -/
def execSwitchConfigure (dt : Nat) (h : CmdHead) (env : Envelope) (s : State) : Host.Outcome State Fault Refusal :=
  goOn dt (State.hostRow h (.staging 0x91 env)) s

/-- TIME_CONFIGURE (R118). -/
def execTimeConfigure (dt : Nat) (h : CmdHead) (env : Envelope) (s : State) : Host.Outcome State Fault Refusal :=
  goOn dt (State.hostRow h (.staging 0xA0 env)) s

/-- TIME_INCREMENT_WRITE (R82, R87). -/
def execTimeIncrementWrite (dt : Nat) (h : CmdHead) (domain : Byte) (rsv : BitVec 56) (inc : U64) (s : State) :
    Host.Outcome State Fault Refusal :=
  goOn dt (State.hostRow h (.timeIncrementWrite domain rsv inc)) s

/-- TIME_STEP (R83, R87). -/
def execTimeStep (dt : Nat) (h : CmdHead) (domain smode : Byte) (rsv : BitVec 48) (value : U64) (frac : U16) (rsv2 : BitVec 48) (s : State) :
    Host.Outcome State Fault Refusal :=
  goOn dt (State.hostRow h (.timeStep domain smode rsv value frac rsv2)) s

/-- EVENT_ACK (R398). -/
def execEventAck (dt : Nat) (h : CmdHead) (ackSeq aflags : U32) (buf : BufDesc) (s : State) :
    Host.Outcome State Fault Refusal :=
  goOn dt (State.hostRow h (.eventAck ackSeq aflags buf)) s

/-- RECORD_LIST (R408). -/
def execRecordList (dt : Nat) (h : CmdHead) (first : U32) (kinds rsv : Byte) (count : U16) (buf : BufDesc) (s : State) :
    Host.Outcome State Fault Refusal :=
  goOn dt (State.hostRow h (.recordList first kinds rsv count buf)) s

/-- RECORD_READ (R409). -/
def execRecordRead (dt : Nat) (h : CmdHead) (record : U32) (format file : Byte) (rdflags : U16) (offset : U64) (buf : BufDesc) (s : State) :
    Host.Outcome State Fault Refusal :=
  goOn dt (State.hostRow h (.recordRead record format file rdflags offset buf)) s

/-- PAIR_CONFIGURE (R431). -/
def execPairConfigure (dt : Nat) (h : CmdHead) (env : Envelope) (s : State) : Host.Outcome State Fault Refusal :=
  goOn dt (State.hostRow h (.staging 0xC0 env)) s

/-- PAIR_REVERT with OP TRANSFER_NOW (R430). -/
def execTransferNow (dt : Nat) (h : CmdHead) (rsv : BitVec 24) (s : State) : Host.Outcome State Fault Refusal :=
  goOn dt (State.hostRow h (.pairRevert 1 rsv)) s

/-- PAIR_REVERT with OP SET_INHIBIT (R430). -/
def execSetInhibit (dt : Nat) (h : CmdHead) (rsv : BitVec 24) (s : State) : Host.Outcome State Fault Refusal :=
  goOn dt (State.hostRow h (.pairRevert 2 rsv)) s

/-- PAIR_REVERT with OP CLEAR_INHIBIT (R430). -/
def execClearInhibit (dt : Nat) (h : CmdHead) (rsv : BitVec 24) (s : State) : Host.Outcome State Fault Refusal :=
  goOn dt (State.hostRow h (.pairRevert 3 rsv)) s

/-- CAL_WRITE (R465). -/
def execCalWrite (dt : Nat) (h : CmdHead) (nItems cflags : U16) (rsv : U32) (entries : Bytes) (s : State) :
    Host.Outcome State Fault Refusal :=
  goOn dt (State.hostRow h (.calWrite nItems cflags rsv entries)) s

/-- CAL_READ (R466). -/
def execCalRead (dt : Nat) (h : CmdHead) (item obj : U16) (rsv : U32) (buf : BufDesc) (s : State) :
    Host.Outcome State Fault Refusal :=
  goOn dt (State.hostRow h (.calRead item obj rsv buf)) s

/-- FW_UPDATE with OP WRITE (R457); `img` is what the host has put into the buffer. -/
def execFwWrite (dt : Nat) (h : CmdHead) (rsv : BitVec 24) (offset : U32) (buf : BufDesc) (img : Bytes) (s : State) :
    Host.Outcome State Fault Refusal :=
  goOn dt (fun s => (s.hostPut buf img).hostRow h (.fwUpdate 1 rsv offset buf img)) s

/-- FW_UPDATE with OP VERIFY (R457). -/
def execFwVerify (dt : Nat) (h : CmdHead) (rsv : BitVec 24) (offset : U32) (buf : BufDesc) (s : State) :
    Host.Outcome State Fault Refusal :=
  goOn dt (State.hostRow h (.fwUpdate 2 rsv offset buf [])) s

/-- FW_UPDATE with OP ACTIVATE (R457). -/
def execFwActivate (dt : Nat) (h : CmdHead) (rsv : BitVec 24) (offset : U32) (buf : BufDesc) (s : State) :
    Host.Outcome State Fault Refusal :=
  goOn dt (State.hostRow h (.fwUpdate 3 rsv offset buf [])) s

/-- FW_UPDATE with OP CONFIRM (R457). -/
def execFwConfirm (dt : Nat) (h : CmdHead) (rsv : BitVec 24) (offset : U32) (buf : BufDesc) (s : State) :
    Host.Outcome State Fault Refusal :=
  goOn dt (State.hostRow h (.fwUpdate 4 rsv offset buf [])) s

/-- FW_UPDATE with OP ERASE (R457). -/
def execFwErase (dt : Nat) (h : CmdHead) (rsv : BitVec 24) (offset : U32) (buf : BufDesc) (s : State) :
    Host.Outcome State Fault Refusal :=
  goOn dt (State.hostRow h (.fwUpdate 5 rsv offset buf [])) s

end Sys2Proof.Machine
end

