-- ==== Sys2Proof/Machine/Ptp.lean ====
section
/-!
DEFINITION. The PTP protocol that the Gaffer runs: best master, peer delay, Sync, transparent clock, and the draining of the transmit
time-stamp queues (R85, R86, R93 to R98). What IEEE 1588 and not the spec says is log entry 12.
-/
namespace Sys2Proof.Machine

/-- PTP state of a port in a domain. -/
def State.ptp (s : State) (p : Nat) (x : Dom) : PtpPort := s.time.ptp.get { } (2 * p + x.num)
/-- Changes the PTP state of a port in a domain. -/
def State.modPtp (p : Nat) (x : Dom) (f : PtpPort → PtpPort) (s : State) : State :=
  { s with time := { s.time with ptp := s.time.ptp.put (2 * p + x.num) (f (s.ptp p x)) } }

/-- A port takes part in a domain: the domain has a record, and PORT_TIME names it. -/
def State.inDom (s : State) (p : Nat) (x : Dom) : Bool :=
  (s.rec? 0x202 x.num).isSome && bitOf (s.fld 0x204 p 0 (·.u8 0)) x.num

/-- The time of a domain. -/
def State.domNow (s : State) (x : Dom) : Fine := (s.time.dom x).t80

/-- The domains of a port with a domainNumber. -/
def State.ptpDoms (s : State) (p num : Nat) : List Dom :=
  [Dom.a, Dom.b].filter fun x => s.inDom p x && s.fld 0x202 x.num 0 (·.u8 2) == num

/-- SLAVE_ONLY and ONE_STEP. -/
def State.slaveOnly (s : State) (x : Dom) : Bool := bitOf (s.fld 0x202 x.num 1 (·.u16 0xE)) 0
@[inherit_doc State.slaveOnly] def State.oneStep (s : State) (x : Dom) : Bool := bitOf (s.fld 0x202 x.num 1 (·.u16 0xE)) 1
/-- The interval of Sync messages of a port in ns: 2^LOG_SYNC s. -/
def State.syncInterval (s : State) (p : Nat) : Nat :=
  1000000000 / 2 ^ ((s.rec? 0x204 p).elim 0 fun b => (-(b.sle 2 1)).toNat)

/-- The device's clock identity: its address as an EUI-64 (log entry 12). -/
def State.clockId (s : State) : U64 :=
  let m := s.devMac.toNat
  BitVec.ofNat 64 (m / 2 ^ 24 * 2 ^ 40 + 0xFFFE * 2 ^ 24 + m % 2 ^ 24)

/-- The device's own data set in a domain (log entry 12). -/
def State.ownClock (s : State) (x : Dom) : PtpClock :=
  let d := s.time.dom x
  let prim := within 1 3 (s.domSource x)
  { prio1 := BitVec.ofNat 8 (s.fld 0x202 x.num 128 (·.u8 0xC)), prio2 := BitVec.ofNat 8 (s.fld 0x202 x.num 128 (·.u8 0xD))
    clockClass := if s.slaveOnly x then 255 else if prim && d.state == .locked then 6 else if prim && d.state == .holdover then 7 else 248
    accuracy := if d.synced then 0x21 else 0xFE, gmId := s.clockId }

/-- `a` is a better master than `b`: fewer steps for one grandmaster, else the first difference of the data sets. -/
def clockBetter (a b : PtpClock) : Bool :=
  if a.gmId = b.gmId then decide (a.steps < b.steps)
  else
    let key (c : PtpClock) : Nat :=
      ((((c.prio1.toNat * 256 + c.clockClass.toNat) * 256 + c.accuracy.toNat) * 65536 + c.variance.toNat) * 256 + c.prio2.toNat) *
        2 ^ 64 + c.gmId.toNat
    decide (key a < key b)

/-- The master that a port has heard within three announce intervals. -/
def State.freshMaster (s : State) (p : Nat) (x : Dom) : Option (PtpClock × U64) :=
  (s.ptp p x).master.filter fun _ => decide (s.domNow x ≤ (s.ptp p x).masterAt + 3 * secF)

/-- The port with the best master of a domain. -/
def State.bestMaster (s : State) (x : Dom) : Option (Nat × PtpClock × U64) :=
  (List.range (numPorts s.isL)).foldl (fun m p =>
    if !(s.inDom p x && s.ptpRole p == 1 && (s.port p).up) then m
    else match s.freshMaster p x, m with
      | none, _ => m
      | some c, none => some (p, c)
      | some c, some b => if clockBetter c.1 b.2.1 then some (p, c) else m) none

/-- The slave port of a domain, with its master. -/
def State.slavePort (s : State) (x : Dom) : Option (Nat × PtpClock × U64) :=
  if s.domSource x != 0 then none
  else (s.bestMaster x).filter fun b => s.slaveOnly x || !clockBetter (s.ownClock x) b.2.1

/-- The data set that the device announces: its parent's, one step further, or its own. -/
def State.toAnnounce (s : State) (x : Dom) : PtpClock :=
  match s.slavePort x with
  | some b => { b.2.1 with steps := b.2.1.steps + 1 }
  | none => s.ownClock x

/-- A port is a master in a domain. -/
def State.isMaster (s : State) (p : Nat) (x : Dom) : Bool :=
  s.inDom p x && s.ptpRole p == 1 && !s.slaveOnly x && (s.slavePort x).all (fun b => b.1 != p) &&
  (s.freshMaster p x).all fun c => clockBetter (s.toAnnounce x) c.1

/-- Sends a PTP message on a port in class 7. `stamp` asks for its egress stamp, `rx` is the ingress stamp it is measured from. -/
def State.sendPtp (p : Nat) (x : Dom) (m : PtpMsg) (stamp : Bool) (rx : Option Fine) (s : State) : State :=
  let peer := m.kind == .pdelayReq || m.kind == .pdelayResp || m.kind == .pdelayRespFollowUp
  let f : EthFrame := { dst := if peer then 0x0180C200000E else 0x011B19000000, src := s.devMac, body := .ptpOwn m
                        len := if m.kind == .announce then 82 else 72 }
  let id := s.time.ident
  let s := if stamp then
      let l := s.time.await.get [] p
      { s with time := { s.time with
          ident := id + 1, await := s.time.await.put p ((({ ident := id, dom := x.num, msg := m } : AwaitStamp) :: l).take 64) } }
    else s
  s.netSettle.enqueue 17 f 7 [(p, f, s.now)] none (if stamp then some (id, if x.num = 0 then 0 else 1) else none) rx

/-- The ingress stamp of a message in a domain, corrected by RX_LAT (R95). -/
def State.ingressAt (s : State) (p : Nat) (x : Dom) : Fine :=
  moveNs (s.domNow x) (-((s.rec? 0x204 p).elim 0 fun b => b.sle 4 2))

/-- A message that a transparent clock passes on to the other transparent ports of its domain (R94). -/
def State.ptpForward (p : Nat) (x : Dom) (m : PtpMsg) (rx : Fine) (s : State) : State :=
  let inacc := s.fld 0x202 x.num 50 (·.u16 0x10)
  let m := if m.kind == .announce && s.fld 0x202 x.num 0 (·.u8 1) == 1 then { m with inacc := m.inacc + inacc } else m
  (((List.range (numPorts s.isL)).filter fun q => q != p && s.inDom q x && s.ptpRole q == 2)).foldl (fun s q =>
    s.sendPtp q x { m with port := Fin.ofNat 16 q } false (some rx)) s

/-- A Sync from the selected master is a reference (R85); with the host servo its measurement is published (R86). -/
def State.ptpReference (p : Nat) (x : Dom) (rx : Fine) (master : Int) (s : State) : State :=
  let delay := (s.ptp p x).delay
  let ofs : Int := (rx : Int) - (master + delay)
  let s := if s.hostServo x then
      s.modDom x fun d => { d with
        measSeq := d.measSeq + 1, measOfs := ofs, measDelay := BitVec.ofNat 32 delay, measPort := Fin.ofNat 16 p
        measTrx := BitVec.ofNat 64 (rx / nsF) }
    else s
  s.reference x ofs (s.syncInterval p)

/-- A peer delay measurement with all its parts gives the delay. -/
def PtpPort.measure (r : PtpPort) : PtpPort :=
  match r.pdelay with
  | some d =>
    match d.t1, d.t4, d.turn with
    | some t1, some t4, some turn => { r with delay := ((((t4 : Int) - t1) - turn) / 2).toNat, pdelay := none }
    | _, _, _ => r
  | none => r

/-- A PTP message at an ordinary or boundary port, or a peer delay message at any port. -/
def State.ptpTake (p : Nat) (x : Dom) (m : PtpMsg) (s : State) : State :=
  let rx := s.ingressAt p x
  let r := s.ptp p x
  match m.kind with
  | .announce =>
    let c37 := s.fld 0x202 x.num 0 (·.u8 1) == 1
    let fresh := s.freshMaster p x
    if m.src == s.clockId || m.clock.gmId == s.clockId || (c37 && !m.tlvOk) then s
    else if fresh.all fun c => c.2 == m.src || clockBetter m.clock c.1 then
      s.modPtp p x fun r => { r with master := some (m.clock, m.src), masterAt := rx, inacc := m.inacc }
    else s
  | .sync =>
    if (s.slavePort x).any fun b => b.1 == p && b.2.2 == m.src then
      if m.twoStep then s.modPtp p x fun r => { r with pendingSync := some (m.seq, m.src, rx, m.corr) }
      else s.ptpReference p x rx ((m.origin : Int) + m.corr)
    else s
  | .followUp =>
    match r.pendingSync with
    | some (seq, src, t, corr) =>
      if seq == m.seq && src == m.src && (s.slavePort x).any (fun b => b.1 == p && b.2.2 == m.src) then
        (s.modPtp p x fun r => { r with pendingSync := none }).ptpReference p x t ((m.origin : Int) + corr + m.corr)
      else s
    | none => s
  | .pdelayReq =>
    let reply : PtpMsg := { port := m.port, domainNumber := m.domainNumber, kind := .pdelayResp, twoStep := !s.oneStep x, seq := m.seq,
                            src := s.clockId, corr := m.corr }
    if s.oneStep x then s.sendPtp p x reply false (some rx) else s.sendPtp p x { reply with origin := rx } true (some rx)
  | .pdelayResp =>
    s.modPtp p x fun r => PtpPort.measure { r with pdelay := r.pdelay.map fun d =>
      if d.seq != m.seq then d
      else if m.twoStep then { d with t4 := some rx, t2 := some m.origin, corr := m.corr }
      else { d with t4 := some rx, turn := some m.corr } }
  | .pdelayRespFollowUp =>
    s.modPtp p x fun r => PtpPort.measure { r with pdelay := r.pdelay.map fun d =>
      match d.t2 with
      | some t2 => if d.seq != m.seq then d else { d with turn := some ((m.origin : Int) - t2 + d.corr + m.corr) }
      | none => d }
  | .delayReqResp => s

/-- A received PTP message (R85, R93). Delay request-response messages are discarded and counted. -/
def State.ptpRx (m : PtpMsg) (s : State) : State :=
  let p := m.port.val
  if !s.fwRuns || s.part.inReset || s.gaf.mode == .boot || !(s.port p).up || s.ptpRole p == 0 then s
  else if m.kind == .delayReqResp then s.modPort p fun r => { r with ptpDiscard := satAdd 32 r.ptpDiscard 1 }
  else
    let peer := m.kind == .pdelayReq || m.kind == .pdelayResp || m.kind == .pdelayRespFollowUp
    (s.ptpDoms p m.domainNumber.toNat).foldl (fun s x =>
      if s.ptpRole p == 2 && !peer then s.ptpForward p x m (s.ingressAt p x) else s.ptpTake p x m) s

/-- The instant from which the next message of an interval timer is due; a step of the domain behind the last one makes it due too. -/
def dueFrom (last iv now : Nat) : Bool := decide (last + iv ≤ now) || decide (now < last)

/-- An interval timer of a port expires (R93). -/
def State.ptpInterval (p : Nat) (x : Dom) (k : PtpKind) (s : State) : State :=
  let r := s.ptp p x
  let now := s.domNow x
  let m : PtpMsg := { port := Fin.ofNat 16 p, domainNumber := BitVec.ofNat 8 (s.fld 0x202 x.num 0 (·.u8 2)), kind := k, seq := 0, src := s.clockId }
  if !s.fwRuns || s.part.inReset || s.gaf.mode == .boot || !(s.port p).up || !s.inDom p x then s
  else
    match k with
    | .sync =>
      if s.isMaster p x && dueFrom r.syncAt (s.syncInterval p * nsF) now then
        let two := !s.oneStep x
        (s.modPtp p x fun r => { r with syncSeq := r.syncSeq + 1, syncAt := now }).sendPtp p x { m with seq := r.syncSeq, twoStep := two } two none
      else s
    | .announce =>
      if s.isMaster p x && dueFrom r.announceAt secF now then
        let inacc := (s.slavePort x).elim 0 (fun b => (s.ptp b.1 x).inacc) + s.fld 0x202 x.num 50 (·.u16 0x10)
        let c37 := s.fld 0x202 x.num 0 (·.u8 1) == 1
        (s.modPtp p x fun r => { r with announceSeq := r.announceSeq + 1, announceAt := now }).sendPtp p x
          { m with seq := r.announceSeq, clock := s.toAnnounce x, tlvOk := c37, inacc := if c37 then inacc else 0 } false none
      else s
    | .pdelayReq =>
      if s.ptpRole p != 0 && dueFrom r.pdelayAt secF now then
        (s.modPtp p x fun r => { r with pdelaySeq := r.pdelaySeq + 1, pdelayAt := now, pdelay := some { seq := r.pdelaySeq } }).sendPtp p x
          { m with seq := r.pdelaySeq } true none
      else s
    | _ => s

/-- The Gaffer takes one stamp from a queue (R98): of a Sync it makes the Follow_Up, of a Pdelay_Req the start of the measurement, of a
Pdelay_Resp its Follow_Up; any other is the egress stamp of a publication. -/
def State.takeStamp (p : Nat) (t : TxStamp) (s : State) : State :=
  if t.base = 2 then s.emit (.egressStamp p t.stamp t.ident)
  else
    match (s.time.await.get [] p).find? fun a => a.ident == t.ident && a.dom == t.base.val with
    | none => s
    | some a =>
      let x : Dom := if a.dom = 0 then .a else .b
      let s := { s with time := { s.time with await := s.time.await.put p ((s.time.await.get [] p).filter fun b => b.ident != a.ident) } }
      match a.msg.kind with
      | .sync => s.sendPtp p x { a.msg with kind := .followUp, twoStep := false, origin := t.stamp, corr := 0 } false none
      | .pdelayReq => s.modPtp p x fun r => PtpPort.measure { r with pdelay := r.pdelay.map fun d =>
          if d.seq == a.msg.seq then { d with t1 := some t.stamp } else d }
      | .pdelayResp => s.sendPtp p x { a.msg with kind := .pdelayRespFollowUp, twoStep := false, origin := t.stamp, corr := 0 } false none
      | _ => s

/-- The Gaffer drains every transmit time-stamp queue, oldest stamp first (R96, R98). -/
def State.tsqDrain (s : State) : State :=
  if !s.fwRuns || s.part.inReset then s
  else
    (List.range 16).foldl (fun s p =>
      let q := s.time.tsq.get { } p
      let s := { s with time := { s.time with tsq := if q.items.isEmpty then s.time.tsq else s.time.tsq.put p { q with items := [] } } }
      q.items.foldl (fun s t => s.takeStamp p t) s) s

/-- PTP_MESSAGE_RX (R85, R93). -/
def execPtpMessageRx (dt : Nat) (m : PtpMsg) (s : State) : Host.Outcome State Fault Refusal := goOn dt (State.keepSync (State.ptpRx m)) s

/-- PTP_TRANSMIT_INTERVAL (R93). -/
def execPtpTransmitInterval (dt : Nat) (port : Fin 16) (dom : Dom) (kind : PtpKind) (s : State) : Host.Outcome State Fault Refusal :=
  goOn dt (State.ptpInterval port.val dom kind) s

/-- TSQ_DRAIN (R98). -/
def execTsqDrain (dt : Nat) (s : State) : Host.Outcome State Fault Refusal := goOn dt State.tsqDrain s

end Sys2Proof.Machine
end

