-- ==== Sys2Proof/Machine/Dispatch.lean ====
section
/-!
DEFINITION. The dispatcher: one arm per command of the opcode table, each one call of the command's meaning.
-/
namespace Sys2Proof.Machine

/-- The effect of a command on everything but the queue of waiting commands. -/
def exec (i : Instr) (s : State) : Host.Outcome State Fault Refusal :=
  match i with
  | .hello dt h drv maj min rsv => Sys2Proof.Machine.execHello dt h drv maj min rsv s
  | .featuresCommit dt h req => Sys2Proof.Machine.execFeaturesCommit dt h req s
  | .modeSet dt h mode mflags rsv => Sys2Proof.Machine.execModeSet dt h mode mflags rsv s
  | .statusGet dt h => Sys2Proof.Machine.execStatusGet dt h s
  | .configBegin dt h baseGen tflags => Sys2Proof.Machine.execConfigBegin dt h baseGen tflags s
  | .configRecord dt h env => Sys2Proof.Machine.execConfigRecord dt h env s
  | .configCommit dt h txn rsv => Sys2Proof.Machine.execConfigCommit dt h txn rsv s
  | .configAbort dt h txn rsv => Sys2Proof.Machine.execConfigAbort dt h txn rsv s
  | .instanceCreate dt h env => Sys2Proof.Machine.execInstanceCreate dt h env s
  | .instanceDelete dt h env => Sys2Proof.Machine.execInstanceDelete dt h env s
  | .settingsWrite dt h env => Sys2Proof.Machine.execSettingsWrite dt h env s
  | .settingsRead dt h inst source rsv buf => Sys2Proof.Machine.execSettingsRead dt h inst source rsv buf s
  | .place dt h txn pflags => Sys2Proof.Machine.execPlace dt h txn pflags s
  | .placementGet dt h source select first count rsv buf => Sys2Proof.Machine.execPlacementGet dt h source select first count rsv buf s
  | .streamSubscribe dt h env => Sys2Proof.Machine.execStreamSubscribe dt h env s
  | .streamUnsubscribe dt h env => Sys2Proof.Machine.execStreamUnsubscribe dt h env s
  | .acqConfigure dt h env => Sys2Proof.Machine.execAcqConfigure dt h env s
  | .armCont dt h group rsv tArm buf => Sys2Proof.Machine.execArmCont dt h group rsv tArm buf s
  | .armSingle dt h group rsv tArm buf => Sys2Proof.Machine.execArmSingle dt h group rsv tArm buf s
  | .disarm dt h group rsv tArm buf => Sys2Proof.Machine.execDisarm dt h group rsv tArm buf s
  | .force dt h group rsv tArm buf => Sys2Proof.Machine.execForce dt h group rsv tArm buf s
  | .skewMeasure dt h group rsv tArm buf => Sys2Proof.Machine.execSkewMeasure dt h group rsv tArm buf s
  | .acqArmEffect dt group => Sys2Proof.Machine.execAcqArmEffect dt group s
  | .segmentRead dt h group seg rflags buf => Sys2Proof.Machine.execSegmentRead dt h group seg rflags buf s
  | .convConfigure dt h env => Sys2Proof.Machine.execConvConfigure dt h env s
  | .setPoint dt h a => Sys2Proof.Machine.execSetPoint dt h a s
  | .deblock dt h a => Sys2Proof.Machine.execDeblock dt h a s
  | .block dt h a => Sys2Proof.Machine.execBlock dt h a s
  | .setpointEffect dt conv qty => Sys2Proof.Machine.execSetpointEffect dt conv qty s
  | .deblockEffect dt conv => Sys2Proof.Machine.execDeblockEffect dt conv s
  | .compTableWrite dt h env => Sys2Proof.Machine.execCompTableWrite dt h env s
  | .traceArm dt h a => Sys2Proof.Machine.execTraceArm dt h a s
  | .traceDisarm dt h a => Sys2Proof.Machine.execTraceDisarm dt h a s
  | .traceForce dt h a => Sys2Proof.Machine.execTraceForce dt h a s
  | .traceRead dt h first count chMask rflags rsv buf => Sys2Proof.Machine.execTraceRead dt h first count chMask rflags rsv buf s
  | .valveConfigure dt h env => Sys2Proof.Machine.execValveConfigure dt h env s
  | .valveSleep dt h lanes rsv => Sys2Proof.Machine.execValveSleep dt h lanes rsv s
  | .valveWake dt h lanes wId wIdMask wData wDataMask => Sys2Proof.Machine.execValveWake dt h lanes wId wIdMask wData wDataMask s
  | .logicLoad dt h env => Sys2Proof.Machine.execLogicLoad dt h env s
  | .logicRun dt h tasks start rsv => Sys2Proof.Machine.execLogicRun dt h tasks start rsv s
  | .logicStop dt h tasks start rsv => Sys2Proof.Machine.execLogicStop dt h tasks start rsv s
  | .portConfigure dt h env => Sys2Proof.Machine.execPortConfigure dt h env s
  | .switchConfigure dt h env => Sys2Proof.Machine.execSwitchConfigure dt h env s
  | .timeConfigure dt h env => Sys2Proof.Machine.execTimeConfigure dt h env s
  | .timeIncrementWrite dt h domain rsv inc => Sys2Proof.Machine.execTimeIncrementWrite dt h domain rsv inc s
  | .timeStep dt h domain smode rsv value frac rsv2 => Sys2Proof.Machine.execTimeStep dt h domain smode rsv value frac rsv2 s
  | .incrementTakeEffect dt dom => Sys2Proof.Machine.execIncrementTakeEffect dt dom s
  | .eventAck dt h ackSeq aflags buf => Sys2Proof.Machine.execEventAck dt h ackSeq aflags buf s
  | .recordList dt h first kinds rsv count buf => Sys2Proof.Machine.execRecordList dt h first kinds rsv count buf s
  | .recordRead dt h record format file rdflags offset buf => Sys2Proof.Machine.execRecordRead dt h record format file rdflags offset buf s
  | .pairConfigure dt h env => Sys2Proof.Machine.execPairConfigure dt h env s
  | .transferNow dt h rsv => Sys2Proof.Machine.execTransferNow dt h rsv s
  | .setInhibit dt h rsv => Sys2Proof.Machine.execSetInhibit dt h rsv s
  | .clearInhibit dt h rsv => Sys2Proof.Machine.execClearInhibit dt h rsv s
  | .calWrite dt h nItems cflags rsv entries => Sys2Proof.Machine.execCalWrite dt h nItems cflags rsv entries s
  | .calRead dt h item obj rsv buf => Sys2Proof.Machine.execCalRead dt h item obj rsv buf s
  | .fwWrite dt h rsv offset buf img => Sys2Proof.Machine.execFwWrite dt h rsv offset buf img s
  | .fwVerify dt h rsv offset buf => Sys2Proof.Machine.execFwVerify dt h rsv offset buf s
  | .fwActivate dt h rsv offset buf => Sys2Proof.Machine.execFwActivate dt h rsv offset buf s
  | .fwConfirm dt h rsv offset buf => Sys2Proof.Machine.execFwConfirm dt h rsv offset buf s
  | .fwErase dt h rsv offset buf => Sys2Proof.Machine.execFwErase dt h rsv offset buf s
  | .mbxDoorbell dt mb value => Sys2Proof.Machine.execMbxDoorbell dt mb value s
  | .commandHalfWrite dt mb offset data => Sys2Proof.Machine.execCommandHalfWrite dt mb offset data s
  | .mbxRespCons dt mb value => Sys2Proof.Machine.execMbxRespCons dt mb value s
  | .mbxDropcnt dt mb => Sys2Proof.Machine.execMbxDropcnt dt mb s
  | .devIrqStatus dt value => Sys2Proof.Machine.execDevIrqStatus dt value s
  | .devIrqMask dt value => Sys2Proof.Machine.execDevIrqMask dt value s
  | .tmuSnap dt value => Sys2Proof.Machine.execTmuSnap dt value s
  | .tmuTsqOvf dt value => Sys2Proof.Machine.execTmuTsqOvf dt value s
  | .tmuTsqStat dt port => Sys2Proof.Machine.execTmuTsqStat dt port s
  | .registerWriteOther dt addr width value => Sys2Proof.Machine.execRegisterWriteOther dt addr width value s
  | .doorbellPass dt => Sys2Proof.Machine.execDoorbellPass dt s
  | .moeDatagramRx dt d => Sys2Proof.Machine.execMoeDatagramRx dt d s
  | .hostAccessTimeout dt tag => Sys2Proof.Machine.execHostAccessTimeout dt tag s
  | .txnIdleTimeout dt => Sys2Proof.Machine.execTxnIdleTimeout dt s
  | .bankMarkerWritten dt kind => Sys2Proof.Machine.execBankMarkerWritten dt kind s
  | .flashOpComplete dt crypto => Sys2Proof.Machine.execFlashOpComplete dt crypto s
  | .configApply dt => Sys2Proof.Machine.execConfigApply dt s
  | .modeTakeEffect dt => Sys2Proof.Machine.execModeTakeEffect dt s
  | .bootResetTimer dt => Sys2Proof.Machine.execBootResetTimer dt s
  | .porstN dt lowNs => Sys2Proof.Machine.execPorstN dt lowNs s
  | .sysrstN dt lowNs => Sys2Proof.Machine.execSysrstN dt lowNs s
  | .resetRelease dt selfTestOk => Sys2Proof.Machine.execResetRelease dt selfTestOk s
  | .internalPor dt => Sys2Proof.Machine.execInternalPor dt s
  | .pcieFunctionReset dt ev => Sys2Proof.Machine.execPcieFunctionReset dt ev s
  | .fwLoaded dt cryptoA cryptoB => Sys2Proof.Machine.execFwLoaded dt cryptoA cryptoB s
  | .bootComplete dt => Sys2Proof.Machine.execBootComplete dt s
  | .lockstepMismatch dt => Sys2Proof.Machine.execLockstepMismatch dt s
  | .gafferEccError dt word => Sys2Proof.Machine.execGafferEccError dt word s
  | .devAliveTick dt => Sys2Proof.Machine.execDevAliveTick dt s
  | .railMonitorSample dt levels => Sys2Proof.Machine.execRailMonitorSample dt levels s
  | .pwrWarn dt level => Sys2Proof.Machine.execPwrWarn dt level s
  | .warnDwellExpiry dt => Sys2Proof.Machine.execWarnDwellExpiry dt s
  | .shedDwellExpiry dt => Sys2Proof.Machine.execShedDwellExpiry dt s
  | .recoverHoldExpiry dt => Sys2Proof.Machine.execRecoverHoldExpiry dt s
  | .ptpMessageRx dt m => Sys2Proof.Machine.execPtpMessageRx dt m s
  | .domainRefTimeout dt dom => Sys2Proof.Machine.execDomainRefTimeout dt dom s
  | .holdoverLimitExpiry dt dom => Sys2Proof.Machine.execHoldoverLimitExpiry dt dom s
  | .worktimeSwitch dt => Sys2Proof.Machine.execWorktimeSwitch dt s
  | .revertHoldExpiry dt => Sys2Proof.Machine.execRevertHoldExpiry dt s
  | .ppsEdge dt highNs lowNs rising => Sys2Proof.Machine.execPpsEdge dt highNs lowNs rising s
  | .ppsTimeout dt => Sys2Proof.Machine.execPpsTimeout dt s
  | .irigFrame dt f => Sys2Proof.Machine.execIrigFrame dt f s
  | .leapSecond dt dom => Sys2Proof.Machine.execLeapSecond dt dom s
  | .tsqDrain dt => Sys2Proof.Machine.execTsqDrain dt s
  | .launchDue dt port q => Sys2Proof.Machine.execLaunchDue dt port q s
  | .launchTolExpiry dt port q => Sys2Proof.Machine.execLaunchTolExpiry dt port q s
  | .pulseEdge dt out => Sys2Proof.Machine.execPulseEdge dt out s
  | .latticeTick dt => Sys2Proof.Machine.execLatticeTick dt s
  | .streamAgeingSweep dt => Sys2Proof.Machine.execStreamAgeingSweep dt s
  | .fastCycle dt => Sys2Proof.Machine.execFastCycle dt s
  | .trackerLockTimer dt trk => Sys2Proof.Machine.execTrackerLockTimer dt trk s
  | .coastLimitExpiry dt trk => Sys2Proof.Machine.execCoastLimitExpiry dt trk s
  | .marverFiring dt => Sys2Proof.Machine.execMarverFiring dt s
  | .svFrameRx dt f => Sys2Proof.Machine.execSvFrameRx dt f s
  | .svTickFreeze dt stream => Sys2Proof.Machine.execSvTickFreeze dt stream s
  | .streamLoss dt stream => Sys2Proof.Machine.execStreamLoss dt stream s
  | .jesdBlockRx dt link b => Sys2Proof.Machine.execJesdBlockRx dt link b s
  | .sysrefEdge dt => Sys2Proof.Machine.execSysrefEdge dt s
  | .sysrefTimeout dt link => Sys2Proof.Machine.execSysrefTimeout dt link s
  | .acqOutput dt ch => Sys2Proof.Machine.execAcqOutput dt ch s
  | .groupRearm dt g => Sys2Proof.Machine.execGroupRearm dt g s
  | .trigInEdge dt ball rising => Sys2Proof.Machine.execTrigInEdge dt ball rising s
  | .cascadeFireRx dt f => Sys2Proof.Machine.execCascadeFireRx dt f s
  | .cascadeTriggerHold dt g => Sys2Proof.Machine.execCascadeTriggerHold dt g s
  | .lehrSkewMeasure dt link phase => Sys2Proof.Machine.execLehrSkewMeasure dt link phase s
  | .skewcalStale dt link => Sys2Proof.Machine.execSkewcalStale dt link s
  | .executionComplete dt eng inst rerun upset => Sys2Proof.Machine.execExecutionComplete dt eng inst rerun upset s
  | .gatherPass dt => Sys2Proof.Machine.execGatherPass dt s
  | .gooseRepeat dt cb => Sys2Proof.Machine.execGooseRepeat dt cb s
  | .c37PubWaitExpiry dt st => Sys2Proof.Machine.execC37PubWaitExpiry dt st s
  | .c37CommandRx dt idcode cmd => Sys2Proof.Machine.execC37CommandRx dt idcode cmd s
  | .logicWatchdog dt => Sys2Proof.Machine.execLogicWatchdog dt s
  | .gooseSubRx dt f => Sys2Proof.Machine.execGooseSubRx dt f s
  | .gooseSubExpire dt n => Sys2Proof.Machine.execGooseSubExpire dt n s
  | .fieldSupervisionTick dt biA biB diS boFb boLs => Sys2Proof.Machine.execFieldSupervisionTick dt biA biB diS boFb boLs s
  | .inputFilterExpiry dt ch => Sys2Proof.Machine.execInputFilterExpiry dt ch s
  | .discrepancyLatch dt n => Sys2Proof.Machine.execDiscrepancyLatch dt n s
  | .boReadbackTimeout dt n => Sys2Proof.Machine.execBoReadbackTimeout dt n s
  | .boTestPulse dt n => Sys2Proof.Machine.execBoTestPulse dt n s
  | .ethFrameRx dt port f => Sys2Proof.Machine.execEthFrameRx dt port f s
  | .portTransmitSelect dt port => Sys2Proof.Machine.execPortTransmitSelect dt port s
  | .pauseExpiry dt port => Sys2Proof.Machine.execPauseExpiry dt port s
  | .residueTimeout dt port => Sys2Proof.Machine.execResidueTimeout dt port s
  | .portLinkChange dt port up inverted => Sys2Proof.Machine.execPortLinkChange dt port up inverted s
  | .macAgeingSweep dt => Sys2Proof.Machine.execMacAgeingSweep dt s
  | .culletAudit dt stray => Sys2Proof.Machine.execCulletAudit dt stray s
  | .lpiIdleExpiry dt port => Sys2Proof.Machine.execLpiIdleExpiry dt port s
  | .downshiftTimer dt port => Sys2Proof.Machine.execDownshiftTimer dt port s
  | .lifeCheck dt pair => Sys2Proof.Machine.execLifeCheck dt pair s
  | .valveStatusRx dt lane f => Sys2Proof.Machine.execValveStatusRx dt lane f s
  | .valveEventRx dt lane f => Sys2Proof.Machine.execValveEventRx dt lane f s
  | .joinReq dt lane f => Sys2Proof.Machine.execJoinReq dt lane f s
  | .claimReq dt lane f => Sys2Proof.Machine.execClaimReq dt lane f s
  | .joinLost dt lane pos => Sys2Proof.Machine.execJoinLost dt lane pos s
  | .tSleepExpiry dt lane => Sys2Proof.Machine.execTSleepExpiry dt lane s
  | .laneWakeDone dt lane => Sys2Proof.Machine.execLaneWakeDone dt lane s
  | .valveWakeBall dt high => Sys2Proof.Machine.execValveWakeBall dt high s
  | .laneRxSignal dt lane => Sys2Proof.Machine.execLaneRxSignal dt lane s
  | .keepawakeLimit dt lane => Sys2Proof.Machine.execKeepawakeLimit dt lane s
  | .arbHbRx dt link f => Sys2Proof.Machine.execArbHbRx dt link f s
  | .arbDecide dt => Sys2Proof.Machine.execArbDecide dt s
  | .arbFrameRx dt f => Sys2Proof.Machine.execArbFrameRx dt f s
  | .arbLost dt => Sys2Proof.Machine.execArbLost dt s
  | .mirrorFrameRx dt crcOk lane items => Sys2Proof.Machine.execMirrorFrameRx dt crcOk lane items s
  | .mirrorLoss dt => Sys2Proof.Machine.execMirrorLoss dt s
  | .selDelayExpiry dt => Sys2Proof.Machine.execSelDelayExpiry dt s
  | .pairRevertHold dt => Sys2Proof.Machine.execPairRevertHold dt s
  | .transferPredrive dt => Sys2Proof.Machine.execTransferPredrive dt s
  | .transferAt dt => Sys2Proof.Machine.execTransferAt dt s
  | .cascadeStatusRx dt f => Sys2Proof.Machine.execCascadeStatusRx dt f s
  | .cascadeArmRx dt seq group op tArm => Sys2Proof.Machine.execCascadeArmRx dt seq group op tArm s
  | .cascadeConfigRx dt f => Sys2Proof.Machine.execCascadeConfigRx dt f s
  | .cascadeDeviceLost dt dev => Sys2Proof.Machine.execCascadeDeviceLost dt dev s
  | .eventRingBatch dt => Sys2Proof.Machine.execEventRingBatch dt s
  | .eventRingRetry dt => Sys2Proof.Machine.execEventRingRetry dt s
  | .telemetryMs dt => Sys2Proof.Machine.execTelemetryMs dt s
  | .statusBlockSecond dt lpiRx => Sys2Proof.Machine.execStatusBlockSecond dt lpiRx s
  | .drecEnd dt n => Sys2Proof.Machine.execDrecEnd dt n s
  | .recordEventCopyEnd dt n => Sys2Proof.Machine.execRecordEventCopyEnd dt n s
  | .recordWriterSlice dt => Sys2Proof.Machine.execRecordWriterSlice dt s
  | .lehrSramScrub dt hits => Sys2Proof.Machine.execLehrSramScrub dt hits s
  | .lehrDdrScrub dt => Sys2Proof.Machine.execLehrDdrScrub dt s
  | .lehrFlashMaintenance dt => Sys2Proof.Machine.execLehrFlashMaintenance dt s
  | .lehrTelemetry dt temps => Sys2Proof.Machine.execLehrTelemetry dt temps s
  | .jtagInstruction dt ir => Sys2Proof.Machine.execJtagInstruction dt ir s
  | .receiverLock dt rx lock inverted => Sys2Proof.Machine.execReceiverLock dt rx lock inverted s
  | .protectedWindow dt port w => Sys2Proof.Machine.execProtectedWindow dt port w s
  | .lpiWake dt port => Sys2Proof.Machine.execLpiWake dt port s
  | .lldpTransmit dt port => Sys2Proof.Machine.execLldpTransmit dt port s
  | .ptpTransmitInterval dt port dom kind => Sys2Proof.Machine.execPtpTransmitInterval dt port dom kind s
  | .workOffsetBleed dt => Sys2Proof.Machine.execWorkOffsetBleed dt s
  | .placeComplete dt => Sys2Proof.Machine.execPlaceComplete dt s

end Sys2Proof.Machine
end

