-- ==== Sys2Proof/Safety.lean ====
section
/-!
DEFINITION. The terms in which claims are stated: a step that does not stop, memories in canonical form, and a host command that
comes alone, with the states it begins in and ends in.
-/
namespace Sys2Proof.Machine

/-- The step at a state answers a next state. -/
def goesOn (s : State) : Prop := ∃ t, step s = .next t

/-- A number of steps, one after another, up to the first that stops. -/
def runFor : Nat → State → Host.Outcome State Fault Refusal
  | 0, s => .next s
  | n + 1, s =>
    match step s with
    | .next t => runFor n t
    | .fault r => .fault r
    | .refused r => .refused r

/-- The memories the state holds have their canonical form. -/
def State.memOk (s : State) : Bool :=
  Mem.wf 0 s.hostMem && Mem.wf 0 s.gaf.msix && Mem.wf 0xFF s.store.slotA && Mem.wf 0xFF s.store.slotB && s.mbx.all fun m => Mem.wf 0 m.2.half

/-- The state of a block in operation: out of reset, its firmware serving the mailbox interface in a mode. -/
def State.upIn (m : Mode) (s : State) : Bool := !s.part.inReset && s.gaf.fwReady && !s.gaf.romHold && s.gaf.mode == m

/-! ### A host command that comes alone (R47 to R60) -/

/-- A command reaches the Gaffer by its path with no operation in flight and no completion held back; over MOE it repeats none whose
completion is kept (R71). -/
def State.comesAlone (h : CmdHead) (c : HostCmd) (s : State) : Bool :=
  s.reachable h && s.gaf.ops.isEmpty && (s.mbx.all fun m => m.2.held.isEmpty) &&
  (h.path == .pcie || !((s.mb h.mb.val).kept.any fun k => k.tag == h.tag && k.opcode == c.opcode))

/-- The operation that a command becomes. -/
def State.opFor (h : CmdHead) (c : HostCmd) (s : State) : Op :=
  { seq := s.gaf.opSeq, h, cmd := c, moeSrc := s.moeSources.headD 0, at_ := s.now }

/-- The state in which a command that came alone is carried out. -/
def State.begun (h : CmdHead) (c : HostCmd) (s : State) : State :=
  { s with
    part := { s.part with pcieUp := s.part.pcieUp || h.path == .pcie }
    gaf := { s.gaf with ops := [s.opFor h c], opSeq := s.gaf.opSeq + 1 } }

/-- A command passes the first five checks of R59: length, header, features and mode. -/
def State.passes (h : CmdHead) (c : HostCmd) (s : State) : Bool :=
  let u := s.begun h c
  c.lengthErr.isNone && (match c with
    | .unknown _ => false
    | _ => true) && onlyBits 3 h.flags.toNat && h.rsv == 0 && (u.lacks c).isNone && (u.modeErr c).isNone

/-- A command is taken alone: it comes alone and passes. -/
def State.takes (h : CmdHead) (c : HostCmd) (s : State) : Bool := s.comesAlone h c && s.passes h c

/-- `v` with operation `o` ended and its completion handed to the path of the command (R55 to R57, R71). -/
def State.finished (o : Op) (r : Result) (detail : Nat) (data : Bytes) (hostBuf : Bool) (extra : Bytes) (v : State) : State :=
  State.sendEntry o
    { mkCompletion o.h o.cmd.opcode r detail data (if hostBuf then 2 else 0) extra with boot := o.cmd.boots && r == .ok }
    { v with gaf := { v.gaf with ops := [] } }


/-- `v` with operation `o` started and waiting. -/
def State.waiting (o : Op) (w : Wait) (v : State) : State :=
  { v with gaf := { v.gaf with ops := [{ o with started := true, wait := w }] } }

/-- The state after a command that came alone `dt` cycles later and was completed at once with a result: `f` is what it changed. -/
def State.endsAs (dt : Nat) (h : CmdHead) (c : HostCmd) (s : State) (r : Result) (detail : Nat) (data : Bytes) (hostBuf : Bool)
    (extra : Bytes) (f : State → State) : State :=
  let u := s.arrived dt
  s.closed ((f (u.begun h c)).finished (u.opFor h c) r detail data hostBuf extra).netOut

/-- The same with the result OK and inline data. -/
def State.endsOk (dt : Nat) (h : CmdHead) (c : HostCmd) (s : State) (data : Bytes) (f : State → State) : State :=
  s.endsAs dt h c .ok 0 data false [] f

/-- The same with a result other than OK: nothing else changed. -/
def State.endsNot (dt : Nat) (h : CmdHead) (c : HostCmd) (s : State) (r : Result) (detail : Nat) : State :=
  s.endsAs dt h c r detail [] false [] fun b => b

/-- The state after a command that came alone `dt` cycles later and waits: `f` is what it changed. -/
def State.startsWait (dt : Nat) (h : CmdHead) (c : HostCmd) (s : State) (w : Wait) (f : State → State) : State :=
  let u := s.arrived dt
  s.closed ((f (u.begun h c)).waiting (u.opFor h c) w).netOut

/-- The state after a command that came alone `dt` cycles later and was carried out with an answer: its new state, and its completion or
what it waits for. -/
def State.endsReply (dt : Nat) (h : CmdHead) (c : HostCmd) (s : State) (x : State × Reply) : State :=
  let o := (s.arrived dt).opFor h c
  s.closed (match x.2 with
    | .done r d data hb extra => x.1.finished o r d data hb extra
    | .wait w => x.1.waiting o w).netOut

/-- The highest stage that a monitor or PWR_WARN demands (R444). -/
def State.demanded (s : State) : Nat := s.demands.foldl (fun m d => max m d.2) 0

/-- The TAI instant of an IRIG-B frame's reference marker (R103). -/
def State.irigTai (f : IrigFrame) (u : State) : Nat :=
  let year := if 4 ≤ f.format.val then f.year else u.fld 0x205 0 2000 (·.u16 0xC)
  let utcNs : Nat := daysTo year * 86400000000000 + f.utcOfYear
  let x := if u.domSource .b == 1 && u.domSource .a != 1 then Dom.b else Dom.a
  ((utcNs : Int) + u.utcOf x * 1000000000).toNat

/-! ### Rows as host commands -/

/-- The host command that a row stands for, with the time before it and its header. FW_UPDATE WRITE is not among them: its row also
puts the host's bytes into the buffer first. -/
def Instr.asHost : Instr → Option (Nat × CmdHead × HostCmd)
  | .hello dt h drv maj min rsv => some (dt, h, .hello drv maj min rsv)
  | .featuresCommit dt h req => some (dt, h, .featuresCommit req)
  | .modeSet dt h mode mflags rsv => some (dt, h, .modeSet mode mflags rsv)
  | .statusGet dt h => some (dt, h, .statusGet)
  | .configBegin dt h baseGen tflags => some (dt, h, .configBegin baseGen tflags)
  | .configRecord dt h env => some (dt, h, .staging 0x11 env)
  | .configCommit dt h txn rsv => some (dt, h, .configCommit txn rsv)
  | .configAbort dt h txn rsv => some (dt, h, .configAbort txn rsv)
  | .instanceCreate dt h env => some (dt, h, .staging 0x20 env)
  | .instanceDelete dt h env => some (dt, h, .staging 0x21 env)
  | .settingsWrite dt h env => some (dt, h, .staging 0x22 env)
  | .settingsRead dt h inst source rsv buf => some (dt, h, .settingsRead inst source rsv buf)
  | .place dt h txn pflags => some (dt, h, .place txn pflags)
  | .placementGet dt h source select first count rsv buf => some (dt, h, .placementGet source select first count rsv buf)
  | .streamSubscribe dt h env => some (dt, h, .staging 0x40 env)
  | .streamUnsubscribe dt h env => some (dt, h, .staging 0x41 env)
  | .acqConfigure dt h env => some (dt, h, .staging 0x50 env)
  | .armCont dt h group rsv tArm buf => some (dt, h, .acqArm 1 group rsv tArm buf)
  | .armSingle dt h group rsv tArm buf => some (dt, h, .acqArm 2 group rsv tArm buf)
  | .disarm dt h group rsv tArm buf => some (dt, h, .acqArm 3 group rsv tArm buf)
  | .force dt h group rsv tArm buf => some (dt, h, .acqArm 4 group rsv tArm buf)
  | .skewMeasure dt h group rsv tArm buf => some (dt, h, .acqArm 5 group rsv tArm buf)
  | .segmentRead dt h group seg rflags buf => some (dt, h, .segmentRead group seg rflags buf)
  | .convConfigure dt h env => some (dt, h, .staging 0x60 env)
  | .setPoint dt h a => some (dt, h, .convSetpoint 0 a)
  | .deblock dt h a => some (dt, h, .convSetpoint 1 a)
  | .block dt h a => some (dt, h, .convSetpoint 2 a)
  | .compTableWrite dt h env => some (dt, h, .staging 0x62 env)
  | .traceArm dt h a => some (dt, h, .traceConfigure 1 a)
  | .traceDisarm dt h a => some (dt, h, .traceConfigure 2 a)
  | .traceForce dt h a => some (dt, h, .traceConfigure 3 a)
  | .traceRead dt h first count chMask rflags rsv buf => some (dt, h, .traceRead first count chMask rflags rsv buf)
  | .valveConfigure dt h env => some (dt, h, .staging 0x70 env)
  | .valveSleep dt h lanes rsv => some (dt, h, .valveSleep lanes rsv)
  | .valveWake dt h lanes wId wIdMask wData wDataMask => some (dt, h, .valveWake lanes wId wIdMask wData wDataMask)
  | .logicLoad dt h env => some (dt, h, .staging 0x80 env)
  | .logicRun dt h tasks start rsv => some (dt, h, .logicRun tasks start rsv)
  | .logicStop dt h tasks start rsv => some (dt, h, .logicStop tasks start rsv)
  | .portConfigure dt h env => some (dt, h, .staging 0x90 env)
  | .switchConfigure dt h env => some (dt, h, .staging 0x91 env)
  | .timeConfigure dt h env => some (dt, h, .staging 0xA0 env)
  | .timeIncrementWrite dt h domain rsv inc => some (dt, h, .timeIncrementWrite domain rsv inc)
  | .timeStep dt h domain smode rsv value frac rsv2 => some (dt, h, .timeStep domain smode rsv value frac rsv2)
  | .eventAck dt h ackSeq aflags buf => some (dt, h, .eventAck ackSeq aflags buf)
  | .recordList dt h first kinds rsv count buf => some (dt, h, .recordList first kinds rsv count buf)
  | .recordRead dt h record format file rdflags offset buf => some (dt, h, .recordRead record format file rdflags offset buf)
  | .pairConfigure dt h env => some (dt, h, .staging 0xC0 env)
  | .transferNow dt h rsv => some (dt, h, .pairRevert 1 rsv)
  | .setInhibit dt h rsv => some (dt, h, .pairRevert 2 rsv)
  | .clearInhibit dt h rsv => some (dt, h, .pairRevert 3 rsv)
  | .calWrite dt h nItems cflags rsv entries => some (dt, h, .calWrite nItems cflags rsv entries)
  | .calRead dt h item obj rsv buf => some (dt, h, .calRead item obj rsv buf)
  | .fwVerify dt h rsv offset buf => some (dt, h, .fwUpdate 2 rsv offset buf [])
  | .fwActivate dt h rsv offset buf => some (dt, h, .fwUpdate 3 rsv offset buf [])
  | .fwConfirm dt h rsv offset buf => some (dt, h, .fwUpdate 4 rsv offset buf [])
  | .fwErase dt h rsv offset buf => some (dt, h, .fwUpdate 5 rsv offset buf [])
  | _ => none

/-- The unit that a row names exists on the part (R2): `l` says that the part is XG64-L-I. -/
def Instr.provided (l : Bool) : Instr → Bool
  | .executionComplete _ eng _ _ _ => !(l && 32 ≤ eng.val)
  | .acqOutput _ ch => !(l && 16 ≤ ch.val)
  | _ => true

/-! ### Batches (R47 to R54) -/

/-- Commands that each become an operation: none runs past its batch, and each tag is free when its command is parsed. -/
def State.fresh (s : State) (is_ : List Incoming) : Prop :=
  (∀ i ∈ is_, i.cut = none ∧ s.tagInFlight i.h.tag = false ∧ (i.h.path = .moe → s.keptOf i = none)) ∧ (is_.map (·.h.tag)).Nodup

/-- Operations that stand for commands, in their order. -/
def opsFor (l : List Op) (is_ : List Incoming) : Prop := l.map (fun o => (o.h, o.cmd)) = is_.map fun i => (i.h, i.cmd)

/-- The commands of the batch that a mailbox holds, where it is BUSY (R47, R49). -/
def State.batchOf (s : State) (n : Fin 16) : List Incoming :=
  let m := s.mb n.val
  if m.busy then parseBatch n .pcie 0 0 (Mem.readBytes 0 m.half 0 m.bytes) 257 0 else []

end Sys2Proof.Machine
end

