-- ==== Sys2Proof/Certificates/Slice0/Obligations.lean ====
section
/-!
DEFINITION. The statements for the provers. `s.arrived dt` is the state after the `dt` cycles that pass before a command, `s.closed t`
the state `t` of a command's effect with its events captured (log entry 1), `netOut` sends what the command made ready to send.
-/

open Sys2Proof Sys2Proof.Machine

/-! ### Commands and the queue -/

/-- A step takes the command at the front of the queue and carries it out on the state with the rest of the queue (log entry 2). -/
def Obligations.StepTakesTheFront : Prop :=
  ∀ (c : Instr) (q : List Instr) (s : State), step { s with pending := c :: q } = exec c { s with pending := q }

/-- With no command waiting the block idles (the model's choice, log entry 2). -/
def Obligations.EmptyQueueIdles : Prop := ∀ s : State, s.pending = [] → step s = .next s

/-- Every command on a unit that the part has goes on, and a report of a unit that XG64-L-I lacks is the one stop (R2). -/
def Obligations.EveryCommandGoesOn : Prop :=
  ∀ (i : Instr) (s : State),
    (Instr.provided s.part.reduced i = true → ∃ t, exec i s = .next t) ∧
    (Instr.provided s.part.reduced i = false → exec i s = .fault .notProvided)

/-- Every step keeps a part what it is, with every event captured: the order code and serial number stand, nothing raised is left
over, and the queue loses its front alone (R2, R43, R393). -/
def Obligations.EveryStepKeepsThePart : Prop :=
  ∀ (s t : State) (l : Bool) (n : U64), s.part.reduced = l → s.part.serial = n → s.ev.raised = [] → step s = .next t →
    t.part.reduced = l ∧ t.part.serial = n ∧ t.ev.raised = [] ∧ t.pending = s.pending.tail

/-- That invariant at reset: XG64-F-I as the model holds it (log entry 4), nothing raised. -/
def Obligations.ResetHoldsThePart : Prop :=
  State.reset.part.reduced = false ∧ State.reset.part.serial = 0 ∧ State.reset.ev.raised = [] ∧ State.reset.pending = []

/-- A queue of commands on units of the part is carried out to its end, in as many steps as it has commands. -/
def Obligations.QueueRunsToItsEnd : Prop :=
  ∀ s : State, (∀ i ∈ s.pending, Instr.provided s.part.reduced i = true) →
    ∃ t, runFor s.pending.length s = .next t ∧ t.pending = [] ∧ t.part.reduced = s.part.reduced ∧ t.part.serial = s.part.serial

/-- A change of DEV_MODE or DEV_STATUS sets bit 17 of DEV_IRQ_STATUS, and a bit that rises unmasked raises its vector (R43, R44). -/
def Obligations.StatusChangeIsSignalled : Prop :=
  ∀ (i : Instr) (s t : State), exec i s = .next t → t.part.inReset = false →
    (t.devMode ≠ s.devMode ∨ t.devStatus ≠ s.devStatus) → t.gaf.irqStatus.getLsbD 17 = true

/-- Passing time runs both domain clocks by their increments, without carry past 96 bits, and bleeds WORK_OFFSET towards 0 without
passing it; nothing else than the event system's owed entries and the outputs of the last command changes (R81, R89). In reset the
time unit stands (R449). -/
def Obligations.TimePasses : Prop :=
  ∀ (dt : Nat) (s : State),
    let t := s.arrived dt
    let u : Int := (s.bleed * 65536 * dt : Nat)
    (s.part.inReset = false →
      t.time.domA = { s.time.domA with count := (s.time.domA.count + dt * s.time.domA.inc) % 2 ^ 96 } ∧
      t.time.domB = { s.time.domB with count := (s.time.domB.count + dt * s.time.domB.inc) % 2 ^ 96 } ∧
      t.time.workOff = (if 0 ≤ s.time.workOff then max 0 (s.time.workOff - u) else min 0 (s.time.workOff + u)) ∧
      t = { s with time := { s.time with domA := t.time.domA, domB := t.time.domB, workOff := t.time.workOff }, emitted := [], ev := t.ev }) ∧
    (s.part.inReset = true → t = { s with emitted := [], ev := t.ev })

/-! ### The mailbox interface -/

/-- The checks of R59 in their order: a command that comes alone and fails steps 1 to 5 does nothing but answer. -/
def Obligations.HostChecksInOrder : Prop :=
  ∀ (i : Instr) (dt : Nat) (h : CmdHead) (c : HostCmd) (s : State), Instr.asHost i = some (dt, h, c) →
    (s.arrived dt).comesAlone h c = true →
    let b := (s.arrived dt).begun h c
    (∀ n, c.lengthErr = some n → exec i s = .next (s.endsNot dt h c .badLength n)) ∧
    (c.lengthErr = none →
      (4 ≤ h.flags.toNat → exec i s = .next (s.endsNot dt h c .badField 8)) ∧
      (h.flags.toNat < 4 →
        (h.rsv ≠ 0 → exec i s = .next (s.endsNot dt h c .badField 0xC)) ∧
        (h.rsv = 0 →
          (∀ f, b.lacks c = some f → exec i s = .next (s.endsNot dt h c .notNegotiated f)) ∧
          (∀ r d, b.lacks c = none → b.modeErr c = some (.done r d [] false []) → exec i s = .next (s.endsNot dt h c r d)))))

/-- Answering a command that came alone changes nothing beside its effect `f` but the mailbox, the operation, the network that carries
what is sent, and, where the answer announces a reset, that reset. -/
def Obligations.AnswerChangesTheInterface : Prop :=
  ∀ (dt : Nat) (h : CmdHead) (c : HostCmd) (s : State) (r : Result) (d : Nat) (data extra : Bytes) (hb : Bool) (f : State → State),
    let v := f ((s.arrived dt).begun h c)
    let t := s.endsAs dt h c r d data hb extra f
    (t.cfg = v.cfg ∧ t.cfgGen = v.cfgGen ∧ t.cfgValid = v.cfgValid ∧ t.place = v.place ∧ t.time = v.time ∧ t.trk = v.trk ∧ t.mar = v.mar ∧
      t.sv = v.sv ∧ t.acq = v.acq ∧ t.eng = v.eng ∧ t.conv = v.conv ∧ t.valve = v.valve ∧ t.log = v.log ∧ t.fio = v.fio) ∧
    (t.rec_ = v.rec_ ∧ t.pair = v.pair ∧ t.arb = v.arb ∧ t.cas = v.cas ∧ t.pwr = v.pwr ∧ t.store = v.store ∧ t.lehr = v.lehr ∧
      t.hostMem = v.hostMem ∧ t.pending = s.pending) ∧
    t.gaf = { v.gaf with ops := [], irqStatus := t.gaf.irqStatus, bootAt := t.gaf.bootAt } ∧
    (c.boots = false ∨ r ≠ .ok → t.gaf.bootAt = v.gaf.bootAt) ∧
    (∀ n, n ≠ h.mb.val → t.mb n = v.mb n)

/-- The completion entry of a command over PCIe with room in its ring: it stands in entry PROD mod 64 before PROD moves on, with the tag,
the opcode, the result and T_DONE, and NOTIFY sets the mailbox's bit of DEV_IRQ_STATUS (R55, R56). -/
def Obligations.CompletionGoesIntoTheRing : Prop :=
  ∀ (dt : Nat) (h : CmdHead) (c : HostCmd) (s : State) (r : Result) (d : Nat) (data extra : Bytes) (hb : Bool) (f : State → State),
    let v := f ((s.arrived dt).begun h c)
    let m := v.mb h.mb.val
    let t := s.endsAs dt h c r d data hb extra f
    h.path = .pcie → m.held = [] → (m.prod - m.cons).toNat < 64 → (c.boots = false ∨ r ≠ .ok) →
    t.mb h.mb.val = { m with
      prod := m.prod + 1
      ring := m.ring.put (m.prod.toNat % 64)
        { tag := h.tag, opcode := c.opcode, result := r.code, cflags := if hb then 2 else 0, detail := d, data := data.take 40,
          tDone := v.now / 65536, notify := h.flags.getLsbD 1, extra } } ∧
    (h.flags.getLsbD 1 = true → t.gaf.irqStatus.getLsbD h.mb.val = true)

/-- A full ring: the completion is held, and nothing in the ring is overwritten (R57). -/
def Obligations.FullRingHoldsTheCompletion : Prop :=
  ∀ (dt : Nat) (h : CmdHead) (c : HostCmd) (s : State) (r : Result) (d : Nat) (data extra : Bytes) (hb : Bool) (f : State → State),
    let m := (f ((s.arrived dt).begun h c)).mb h.mb.val
    let w := (s.endsAs dt h c r d data hb extra f).mb h.mb.val
    h.path = .pcie → (m.prod - m.cons).toNat ≥ 64 →
    w.ring = m.ring ∧ w.prod = m.prod ∧ w.ringFull = true ∧ ∃ x, w.held = m.held ++ [x] ∧ x.tag = h.tag ∧ x.result = r.code

/-- A command whose tag is in flight has no effect beside its answer, BAD_FIELD at the tag with DUP_TAG (R54). -/
def Obligations.TagInFlightIsRefused : Prop :=
  ∀ (i : Instr) (dt : Nat) (h : CmdHead) (c : HostCmd) (s : State), Instr.asHost i = some (dt, h, c) →
    let u := s.arrived dt
    u.reachable h = true → h.path = .pcie → u.tagInFlight h.tag = true → (u.mb h.mb.val).held = [] →
    ((u.mb h.mb.val).prod - (u.mb h.mb.val).cons).toNat < 64 →
    (∀ o ∈ u.gaf.ops, o.started = true ∧ o.wait ≠ .turn) → 
    ∃ t, exec i s = .next t ∧ t.gaf.ops = s.gaf.ops ∧
      (t.mb h.mb.val).ring.get { tag := 0, opcode := 0, result := 0, cflags := 0, detail := 0, data := [], tDone := 0, notify := false }
          ((s.mb h.mb.val).prod.toNat % 64) =
        { tag := h.tag, opcode := c.opcode, result := 4, cflags := 1, detail := 2, data := [], tDone := u.now / 65536,
          notify := h.flags.getLsbD 1 }

/-! ### Session, modes and configuration -/

/-- HELLO opens a session and returns the features offered and committed (R62); any other major version than 1 is BAD_FIELD at 0x20.
FEATURES_COMMIT commits what is requested and offered, unless a bit from 16 to 127 is requested or a feature in use withdrawn (R63).
STATUS_GET returns the 40 bytes of R69. -/
def Obligations.SessionCommands : Prop :=
  (∀ (dt : Nat) (h : CmdHead) (drv : BitVec 128) (maj min : U16) (rsv : U32) (s : State),
    let c : HostCmd := .hello drv maj min rsv
    let b := (s.arrived dt).begun h c
    (s.arrived dt).takes h c = true →
    (maj = 1 → rsv = 0 → exec (.hello dt h drv maj min rsv) s = .next (s.endsOk dt h c
      (packLe [(16, b.offered.toNat), (16, b.gaf.committed.toNat), (2, 1), (2, 0), (2, 16), (2, 0)])
      fun b => { b with gaf := { b.gaf with session := true } })) ∧
    (maj ≠ 1 → exec (.hello dt h drv maj min rsv) s = .next (s.endsNot dt h c .badField 0x20)) ∧
    (maj = 1 → rsv ≠ 0 → exec (.hello dt h drv maj min rsv) s = .next (s.endsNot dt h c .badField 0x24))) ∧
  (∀ (dt : Nat) (h : CmdHead) (req : BitVec 128) (s : State),
    let c : HostCmd := .featuresCommit req
    let b := (s.arrived dt).begun h c
    let new := (req &&& b.offered) ||| (if b.isArbiter then BitVec.ofNat 128 (2 ^ 14) else 0)
    (s.arrived dt).takes h c = true →
    ((∀ i, i < 112 → req.getLsbD (16 + i) = false) →
      (∀ i, i < 16 → b.gaf.committed.getLsbD i = true → new.getLsbD i = false → i ∉ b.usedFeatures) →
      exec (.featuresCommit dt h req) s = .next (s.endsOk dt h c (leBytes 16 new.toNat)
        fun b => { b with gaf := { b.gaf with committed := new } })) ∧
    (∀ i, i < 112 → req.getLsbD (16 + i) = true → (∀ j, j < i → req.getLsbD (16 + j) = false) →
      exec (.featuresCommit dt h req) s = .next (s.endsNot dt h c .badField (0x10000 + 16 + i)))) ∧
  (∀ (dt : Nat) (h : CmdHead) (s : State),
    let b := (s.arrived dt).begun h .statusGet
    let locked (d : Domain) : Nat := if d.state = .locked then 1 else 0
    let safe := if b.gaf.mode = .safeHold then b.gaf.safeCause.code else 0
    let rate := if (b.rec? 0x201 0).isSome then b.rate else 0
    (s.arrived dt).takes h .statusGet = true →
    exec (.statusGet dt h) s = .next (s.endsOk dt h .statusGet
      (packLe [(1, b.gaf.mode.code), (1, b.devMode / 256), (1, b.pwr.stage), (1, safe), (1, b.time.src.num),
        (1, locked b.time.domA + 2 * locked b.time.domB + 4 * (if b.timeSync then 1 else 0)), (1, b.roleCode), (1, if b.gaf.image then 1 else 0),
        (4, b.cfgGen.toNat), (2, rate), (2, b.ev.queue.length), (4, b.inFlightAll), (4, b.running),
        (4, (pruneAlarms b.ev.alarms).length), (12, 0)])
      fun b => b))

/-- MODE_SET (R66, R67): BOOT and the mode in force complete at once, BOOT with the instant of the reset; an unpaired change that R33
permits pends for the next tick and waits; a refused one answers WRONG_MODE with its condition. -/
def Obligations.ModeSetPends : Prop :=
  ∀ (dt : Nat) (h : CmdHead) (mode fl : Byte) (rsv : U16) (m : Mode) (s : State),
    let c : HostCmd := .modeSet mode fl rsv
    let b := (s.arrived dt).begun h c
    (s.arrived dt).takes h c = true → Mode.ofCode mode.toNat = some m → fl.toNat < 2 → rsv = 0 →
    (m = .boot → exec (.modeSet dt h mode fl rsv) s = .next (s.endsOk dt h c (leBytes 8 (b.now / 65536 + 100000)) fun b => b)) ∧
    (m ≠ .boot → m = b.gaf.mode → exec (.modeSet dt h mode fl rsv) s = .next (s.endsOk dt h c (leBytes 8 b.gaf.since) fun b => b)) ∧
    (m ≠ .boot → m ≠ b.gaf.mode → b.gaf.pend = none →
      (b.modeRefused m (fl.getLsbD 0) = none → m ≠ .safeHold → b.paired = false →
        exec (.modeSet dt h mode fl rsv) s = .next (s.startsWait dt h c .mode fun b =>
          { b with gaf := { b.gaf with pend := some { mode := m, by_ := .host, at_ := nextTickStart b.rate b.now, waits := false } } })) ∧
      (b.modeRefused m (fl.getLsbD 0) = none → m = .safeHold → b.gaf.mode ≠ .boot → b.gaf.romHold = false → b.part.inReset = false →
        exec (.modeSet dt h mode fl rsv) s = .next (s.startsWait dt h c .mode fun b =>
          { b with gaf := { b.gaf with pend := some { mode := .safeHold, by_ := .safe .modeSet, at_ := nextTickStart b.rate b.now, waits := false } } })) ∧
      (∀ d, b.modeRefused m (fl.getLsbD 0) = some d → exec (.modeSet dt h mode fl rsv) s = .next (s.endsNot dt h c .wrongMode d)))

/-- What R33 and R67 refuse on the way from COMMISSION to SERVICE, in the order of the conditions. -/
def Obligations.ServiceNeedsItsConditions : Prop :=
  ∀ (ov : Bool) (s : State), s.gaf.mode = .commission →
    s.modeRefused .service ov =
      (if s.cfgValid = false then some 2 else if s.place.proven = false then some 3 else if s.timeSync = false then some 4 else none)

/-- A pending SERVICE takes effect at its tick: the mode and the instant stand, nothing pends, EV_MODE tells it, and the outputs follow
(R34, R35, R66). Before its tick nothing changes. -/
def Obligations.ModeTakesEffect : Prop :=
  ∀ (dt : Nat) (p : PendMode) (s : State),
    let u := s.arrived dt
    u.part.inReset = false → u.gaf.pend = some p → p.waits = false → u.gaf.ops = [] →
    (u.now < p.at_ → exec (.modeTakeEffect dt) s = .next (s.closed u.netOut)) ∧
    (p.at_ ≤ u.now → p.mode = .service → (u.gaf.mode = .commission ∨ u.gaf.mode = .test ∨ u.gaf.mode = .standby) →
      ∃ o : State, exec (.modeTakeEffect dt) s = .next (s.closed o.outputs.netOut) ∧
        o = State.post (mkEv 0x1A 0 p.at_ [(1, u.gaf.mode.code), (1, 3), (1, p.cause.code), (1, 0), (2, (tickOf u.rate p.at_).2)])
          { u with gaf := { u.gaf with
              mode := .service, pend := none, since := p.at_ / 65536, safeCause := p.cause, powerDriven := p.cause == .power } })

/-- CONFIG_BEGIN opens the one transaction there may be, owned by its mailbox (R74); while one is open it is BUSY with the owner's
mailbox. CONFIG_ABORT of the owner discards it (R74), another mailbox's is BUSY (R76). After 60 s without a command it is aborted and
its number remembered (R76). -/
def Obligations.Transactions : Prop :=
  (∀ (dt : Nat) (h : CmdHead) (gen fl : U32) (s : State),
    let c : HostCmd := .configBegin gen fl
    let b := (s.arrived dt).begun h c
    (s.arrived dt).takes h c = true →
    (∀ t, b.gaf.txn = some t → exec (.configBegin dt h gen fl) s = .next (s.endsNot dt h c .busy t.mb.val)) ∧
    (b.gaf.txn = none → (gen = 0 ∨ gen = b.cfgGen) → fl.toNat < 2 →
      exec (.configBegin dt h gen fl) s = .next (s.endsOk dt h c (packLe [(4, b.gaf.nextTxn.toNat), (4, b.cfgGen.toNat)]) fun b =>
        { b with gaf := { b.gaf with
            txn := some { id := b.gaf.nextTxn, mb := h.mb, path := h.path, base := b.cfgGen, fromEmpty := fl.getLsbD 0, last := b.now }
            nextTxn := nextNum b.gaf.nextTxn } })) ∧
    (b.gaf.txn = none → gen ≠ 0 → gen ≠ b.cfgGen → exec (.configBegin dt h gen fl) s = .next (s.endsNot dt h c .badField 0x10))) ∧
  (∀ (dt : Nat) (h : CmdHead) (id rsv : U32) (t : Txn) (s : State),
    let c : HostCmd := .configAbort id rsv
    let b := (s.arrived dt).begun h c
    (s.arrived dt).takes h c = true → b.gaf.txn = some t → t.id = id → rsv = 0 →
    (t.mb = h.mb → t.path = h.path → t.committing = false →
      exec (.configAbort dt h id rsv) s = .next (s.endsOk dt h c [] fun b => { b with gaf := { b.gaf with txn := none } })) ∧
    (t.mb ≠ h.mb → exec (.configAbort dt h id rsv) s = .next (s.endsNot dt h c .busy t.mb.val))) ∧
  (∀ (dt : Nat) (t : Txn) (s : State),
    let u := s.arrived dt
    u.part.inReset = false → u.gaf.txn = some t → t.committing = false → (∀ o ∈ u.gaf.ops, o.wait = .turn) →
    (u.now < t.last + 60 * 1000000000 * 65536 → exec (.txnIdleTimeout dt) s = .next (s.closed u)) ∧
    (t.last + 60 * 1000000000 * 65536 ≤ u.now → exec (.txnIdleTimeout dt) s = .next (s.closed
      { u with gaf := { u.gaf with txn := none, txnTimedOut := (t.id, t.last) :: u.gaf.txnTimedOut } })))

/-- Each staging command and CONFIG_RECORD in the open transaction of its mailbox: records that pass their checks are staged, all of
them, after those of earlier commands, and what was placed before no longer counts (R72, R74); a bad field rejects the command whole
and leaves the records staged before. -/
def Obligations.StagingInATransaction : Prop :=
  ∀ (i : Instr) (dt : Nat) (h : CmdHead) (op : Nat) (e : Envelope) (t : Txn) (s : State),
    Instr.asHost i = some (dt, h, .staging op e) →
    let c : HostCmd := .staging op e
    let b := (s.arrived dt).begun h c
    (s.arrived dt).takes h c = true → e.txn ≠ 0 → b.gaf.txn = some t → t.id = e.txn → t.mb = h.mb → t.path = h.path →
    t.committing = false →
    (∀ rs, envRaws e = .ok rs → b.stagingBad op e t.fromEmpty t.staged = none →
      exec i s = .next (s.endsOk dt h c [] fun b => { b with gaf := { b.gaf with
        txn := some { t with last := b.now, staged := t.staged ++ rs.map RawRec.staged, placed := none } } })) ∧
    (∀ o, b.stagingBad op e t.fromEmpty t.staged = some o →
      exec i s = .next (s.endsAs dt h c .badField (0x10 + o) [] false [] fun b => { b with gaf := { b.gaf with
        txn := some { t with last := b.now } } }))

/-- A staging command outside a transaction is one of its own (R72): where it passes its checks and is placed, the new bank is begun in
the slot that does not hold the newest, with the next generation, and the command waits for the commit (R77, R459, R461). -/
def Obligations.StagingOfItsOwn : Prop :=
  ∀ (i : Instr) (dt : Nat) (h : CmdHead) (op : Nat) (e : Envelope) (raws : List RawRec) (p : Placement) (s : State),
    Instr.asHost i = some (dt, h, .staging op e) →
    let c : HostCmd := .staging op e
    let b := (s.arrived dt).begun h c
    let staged := raws.map RawRec.staged
    let recs := compose (b.txnBase false) staged
    let slot := freeSlot b.store.cfg0 b.store.cfg1
    let gen := nextGen b.store.cfg0 b.store.cfg1
    let commit : Commit :=
      { recs, place := p, gen, features := b.gaf.committed, changed := changedKeys b.allRecs recs staged false, txn := none, master := false }
    (s.arrived dt).takes h c = true → e.txn = 0 → envRaws e = .ok raws → b.gaf.txn = none → b.gaf.commit = none → b.pwr.warn = false →
    b.stagingBad op e false [] = none → b.gaf.mode = .commission → b.crossErr recs (sentSettings staged) = none →
    b.placeNow recs false = .placed p → b.cascaded = false →
    exec i s = .next (s.startsWait dt h c .commit fun b =>
      { b with
        store := b.store.setCfg slot (.interrupted gen.toNat)
        lehr := { b.lehr with eraseCounts := b.lehr.eraseCounts.modify 0 (if slot then 1 else 0) (· + 1) }
        gaf := { b.gaf with commit := some commit } })

/-! ### Banks, placement, data returned, firmware -/

/-- CONFIG_COMMIT of the owner in COMMISSION, with a placement that the transaction holds already and all its engines in service: the new
bank is begun, the transaction is held by the commit, and the command waits (R74, R76, R77); under PWR_WARN it is BUSY with 0x10 and
writes nothing (R77). -/
def Obligations.CommitStarts : Prop :=
  ∀ (dt : Nat) (h : CmdHead) (id rsv : U32) (t : Txn) (p : Placement) (s : State),
    let c : HostCmd := .configCommit id rsv
    let b := (s.arrived dt).begun h c
    let recs := compose (b.txnBase t.fromEmpty) t.staged
    let slot := freeSlot b.store.cfg0 b.store.cfg1
    let gen := nextGen b.store.cfg0 b.store.cfg1
    let commit : Commit :=
      { recs, place := p, gen, features := b.gaf.committed, changed := changedKeys b.allRecs recs t.staged t.fromEmpty, txn := some id,
        master := false }
    (s.arrived dt).takes h c = true → b.gaf.txn = some t → t.id = id → t.mb = h.mb → t.path = h.path → t.committing = false →
    (b.pwr.warn = true → exec (.configCommit dt h id rsv) s = .next (s.endsNot dt h c .busy 0x10)) ∧
    (b.pwr.warn = false → rsv = 0 → b.gaf.commit = none → b.gaf.mode = .commission → t.placed = some p → b.lostEngine p = false →
      b.crossErr recs (sentSettings t.staged) = none → b.cascaded = false →
      exec (.configCommit dt h id rsv) s = .next (s.startsWait dt h c .commit fun b =>
        { b with
          store := b.store.setCfg slot (.interrupted gen.toNat)
          lehr := { b.lehr with eraseCounts := b.lehr.eraseCounts.modify 0 (if slot then 1 else 0) (· + 1) }
          gaf := { b.gaf with commit := some commit, txn := some { t with last := b.now, committing := true } } }))

/-- A bank is valid once its marker stands: a configuration bank takes effect from the first tick that starts after it (R77, R461), a
calibration bank's items wait for theirs (R465). -/
def Obligations.MarkerMakesTheBankValid : Prop :=
  (∀ (dt : Nat) (c : Commit) (s : State),
    let u := s.arrived dt
    u.part.inReset = false → u.gaf.commit = some c → c.marker = none → c.cascade = false → c.master = false → u.cascaded = false →
    exec (.bankMarkerWritten dt .config) s = .next (s.closed { u with
      store := { u.store.setCfg (freeSlot u.store.cfg0 u.store.cfg1) (.valid c.gen { recs := c.recs, features := c.features, place := c.place })
        with cfgUse := some (freeSlot u.store.cfg0 u.store.cfg1) }
      gaf := { u.gaf with commit := some { c with marker := some u.now, effect := some (nextTickStart u.rate u.now) } } })) ∧
  (∀ (dt : Nat) (c : CalCommit) (s : State),
    let u := s.arrived dt
    u.part.inReset = false → u.store.calCommit = some c → c.marker = none →
    exec (.bankMarkerWritten dt .cal) s = .next (s.closed { u with
      store := { u.store.setCal (freeSlot u.store.cal0 u.store.cal1) (.valid c.gen c.items)
        with calUse := some (freeSlot u.store.cal0 u.store.cal1), calCommit := some { c with marker := some u.now } } }))

/-- At its effect tick a committed configuration is the one in use, with its generation and its placement; converter and valve records
wait for the next matrix boundary, the transaction is closed, and the commit completes with NEW_GEN, T_EFFECT and EFFECT_TICK (R77). What
each family does with its changed records is `applyChange` and `applyDomains`. Before the tick nothing is applied. -/
def Obligations.CommitTakesEffect : Prop :=
  ∀ (dt : Nat) (c : Commit) (at_ : Fine) (s : State),
    let u := s.arrived dt
    let v : State := { u with
      gaf := { u.gaf with
        commit := none
        txn := if (u.gaf.txn.any fun x => c.txn == some x.id) then none else u.gaf.txn.map fun (x : Txn) => { x with placed := none } }
      cfg := sortRecs ((c.recs.filter fun r => !within 7 8 (r.rtype / 256)) ++ u.cfg.filter fun r => within 7 8 (r.rtype / 256))
      conv := { u.conv with newRecs := some (nextMatrix at_, c.recs.filter fun r => within 7 8 (r.rtype / 256)) }
      cfgGen := c.gen, cfgValid := true, place := c.place, cas := { u.cas with written := none } }
    let w := ((v.applyChange { old := u.cfg, keys := c.changed, at_ }).applyDomains { old := u.cfg, keys := c.changed, at_ }).outputs
    let x := if u.place.assigned == w.place.assigned then w else w.evPlacement 0xFFFF 3
    let y := x.finishWaiting (fun o => o.wait == .commit) fun _ =>
      (.ok, 0, packLe [(4, c.gen.toNat), (4, 0), (8, at_ / 65536), (2, (tickOf x.rate at_).2)])
    u.part.inReset = false → u.gaf.commit = some c → c.master = false → c.cascade = false → c.marker.isSome = true → c.effect = some at_ →
    (at_ ≤ u.now → exec (.configApply dt) s = .next (s.closed ((y.noteSync u.timeSync).calApply).settleOut)) ∧
    (u.now < at_ → u.store.calCommit = none → u.gaf.ops = [] → exec (.configApply dt) s = .next (s.closed u.netOut))

/-- CAL_WRITE in COMMISSION or TEST: the bank with the items put in or deleted is begun in the slot that does not hold the newest, and the
command waits for it (R459, R463, R465); under PWR_WARN it is BUSY with 0x10. -/
def Obligations.CalWriteStarts : Prop :=
  ∀ (dt : Nat) (h : CmdHead) (n fl : U16) (rsv : U32) (entries : Bytes) (es : List CalEntry) (s : State),
    let c : HostCmd := .calWrite n fl rsv entries
    let b := (s.arrived dt).begun h c
    let p := calPayload n fl rsv entries
    let slot := freeSlot b.store.cal0 b.store.cal1
    let gen := nextGen b.store.cal0 b.store.cal1
    let items := es.foldl (fun (its : List CalItem) e =>
      if bitOf (p.u16 2) 0 then its.filter fun y => !(y.item == e.item && y.obj == e.obj)
      else putItem { item := e.item, obj := e.obj, data := e.data } its) b.store.items
    (s.arrived dt).takes h c = true →
    (b.pwr.warn = true → exec (.calWrite dt h n fl rsv entries) s = .next (s.endsNot dt h c .busy 0x10)) ∧
    (b.pwr.warn = false → firstBad (calChecks b.part.reduced p) = none → calEntries p (p.u16 0) 8 [] = .ok es →
      exec (.calWrite dt h n fl rsv entries) s = .next (s.startsWait dt h c .cal fun b =>
        { b with
          store := { b.store.setCal slot (.interrupted gen.toNat) with calCommit := some { items, gen, op := some s.gaf.opSeq } }
          lehr := { b.lehr with eraseCounts := b.lehr.eraseCounts.modify 0 (2 + if slot then 1 else 0) (· + 1) } }))

/-- PLACE of the owner places in the background and waits; its end makes the placement part of the transaction, or under DRY_RUN keeps
it for one PLACEMENT_GET, and completes with the report, or with PLACEMENT_REFUSED (R74, R265). -/
def Obligations.PlaceCommands : Prop :=
  (∀ (dt : Nat) (h : CmdHead) (id fl : U32) (t : Txn) (s : State),
    let c : HostCmd := .place id fl
    let b := (s.arrived dt).begun h c
    let recs := compose (b.txnBase t.fromEmpty) t.staged
    let touch (b : State) : State := { b with gaf := { b.gaf with txn := some { t with last := b.now } } }
    (s.arrived dt).takes h c = true → b.gaf.txn = some t → t.id = id → t.mb = h.mb → t.path = h.path → t.committing = false →
    fl.toNat < 4 → (touch b).crossErr recs (sentSettings t.staged) = none →
    (∀ p, (touch b).placeNow recs (fl.getLsbD 0) = .placed p →
      exec (.place dt h id fl) s = .next (s.startsWait dt h c (.placing .ok 0 p.report (some p) (fl.getLsbD 1)) touch)) ∧
    (∀ f, (touch b).placeNow recs (fl.getLsbD 0) = .refused f →
      exec (.place dt h id fl) s = .next (s.startsWait dt h c (.placing .placementRefused f.reason f.data none (fl.getLsbD 1)) touch))) ∧
  (∀ (dt : Nat) (o : Op) (r : Result) (d : Nat) (data : Bytes) (p : Placement) (dry : Bool) (s : State),
    let u := s.arrived dt
    u.part.inReset = false → u.gaf.ops = [o] → o.wait = .placing r d data (some p) dry → o.outcome = none →
    exec (.placeComplete dt) s = .next (s.closed (State.finished o r d data false [] { u with
      gaf := if dry then { u.gaf with dryRun := some p }
        else { u.gaf with txn := u.gaf.txn.map fun (t : Txn) => { t with placed := some p } } }).netOut))

/-- How data returns through a buffer descriptor (R51, R52): nothing under KIND 0; under KIND 1 into host memory before the completion,
which has HOSTBUF set, and elsewhere host memory stands; an access that is not answered waits, one that ends in an error status is TIMEOUT;
under KIND 2 beside the completion. -/
def Obligations.DataReturnsThroughTheBuffer : Prop :=
  ∀ (b : BufDesc) (data inline_ : Bytes) (s : State),
    (b.kind = 0 → s.deliver b data inline_ = (s, .done .ok 0 inline_ false [])) ∧
    (b.kind = 1 → data.take b.len.toNat ≠ [] → s.part.pcieUp = true → b.host = .answers →
      s.deliver b data inline_ =
        ({ s with hostMem := Mem.writeBytes 0 s.hostMem b.addr.toNat (data.take b.len.toNat) }, .done .ok 0 inline_ true [])) ∧
    (b.kind = 1 → data.take b.len.toNat ≠ [] → (s.part.pcieUp = false ∨ b.host = .silent) →
      s.deliver b data inline_ = (s, .wait (.host s.now))) ∧
    (b.kind = 1 → data.take b.len.toNat ≠ [] → s.part.pcieUp = true → b.host = .aborts →
      (s.deliver b data inline_).2 = .done .timeout 0 [] false []) ∧
    (b.kind = 2 → s.deliver b data inline_ = (s, .done .ok 0 inline_ false (padTo 16 (data.take b.len.toNat))))

/-- The commands that read back what the device holds: PLACEMENT_GET of the placement in use (R266), SETTINGS_READ of committed settings
(R79), CAL_READ of all items of a kind (R466), RECORD_LIST and RECORD_READ in native form (R408 to R411). Nothing but the buffer changes. -/
def Obligations.ReadingBack : Prop :=
  (∀ (dt : Nat) (h : CmdHead) (first n : U16) (buf : BufDesc) (s : State),
    let c : HostCmd := .placementGet 0 0 first n 0 buf
    let b := (s.arrived dt).begun h c
    let es := ((List.range n.toNat).map (first.toNat + ·)).filterMap fun k => (b.place.insts.find? k).map fun x => PlacedInst.entry k x
    let fit := bufFits buf 32 es.length
    (s.arrived dt).takes h c = true → first.toNat < numInsts b.part.reduced → 1 ≤ n.toNat → n.toNat ≤ 1024 → bufBad buf 8 h.path = none →
    (b.place.proven = true → exec (.placementGet dt h 0 0 first n 0 buf) s = .next (s.endsReply dt h c (b.deliver buf (es.take fit).flatten
      (packLe [(4, b.place.digest.toNat), (4, b.place.inputDigest.toNat), (4, b.cfgGen.toNat), (2, fit), (2, b.place.maxUtil)])))) ∧
    (b.place.proven = false → exec (.placementGet dt h 0 0 first n 0 buf) s = .next (s.endsNot dt h c .noResource 0x0601))) ∧
  (∀ (dt : Nat) (h : CmdHead) (inst : U16) (buf : BufDesc) (body : Bytes) (s : State),
    let c : HostCmd := .settingsRead inst 0 0 buf
    let b := (s.arrived dt).begun h c
    let data := setBody inst.toNat (allSettings (body.u8 0) (valsOf b.allRecs inst.toNat))
    (s.arrived dt).takes h c = true → recIn b.allRecs 0x501 inst.toNat = some body → bufBad buf 4 h.path = none →
    ((buf.kind ≠ 1 ∨ data.length ≤ buf.len.toNat) → exec (.settingsRead dt h inst 0 0 buf) s =
      .next (s.endsReply dt h c (b.deliver buf data (packLe [(4, min (bufRoom buf) data.length), (4, 0)])))) ∧
    (buf.kind = 1 → buf.len.toNat < data.length → exec (.settingsRead dt h inst 0 0 buf) s = .next (s.endsNot dt h c .badField 0x1C))) ∧
  (∀ (dt : Nat) (h : CmdHead) (item : U16) (buf : BufDesc) (s : State),
    let c : HostCmd := .calRead item 0xFFFF 0 buf
    let b := (s.arrived dt).begun h c
    let bytes (x : CalItem) : Bytes := packLe [(2, x.item), (2, x.obj), (4, x.data.length)] ++ padTo 4 x.data
    let es := b.store.items.filter fun x => x.item == item.toNat
    (s.arrived dt).takes h c = true → 1 ≤ item.toNat → item.toNat ≤ 3 → bufBad buf 8 h.path = none → b.gaf.romHold = false →
    (es = [] → exec (.calRead dt h item 0xFFFF 0 buf) s = .next (s.endsNot dt h c .noResource 0x0D01)) ∧
    (es ≠ [] → (es.map fun x => (bytes x).length).sum ≤ bufRoom buf → exec (.calRead dt h item 0xFFFF 0 buf) s =
      .next (s.endsReply dt h c (b.deliver buf (es.flatMap bytes) (packLe [(4, b.store.calGen.toNat), (2, es.length)]))))) ∧
  (∀ (dt : Nat) (h : CmdHead) (first : U32) (kinds : Byte) (n : U16) (buf : BufDesc) (s : State),
    let c : HostCmd := .recordList first kinds 0 n buf
    let b := (s.arrived dt).begun h c
    let rs := b.rec_.records
    let want := rs.filter fun r => decide (first.toNat ≤ r.num) && bitOf kinds.toNat (if r.archive then 1 else 0)
    let fit := min n.toNat (bufFits buf 32 want.length)
    (s.arrived dt).takes h c = true → b.rec_.ddr = true → kinds.toNat ≤ 3 → 1 ≤ n.toNat → n.toNat ≤ 4096 → bufBad buf 8 h.path = none →
    exec (.recordList dt h first kinds 0 n buf) s = .next (s.endsReply dt h c (b.deliver buf ((want.take fit).flatMap Record.entry)
      (packLe [(4, rs.length), (4, (rs.head?).elim 0 (·.num)), (4, (rs.getLast?).elim 0 (·.num)), (4, b.areaFree false / 2 ^ 20),
        (4, b.areaFree true / 2 ^ 20), (4, b.rec_.missed), (4, b.rec_.overwritten), (2, fit), (10, 0)])))) ∧
  (∀ (dt : Nat) (h : CmdHead) (num : U32) (off : U64) (buf : BufDesc) (r : Record) (s : State),
    let c : HostCmd := .recordRead num 0 0 0 off buf
    let b := (s.arrived dt).begun h c
    let data := (r.native.drop off.toNat).take (bufRoom buf)
    (s.arrived dt).takes h c = true → b.rec_.ddr = true → bufBad buf 0x10 h.path = none →
    (b.rec_.records.find? (fun x => x.num == num.toNat) = some r → exec (.recordRead dt h num 0 0 0 off buf) s =
      .next (s.endsReply dt h c (b.deliver buf data (packLe [(4, data.length), (8, r.native.length), (1, r.state)])))) ∧
    (b.rec_.records.find? (fun x => x.num == num.toNat) = none → exec (.recordRead dt h num 0 0 0 off buf) s =
      .next (s.endsNot dt h c .noResource 0xB01)))

/-- SEGMENT_READ of a closed segment returns its header and samples, and under RELEASE the segment is free afterwards (R159, R171);
TRACE_READ of a held set returns its rows of the channels asked for, and under RELEASE the set is idle (R295). -/
def Obligations.ReadingSegmentsAndTraces : Prop :=
  (∀ (dt : Nat) (h : CmdHead) (g seg : U16) (fl : U32) (buf : BufDesc) (x : Segment) (s : State),
    let c : HostCmd := .segmentRead g seg fl buf
    let b := (s.arrived dt).begun h c
    let data := (segBytes g.toNat seg.toNat x (fl.getLsbD 1)).take (bufRoom buf)
    let out := b.deliver buf data (packLe [(2, seg.toNat), (2, 0), (4, x.seq), (4, data.length)])
    (s.arrived dt).takes h c = true → g.toNat ≤ 7 → fl.toNat ≤ 3 → bufBad buf 8 h.path = none → seg ≠ 0xFFFF →
    (((b.grp g.toNat).segs.filter fun y => y.2.state == .closed).find? fun y => y.1 == seg.toNat) = some (seg.toNat, x) →
    exec (.segmentRead dt h g seg fl buf) s =
      .next (s.endsReply dt h c (if fl.getLsbD 0 then out.1.releaseSegment g.toNat seg.toNat else out.1, out.2))) ∧
  (∀ (dt : Nat) (h : CmdHead) (first n : U32) (mask fl : U16) (buf : BufDesc) (a : TraceArgs) (s : State),
    let c : HostCmd := .traceRead first n mask fl 0 buf
    let b := (s.arrived dt).begun h c
    let t := b.conv.trace
    let xs := t.samples.reverse
    let start (k : Nat) : Nat := k / 100000 * 1000000000 + k % 100000 * 10000
    let span := (xs.drop first.toNat).take n.toNat
    let chans := ((List.range a.nCh.toNat).filter (bitOf mask.toNat)).flatMap fun j => span.flatMap fun x => leBytes 4 (x.2.getD j 0).toNat
    let data := ((if a.div = 0 then span.flatMap fun x => leBytes 8 (start x.1) else []) ++ chans).take (bufRoom buf)
    let trig := (xs[t.preValid]?).elim 0 (·.1)
    let out := b.deliver buf data (packLe [(8, start trig), (4, trig % 100000), (4, t.preValid), (2, a.div.toNat), (2, 3), (4, t.loss),
      (4, data.length)] ++ zeros 12)
    (s.arrived dt).takes h c = true → t.state = .held → t.args = some a → first.toNat < xs.length → 1 ≤ n.toNat → n.toNat ≤ 65536 →
    first.toNat + n.toNat ≤ xs.length → mask.toNat < 2 ^ a.nCh.toNat → fl.toNat < 2 → bufBad buf 0x10 h.path = none →
    exec (.traceRead dt h first n mask fl 0 buf) s =
      .next (s.endsReply dt h c (if fl.getLsbD 0 then { out.1 with conv := { out.1.conv with trace := { } } } else out.1, out.2)))

/-- EVENT_ACK (R397, R398): with ACK_VALID the entries up to ACK_SEQ count as acknowledged, those that the record writer has passed too
are freed, and the counts that stand then are returned. -/
def Obligations.EventAckFrees : Prop :=
  ∀ (dt : Nat) (h : CmdHead) (ack : U32) (buf : BufDesc) (s : State),
    let c : HostCmd := .eventAck ack 1 buf
    let b := (s.arrived dt).begun h c
    let acked : State := { b with ev := { b.ev with
      lastAck := ack, queue := b.ev.queue.map fun e => if seqLe e.seq ack then { e with acked := true } else e } }
    let v := acked.freeEntries
    (s.arrived dt).takes h c = true → bufBad buf 8 h.path = none →
    (seqLe ack (b.ev.nextSeq - 1) = true →
      exec (.eventAck dt h ack 1 buf) s = .next (s.endsReply dt h c (v.deliver buf [] (packLe
        [(4, v.ev.nextSeq.toNat), (4, (v.ev.queue.head?.elim v.ev.nextSeq (·.seq)).toNat), (2, v.ev.queue.length),
          (2, (v.ev.alarms.filter fun a => !a.raised.isEmpty).length), (2, (v.ev.alarms.filter (·.unack)).length), (2, 0), (4, v.ev.lost),
          (20, 0)])))) ∧
    (seqLe ack (b.ev.nextSeq - 1) = false → exec (.eventAck dt h ack 1 buf) s = .next (s.endsNot dt h c .badField 0x10))


/-! ### The firmware image -/

/-- FW_UPDATE of the slot that is not running (R457): WRITE takes the bytes of its host buffer, WRITE, VERIFY and ERASE wait for the flash,
ACTIVATE after a good VERIFY makes that slot ACTIVE on trial, and CONFIRM ends the trial and raises the security counter to the running
image's SEC_VER. -/
def Obligations.FirmwareCommands : Prop :=
  (∀ (dt : Nat) (h : CmdHead) (off : U32) (buf : BufDesc) (img : Bytes) (s : State),
    let c : HostCmd := .fwUpdate 1 0 off buf img
    let u := (s.arrived dt).hostPut buf img
    u.takes h c = true → u.pwr.warn = false → buf.kind = 1 → buf.rsv = 0 → buf.addr.toNat % 4 = 0 → buf.len.toNat % 4096 = 0 →
    off.toNat % 4096 = 0 → buf.len.toNat ≤ 1048576 → off.toNat + buf.len.toNat ≤ 29360128 →
    buf.host = .answers → (u.part.pcieUp = true ∨ h.path = .pcie) →
    exec (.fwWrite dt h 0 off buf img) s = .next (s.closed (State.waiting (u.opFor h c) .flash { u.begun h c with
      store := { u.store with verified := false, job := some (.write off.toNat (Mem.readBytes 0 u.hostMem buf.addr.toNat buf.len.toNat)) } }).netOut)) ∧
  (∀ (dt : Nat) (h : CmdHead) (off : U32) (buf : BufDesc) (s : State),
    let c (n : Byte) : HostCmd := .fwUpdate n 0 off buf []
    let u := s.arrived dt
    buf.addr = 0 → buf.kind = 0 → buf.rsv = 0 →
    (u.takes h (c 2) = true → exec (.fwVerify dt h 0 off buf) s =
      .next (s.startsWait dt h (c 2) .flash fun b => { b with store := { b.store with job := some .verify } })) ∧
    (u.takes h (c 5) = true → u.pwr.warn = false → exec (.fwErase dt h 0 off buf) s =
      .next (s.startsWait dt h (c 5) .flash fun b => { b with store := { b.store with verified := false, job := some .erase } })) ∧
    (u.takes h (c 5) = true → u.pwr.warn = true → exec (.fwErase dt h 0 off buf) s = .next (s.endsNot dt h (c 5) .busy 0x10)) ∧
    (u.takes h (c 3) = true → u.pwr.warn = false → u.store.verified = true → exec (.fwActivate dt h 0 off buf) s =
      .next (s.endsOk dt h (c 3) [] fun b =>
        { b with store := { b.store with active := !b.gaf.image, trial := true, activateReset := true, verified := false } })) ∧
    (u.takes h (c 3) = true → u.pwr.warn = false → u.store.verified = false → exec (.fwActivate dt h 0 off buf) s =
      .next (s.endsNot dt h (c 3) .badField 0x10)) ∧
    (u.takes h (c 4) = true → u.pwr.warn = false → u.store.trial = true → u.gaf.romHold = false → exec (.fwConfirm dt h 0 off buf) s =
      .next (s.endsOk dt h (c 4) [] fun b =>
        let sec := BitVec.ofNat 32 (imageWord (b.store.image b.gaf.image) 0xC)
        { b with store := { b.store with
          trial := false, secVer := sec, otpSec := if b.store.otpSec.toNat < sec.toNat then sec else b.store.otpSec } })) ∧
    (u.takes h (c 4) = true → u.pwr.warn = false → u.store.trial = false → exec (.fwConfirm dt h 0 off buf) s =
      .next (s.endsOk dt h (c 4) [] fun b => b)))

/-- The end of a flash operation (R457): a WRITE has programmed its bytes and nothing else of the slot that is not running, an ERASE has
left it erased, and a VERIFY answers VERSION and SEC_VER where the checks of R456 hold and AUTH_FAIL where one fails. -/
def Obligations.FlashOperationEnds : Prop :=
  ∀ (dt : Nat) (crypto : Bool) (o : Op) (s : State),
    let u := s.arrived dt
    let slot := !u.gaf.image
    let m := u.store.image slot
    let good := imageValid m u.store.otpSec crypto
    u.part.inReset = false → u.gaf.ops = [o] → o.started = true → o.outcome = none → o.wait = .flash →
    (∀ off data, u.store.job = some (.write off data) → exec (.flashOpComplete dt crypto) s =
      .next (s.closed (State.finished o .ok 0 [] false []
        { u with store := { u.store.setImage slot (Mem.writeBytes 0xFF m off data) with job := none } }))) ∧
    (u.store.job = some .erase → exec (.flashOpComplete dt crypto) s =
      .next (s.closed (State.finished o .ok 0 [] false [] { u with store := { u.store.setImage slot [] with job := none } }))) ∧
    (u.store.job = some .verify → good = true → exec (.flashOpComplete dt crypto) s =
      .next (s.closed (State.finished o .ok 0 (packLe [(4, imageWord m 8), (4, imageWord m 0xC)]) false []
        { u with store := { u.store with job := none, verified := true } }))) ∧
    (u.store.job = some .verify → good = false → exec (.flashOpComplete dt crypto) s =
      .next (s.closed (State.finished o .authFail 0 [] false [] { u with store := { u.store with job := none, verified := false } })))

/-! ### Clock commands -/

/-- The commands of a host servo (R82, R83, R87): an increment in its bounds waits for the next multiple of 1,000 ns of that domain's
time, takes effect at the first command at or after it, and reports that time; a phase step moves the clock at once and reports the time
right after it. A step of the domain that supplies working time in SERVICE or STANDBY is absorbed by WORK_OFFSET and told (R90). -/
def Obligations.ClockCommands : Prop :=
  (∀ (dt : Nat) (h : CmdHead) (domain : Byte) (inc : U64) (s : State),
    let c : HostCmd := .timeIncrementWrite domain 0 inc
    let x := domOf domain
    (s.arrived dt).takes h c = true → domain.toNat ≤ 1 →
    ((s.arrived dt).hostServo x = true → 0xFFBE76C9 ≤ inc.toNat → inc.toNat ≤ 0x100418937 →
      exec (.timeIncrementWrite dt h domain 0 inc) s = .next (s.startsWait dt h c (.increment x) fun b =>
        let d := b.time.dom x
        { b with time := b.time.setDom x { d with
          pend := some (inc.toNat, (d.count / (1000 * 2 ^ 32) + 1) * (1000 * 2 ^ 32)) } })) ∧
    ((s.arrived dt).hostServo x = true → (inc.toNat < 0xFFBE76C9 ∨ 0x100418937 < inc.toNat) →
      exec (.timeIncrementWrite dt h domain 0 inc) s = .next (s.endsNot dt h c .badField 0x18)) ∧
    ((s.arrived dt).hostServo x = false →
      exec (.timeIncrementWrite dt h domain 0 inc) s = .next (s.endsNot dt h c .badField 0x10))) ∧
  (∀ (dt : Nat) (x : Dom) (o : Op) (inc at_ : Nat) (s : State),
    let u := s.arrived dt
    let d := u.time.dom x
    u.part.inReset = false → u.gaf.ops = [o] → o.started = true → o.outcome = none → o.wait = .increment x → d.pend = some (inc, at_) →
    (at_ ≤ d.count → exec (.incrementTakeEffect dt x) s = .next (s.closed (State.finished o .ok 0 (leBytes 8 (d.count / 2 ^ 32)) false []
      { u with time := u.time.setDom x { d with inc, pend := none } }).netOut)) ∧
    (d.count < at_ → (exec (.incrementTakeEffect dt x) s = .next (s.closed u.settleOut)))) ∧
  (∀ (dt : Nat) (h : CmdHead) (domain mode : Byte) (value : U64) (frac : U16) (s : State),
    let c : HostCmd := .timeStep domain mode 0 value frac 0
    let x := domOf domain
    let b := (s.arrived dt).begun h c
    let d := b.time.dom x
    let delta : Int := if mode = 0 then value.toInt * 2 ^ 32 + (frac.toNat * 65536 : Nat)
      else (value.toNat * 2 ^ 32 : Nat) + (frac.toNat * 65536 : Nat) - (d.count : Nat)
    let v : State := { b with time := b.time.setDom x (d.step delta) }
    let moved : Int := (d.step delta).t80 - d.t80
    (s.arrived dt).takes h c = true → domain.toNat ≤ 1 → mode.toNat ≤ 1 → b.hostServo x = true →
    (d.step delta).count = (((d.count : Int) + delta) % 2 ^ 96).toNat ∧
    ((x ≠ b.time.src ∨ (b.gaf.mode ≠ .service ∧ b.gaf.mode ≠ .standby)) →
      exec (.timeStep dt h domain mode 0 value frac 0) s =
        .next (s.endsOk dt h c (leBytes 8 ((d.step delta).count / 2 ^ 32)) fun _ => v.skipPulses.noteSync b.timeSync)) ∧
    (x = b.time.src → (b.gaf.mode = .service ∨ b.gaf.mode = .standby) →
      exec (.timeStep dt h domain mode 0 value frac 0) s =
        .next (s.endsOk dt h c (leBytes 8 ((d.step delta).count / 2 ^ 32)) fun _ =>
          (State.timeSwitched x x 4
            { v with time := { v.time with workOff := v.time.workOff + moved * 1000000000 } }).noteSync b.timeSync)))

/-! ### Acquisition groups -/

/-- ACQ_ARM on an idle group that is not of the cascade (R157, R170): at once where T_ARM has come, it takes a free segment, or with
FULL_MODE 0 the oldest closed one, and enters PARISON with an empty ring, or FULL where there is none; no other group changes, and the
answer is the instant. An armed group stays as it is, and a T_ARM ahead leaves the command waiting. -/
def Obligations.ArmTakesASegment : Prop :=
  ∀ (dt : Nat) (h : CmdHead) (group : Byte) (tArm : U64) (single : Bool) (s : State),
    let c : HostCmd := .acqArm (if single then 2 else 1) group 0 tArm none
    let i : Instr := if single then .armSingle dt h group 0 tArm none else .armCont dt h group 0 tArm none
    let b := (s.arrived dt).begun h c
    let n := group.toNat
    let g := b.grp n
    (s.arrived dt).takes h c = true → n ≤ 7 → (b.rec? 0x403 n).isSome = true → b.gflag n 1 = false →
    (b.now < tArm.toNat * 65536 → exec i s = .next (s.startsWait dt h c (.arm n) fun b => b)) ∧
    (tArm.toNat * 65536 ≤ b.now → g.state ≠ .idle → exec i s = .next (s.endsOk dt h c (leBytes 8 b.nowNs) fun b => b)) ∧
    (tArm.toNat * 65536 ≤ b.now → g.state = .idle → b.pwr.stage < 2 →
      ∃ v : State, exec i s = .next (s.endsOk dt h c (leBytes 8 b.nowNs) fun _ => v) ∧
        v = { b with acq := v.acq } ∧ v.acq.links = b.acq.links ∧ v.acq.chans = b.acq.chans ∧ (∀ m, m ≠ n → v.grp m = b.grp m) ∧
        (b.segToTake n = none → v.grp n = { g with
          mode := if single then .single else .cont, disarm := false, state := .full, cur := none, ring := [], latched := none }) ∧
        (∀ k again, b.segToTake n = some (k, again) → v.grp n = { g with
          mode := if single then .single else .cont, disarm := false, state := .parison, cur := some k, fire := none, retrig := 0, hold := none
          overwrite := if again then satAdd 32 g.overwrite 1 else g.overwrite, ring := []
          chans := b.grpChans n, pre := b.fld 0x403 n 0 (·.u32 4), post := b.fld 0x403 n 1 (·.u32 8)
          segs := g.segs.put k { state := .open_ } }))

/-- DISARM, FORCE and SKEW_MEASURE on a group that is not of the cascade, and the instant of a waiting arm (R157, R158, R163, R170). -/
def Obligations.OtherArmOperations : Prop :=
  (∀ (dt : Nat) (h : CmdHead) (group : Byte) (tArm : U64) (s : State),
    let c (op : Byte) : HostCmd := .acqArm op group 0 tArm none
    let u := s.arrived dt
    let n := group.toNat
    n ≤ 7 → (u.rec? 0x403 n).isSome = true → u.gflag n 1 = false → tArm.toNat * 65536 ≤ u.now →
    (u.takes h (c 3) = true → ∃ v : State,
      exec (.disarm dt h group 0 tArm none) s = .next (s.endsOk dt h (c 3) (leBytes 8 u.nowNs) fun _ => v) ∧
      v = { u.begun h (c 3) with acq := v.acq } ∧ (∀ m, m ≠ n → v.grp m = u.grp m) ∧
      ((u.grp n).state = .idle → v.grp n = { u.grp n with shedMode := .none }) ∧
      ((u.grp n).state = .post ∨ (u.grp n).state = .rearm → v.grp n = { u.grp n with shedMode := .none, disarm := true }) ∧
      ((u.grp n).state = .parison ∨ (u.grp n).state = .full → (v.grp n).state = .idle ∧ (v.grp n).mode = .none ∧ (v.grp n).cur = none)) ∧
    (u.takes h (c 4) = true → ((u.grp n).state = .idle ∨ (u.grp n).state = .full) →
      exec (.force dt h group 0 tArm none) s = .next (s.endsNot dt h (c 4) .badField 0x11)) ∧
    (u.takes h (c 4) = true → (u.grp n).state ≠ .idle → (u.grp n).state ≠ .full →
      exec (.force dt h group 0 tArm none) s = .next (s.endsOk dt h (c 4) (leBytes 8 u.nowNs) fun b =>
        ((b.recs 0x404).filter fun r => r.2.u8 0 == 4 && r.2.u8 1 == 5 && bitOf (b.trigMask n) r.1).foldl
          (fun v r => v.fire r.1 u.now fun _ => true) b)) ∧
    (u.takes h (c 5) = true → (u.grpChans n).length ≤ 5 → (u.grp n).state = .idle → u.pwr.stage < 2 → u.cascadeTrigs n = [] →
      ∀ k again, u.segToTake n = some (k, again) → ∃ v : State,
        exec (.skewMeasure dt h group 0 tArm none) s = .next (s.startsWait dt h (c 5) (.skew n) fun _ => v) ∧
        (v.grp n).state = .post ∧ (v.grp n).mode = .single ∧ (v.grp n).cur = some k ∧ (v.grp n).skew = some u.gaf.opSeq ∧
        (v.grp n).fire = some { t := u.now, cause := 0, origin := u.cd } ∧ (∀ m, m ≠ n → v.grp m = u.grp m))) ∧
  (∀ (dt : Nat) (n : Fin 8) (o : Op) (group : Byte) (rsv : U16) (tArm : U64) (buf : Option BufDesc) (s : State),
    let u := s.arrived dt
    u.part.inReset = false → u.gaf.ops = [o] → o.started = true → o.outcome = none → o.wait = .arm n.val →
    o.cmd = .acqArm 1 group rsv tArm buf → u.gflag n.val 1 = false → (u.grp n.val).pendArm = [] →
    (tArm.toNat * 65536 ≤ u.now → exec (.acqArmEffect dt n) s =
      .next (s.closed (State.finished o .ok 0 (leBytes 8 u.nowNs) false [] (u.armGroup n.val .cont)).netOut)) ∧
    (u.now < tArm.toNat * 65536 → exec (.acqArmEffect dt n) s = .next (s.closed u.settleOut)))

/-! ### Set-points of the converter -/

/-- CONV_SETPOINT (R286 to R289). A set-point waits for the first outer cycle that starts after its acceptance, or at or after T_APPLY, a
value beyond LIMIT is BAD_FIELD at VALUE; BLOCK adds HOST to BLOCK_CAUSE at once and waits for its slot; DEBLOCK waits for a matrix
boundary where its conditions hold, and answers NO_RESOURCE with the first that fails where one does not. -/
def Obligations.SetPointCommands : Prop :=
  ∀ (dt : Nat) (h : CmdHead) (a : SetPointArgs) (rec : Bytes) (s : State),
    let k (n : Byte) : HostCmd := .convSetpoint n a
    let u := s.arrived dt
    let c := a.conv.toNat
    let q := a.qty.toNat
    let x := u.cv c
    let at_ (len : Nat) : Fine :=
      let first := (u.now / (len * 65536) + 1) * (len * 65536)
      if a.apply = 1 then max first (ceilTo (len * 65536) (a.tApply.toNat * 65536)) else first
    let ev := if a.apply = 2 then some a.event.toNat else none
    let okVal := Fp.isFinite a.value && Fp.le (Fp.abs a.value) (limitOf u.cfg c q)
    c ≤ 1 → u.cvRec c = some rec → a.rsv = 0 → fpNonNeg a.slope = true →
    (u.takes h (k 0) = true → q ≤ 3 → a.apply.toNat ≤ 2 → (a.apply = 2 → a.event.toNat ≤ 31) →
      (okVal = true → exec (.setPoint dt h a) s = .next (s.startsWait dt h (k 0) (.setpoint c q) fun b => { b with
        conv := { b.conv with convs := b.conv.convs.put c { x with pend := x.pend ++ [{
          qty := q, target := a.value, slope := if Fp.isZero a.slope then slopeOf u.cfg c q else a.slope, at_ := at_ 50000
          event := ev, op := u.gaf.opSeq }] } } })) ∧
      (okVal = false → exec (.setPoint dt h a) s = .next (s.endsNot dt h (k 0) .badField 0x14))) ∧
    (q = 0 → a.value = 0 →
      (u.takes h (k 2) = true → x.deblock = none → ∃ v : State,
        exec (.block dt h a) s = .next (s.startsWait dt h (k 2) (.setpoint c 8) fun _ => v) ∧
        (v.cv c).st.cause = x.st.cause ||| 1 ∧ (∀ d, d ≠ c → v.cv d = u.cv d) ∧
        (x.st.cause.getLsbD 0 = false → (v.cv c).slotSince = some (x.slotSince.getD (cycleNum u.cycle + 1)) ∧ (v.cv c).blockedAlarm = true)) ∧
      (u.takes h (k 1) = true → a.apply.toNat ≤ 2 → (a.apply = 2 → a.event.toNat ≤ 31) → x.deblock = none →
        (u.deblockBad c rec = none → exec (.deblock dt h a) s = .next (s.startsWait dt h (k 1) (.deblock c) fun b => { b with
          conv := { b.conv with convs := b.conv.convs.put c { x with
            deblock := some { at_ := at_ 160000, event := ev, op := u.gaf.opSeq }, released := false } } })) ∧
        (∀ d data, u.deblockBad c rec = some (d, data) →
          exec (.deblock dt h a) s = .next (s.endsAs dt h (k 1) .noResource d data false [] fun b => b))))

/-- When a set-point's outer cycle has come its ramp starts from the measured mean of the cycle before, and the command completes with the
start value and the cycles to go (R284, R286); while the converter is blocked it is held (R285). A released DEBLOCK clears the latch at its
boundary and completes (R289). -/
def Obligations.SetPointsTakeEffect : Prop :=
  (∀ (dt : Nat) (c : Fin 2) (q : Fin 8) (o : Op) (w : PendSet) (rec : Bytes) (s : State),
    let u := s.arrived dt
    let x := u.cv c.val
    let t := outerStart u.now
    let r0 := x.mean (convPar rec) q.val
    u.part.inReset = false → u.gaf.ops = [o] → o.outcome = none → o.started = true → o.wait = .setpoint c.val q.val → u.cvRec c.val = some rec →
    x.pend = [w] → w.qty = q.val → w.op = o.seq → w.event = none → w.at_ ≤ t →
    (x.st.cause = 0 → x.openAt ≤ t → exec (.setpointEffect dt c q) s = .next (s.closed (State.finished o .ok 0
      (setpointData t false r0.toNat (rampCycles w.target r0 w.slope)) false [] { u with conv := { u.conv with
        convs := u.conv.convs.put c.val { x with
          st := { x.st with ramps := x.st.ramps.put q.val { active := true, ref := r0, target := w.target, slope := w.slope } }
          fresh := q.val :: x.fresh, pend := [] } } }).netOut)) ∧
    (x.st.cause ≠ 0 → ∃ t', exec (.setpointEffect dt c q) s = .next t' ∧ (t'.gaf.ops = [o]) ∧
      ((t'.cv c.val).st.ramps.get { } q.val).held = true ∧ ((t'.cv c.val).st.ramps.get { } q.val).target = w.target ∧
      ((t'.cv c.val).st.ramps.get { } q.val).ref = (x.st.ramps.get { } q.val).ref)) ∧
  (∀ (dt : Nat) (c : Fin 2) (o : Op) (d : PendSet) (s : State),
    let u := s.arrived dt
    let x := u.cv c.val
    u.part.inReset = false → u.gaf.ops = [o] → o.outcome = none → x.deblock = some d → x.released = true → d.event = none → d.at_ ≤ u.now →
    d.op = o.seq → exec (.deblockEffect dt c) s = .next (s.closed (State.finished o .ok 0 (setpointData d.at_ false 0 0) false []
      (State.postIf x.blockedAlarm (mkEv 0x16 c.val d.at_ [(4, 0), (4, (cycleOf d.at_).2)] true) { u with conv := { u.conv with
        convs := u.conv.convs.put c.val { x with
          st := { x.st with cause := 0 }, deblock := none, released := false, slotSince := none, openAt := d.at_, blockedAlarm := false } } })).netOut))

/-! ### Trace set, valve lanes and logic tasks -/

/-- TRACE_CONFIGURE (R293, R294): ARM arms an idle set with its arguments for the mailbox that sent it, and is BUSY otherwise; DISARM
ends an armed set or one that fills, and FORCE triggers an armed one; a held set waits for its reader. -/
def Obligations.TraceCommands : Prop :=
  ∀ (dt : Nat) (h : CmdHead) (a : TraceArgs) (s : State),
    let k (n : Byte) : HostCmd := .traceConfigure n a
    let u := s.arrived dt
    let t := u.conv.trace
    let put (x : Trace) (b : State) : State := { b with conv := { b.conv with trace := x } }
    a.rsv = 0 →
    (u.takes h (k 1) = true → t.state ≠ .idle → exec (.traceArm dt h a) s = .next (s.endsNot dt h (k 1) .busy t.owner)) ∧
    (u.takes h (k 1) = true → t.state = .idle → 1 ≤ a.nCh.toNat → a.nCh.toNat ≤ 16 → a.pre.toNat ≤ 65535 →
      (((a.trig = 1 ∨ a.trig = 2) ∧ a.trigArg < a.nCh ∧ Fp.isFinite a.thresh = true) ∨ (a.trig = 3 ∧ a.trigArg = 0) ∨
        (a.trig = 4 ∧ a.trigArg.toNat < 32) ∨ (a.trig = 5 ∧ a.trigArg.toNat < 8)) → (∀ n ∈ a.nodes, nodeOk u.cfg n = true) →
      exec (.traceArm dt h a) s = .next (s.endsOk dt h (k 1) [] (put
        { state := .armed, args := some a, owner := h.mb.val, armedAt := cycleNum u.cycle }))) ∧
    (a.nCh = 0 → u.takes h (k 2) = true → exec (.traceDisarm dt h a) s = .next (s.endsOk dt h (k 2) [] (put
        (if t.state = .armed ∨ t.state = .post then { t with state := .idle, stopped := false } else t)))) ∧
    (a.nCh = 0 → u.takes h (k 3) = true → exec (.traceForce dt h a) s = .next (s.endsOk dt h (k 3) [] (put
        (if t.state = .armed then { t with fired := true } else t))))

/-- VALVE_SLEEP releases exactly the lanes it names at the next matrix boundary where every converter on them is blocked, and VALVE_WAKE
takes back the release of exactly the lanes it names and gives them the selection at once (R328, R329). Both wait. A lane that is off or
cannot sleep is BAD_FIELD, and a converter that runs NO_RESOURCE 0x0801. -/
def Obligations.LaneCommands : Prop :=
  ∀ (dt : Nat) (h : CmdHead) (lanes : U32) (wId wIdMask : U16) (wData wDataMask : U32) (s : State),
    let k : HostCmd := .valveSleep lanes 0
    let w : HostCmd := .valveWake lanes wId wIdMask wData wDataMask
    let u := s.arrived dt
    let sleepy (n : Nat) : Bool := (u.laneRec n).any sleepEn
    ((∃ n, n < 32 ∧ bitOf lanes.toNat n = true ∧ sleepy n = false) →
      (u.takes h k = true → exec (.valveSleep dt h lanes 0) s = .next (s.endsNot dt h k .badField 0x10)) ∧
      (u.takes h w = true → exec (.valveWake dt h lanes wId wIdMask wData wDataMask) s = .next (s.endsNot dt h w .badField 0x10))) ∧
    ((∀ n, n < 32 → bitOf lanes.toNat n = true → sleepy n = true) →
      (u.takes h k = true → (∃ n c, n < 24 ∧ bitOf lanes.toNat n = true ∧ c ∈ u.laneConvs n ∧ (u.cv c).latched = false) →
        exec (.valveSleep dt h lanes 0) s = .next (s.endsNot dt h k .noResource 0x0801)) ∧
      (u.takes h k = true → (∀ n c, n < 24 → bitOf lanes.toNat n = true → c ∈ u.laneConvs n → (u.cv c).latched = true) → ∃ v : State,
        exec (.valveSleep dt h lanes 0) s = .next (s.startsWait dt h k (.valve false lanes.toNat) fun _ => v) ∧
        ∀ n, v.lane n = if n < 24 ∧ bitOf lanes.toNat n = true then { u.lane n with pendRelease := true } else u.lane n) ∧
      (u.takes h w = true → ∃ v : State,
        exec (.valveWake dt h lanes wId wIdMask wData wDataMask) s = .next (s.startsWait dt h w (.valve true lanes.toNat) fun _ => v) ∧
        ∀ n, (¬ (n < 24 ∧ bitOf lanes.toNat n = true) → v.lane n = u.lane n) ∧
          (∀ b, n < 24 → bitOf lanes.toNat n = true → u.laneRec n = some b →
            (v.lane n).released = false ∧ (v.lane n).pendRelease = false ∧ (v.lane n).wake = some (wId, wIdMask, wData, wDataMask) ∧
            (v.lane n).wakeUntil = u.now + wakeTimeout b ∧ (v.lane n).state ≠ .asleep)))

/-- LOGIC_RUN asks a start of the named tasks that stand still or are about to stop, LOGIC_STOP a stop of those that run or are about to
start, and no other task changes; the command waits where one it names has something to do, and else answers at once (R363, R364). -/
def Obligations.TaskCommands : Prop :=
  ∀ (dt : Nat) (h : CmdHead) (tasks start : Byte) (s : State),
    let r : HostCmd := .logicRun tasks start 0
    let p : HostCmd := .logicStop tasks 0 0
    let u := s.arrived dt
    let named (n : Nat) : Prop := n < 8 ∧ bitOf tasks.toNat n = true
    (u.takes h r = true → start.toNat ≤ 1 → (∀ n, named n → u.fld 0x901 n 0 (·.u8 0) = 1) → ∃ v : State,
      (∀ n, v.task n = if n < 8 ∧ bitOf tasks.toNat n = true ∧ ¬ ((u.task n).running = true ∧ (u.task n).pendStop = false)
        then { u.task n with pendStart := some (if start = 1 then .cold else .warm) } else u.task n) ∧
      ((∃ n, named n ∧ (v.task n).pendStart.isSome = true) →
        exec (.logicRun dt h tasks start 0) s = .next (s.startsWait dt h r (.logic tasks.toNat true) fun _ => v)) ∧
      ((∀ n, named n → (v.task n).pendStart = none) →
        exec (.logicRun dt h tasks start 0) s = .next (s.endsOk dt h r (packLe [(8, u.nowNs), (1, u.runMask)]) fun _ => v))) ∧
    (u.takes h r = true → (∃ n, named n ∧ u.fld 0x901 n 0 (·.u8 0) ≠ 1) →
      exec (.logicRun dt h tasks start 0) s = .next (s.endsNot dt h r .badField 0x10)) ∧
    (u.takes h p = true → ∃ v : State,
      (∀ n, v.task n = if n < 8 ∧ bitOf tasks.toNat n = true ∧ ((u.task n).running = true ∨ (u.task n).pendStart.isSome = true)
        then { u.task n with pendStop := true } else u.task n) ∧
      ((∃ n, named n ∧ (v.task n).pendStop = true) →
        exec (.logicStop dt h tasks 0 0) s = .next (s.startsWait dt h p (.logic tasks.toNat false) fun _ => v)) ∧
      ((∀ n, named n → (v.task n).pendStop = false) →
        exec (.logicStop dt h tasks 0 0) s = .next (s.endsOk dt h p (packLe [(8, u.nowNs), (1, u.runMask)]) fun _ => v)))

/-! ### PAIR_REVERT and a host access that is not answered -/

/-- PAIR_REVERT (R430): TRANSFER_NOW asks for the role where the standby is READY, and is NO_RESOURCE 0x0C01 where it is not or the module
has no partner; SET_INHIBIT and CLEAR_INHIBIT write INHIBIT. A host access not completed within 10 ms ends its command with TIMEOUT (R52),
and not before; the buffer's bytes are then free. -/
def Obligations.PairCommandsAndTimeout : Prop :=
  (∀ (dt : Nat) (h : CmdHead) (s : State),
    let k (n : Byte) : HostCmd := .pairRevert n 0
    let u := s.arrived dt
    (u.takes h (k 1) = true → u.paired = true → u.standbyReady = true → exec (.transferNow dt h 0) s = .next (s.startsWait dt h (k 1) .pair
      fun b => { b with pair := { b.pair with reqTransfer := true, byRevert := true } })) ∧
    (u.takes h (k 1) = true → (u.paired = false ∨ u.standbyReady = false) →
      exec (.transferNow dt h 0) s = .next (s.endsNot dt h (k 1) .noResource 0xC01)) ∧
    (u.takes h (k 2) = true → exec (.setInhibit dt h 0) s = .next (s.endsOk dt h (k 2) []
      fun b => { b with pair := { b.pair with inhibit := true } })) ∧
    (u.takes h (k 3) = true → exec (.clearInhibit dt h 0) s = .next (s.endsOk dt h (k 3) []
      fun b => { b with pair := { b.pair with inhibit := false } }))) ∧
  (∀ (dt : Nat) (o : Op) (t : Fine) (s : State),
    let u := s.arrived dt
    u.part.inReset = false → u.gaf.ops = [o] → o.outcome = none → o.wait = .host t →
    (t + 655360000000 ≤ u.now → ∃ m f, exec (.hostAccessTimeout dt o.h.tag) s =
      .next (s.closed (State.finished o .timeout (u.elapsedUs t) [] false [] { u with hostMem := m, free := f }).netOut) ∧
      (o.cmd.outBuf = none → m = u.hostMem) ∧
      (∀ b, o.cmd.outBuf = some b → ∀ a, (a < b.addr.toNat ∨ b.addr.toNat + b.len.toNat ≤ a) → Mem.wf 0 u.hostMem = true →
        Mem.read 0 m a = Mem.read 0 u.hostMem a)) ∧
    (u.now < t + 655360000000 → ∀ tag, exec (.hostAccessTimeout dt tag) s = .next (s.closed u)))

/-! ### BAR0 writes and the reads that clear -/

/-- The doorbell block (R46, R47, R56, R57) where BAR0 is reachable. A doorbell with a length the rules allow hands the batch over, and
counts in BADBELL otherwise; command bytes land where BUSY is 0, and the write counts in DROPWR otherwise; a read of MBX_DROPCNT returns
both counters and clears them; CONS moves within the ring, and as many held completions as there is room for are written, in order. Where
BAR0 is not reachable none of them acts. -/
def Obligations.MailboxRegisters : Prop :=
  ∀ (dt : Nat) (n : Fin 16) (s : State),
    let u := s.arrived dt
    let m := u.mb n.val
    let d (f : Mailbox) : State := { u with part := { u.part with pcieUp := true }, mbx := u.mbx.put n.val f }
    let fits (v : U32) : Prop := m.busy = false ∧ u.isMoe n.val = false ∧ 16 ≤ v.toNat % 8192 ∧ v.toNat % 8192 ≤ 4096 ∧ v.toNat % 16 = 0
    (u.barUp = true →
      (∀ v, (fits v → exec (.mbxDoorbell dt n v) s = .next (s.closed (d { m with busy := true, bytes := v.toNat % 8192 }))) ∧
        (¬ fits v → exec (.mbxDoorbell dt n v) s = .next (s.closed (d { m with badbell := min 65535 (m.badbell + 1) })))) ∧
      (∀ (off : Fin 4096) (data : Bytes),
        (m.busy = false ∧ u.isMoe n.val = false → ∃ hf, exec (.commandHalfWrite dt n off data) s = .next (s.closed (d { m with half := hf })) ∧
          (Mem.wf 0 m.half = true → Mem.wf 0 hf = true ∧ ∀ a, Mem.read 0 hf a =
            if off.val ≤ a ∧ a < off.val + data.length ∧ a < 4096 then data.getD (a - off.val) 0 else Mem.read 0 m.half a)) ∧
        (m.busy = true ∨ u.isMoe n.val = true →
          exec (.commandHalfWrite dt n off data) s = .next (s.closed (d { m with dropwr := min 65535 (m.dropwr + 1) })))) ∧
      (∃ t, exec (.mbxDropcnt dt n) s = .next t ∧ t.gaf.lastRead = BitVec.ofNat 32 (m.badbell * 65536 + m.dropwr) ∧
        t.mb n.val = { m with badbell := 0, dropwr := 0 } ∧ ∀ k, k ≠ n.val → t.mb k = u.mb k) ∧
      (∀ v : U32, u.gaf.ops = [] → ∃ t, exec (.mbxRespCons dt n v) s = .next t ∧ t.gaf.ops = [] ∧ (∀ k, k ≠ n.val → t.mb k = u.mb k) ∧
        (64 < (m.prod - v).toNat → t.mb n.val = m) ∧
        ((m.prod - v).toNat ≤ 64 →
          let room := 64 - (m.prod - v).toNat
          (t.mb n.val).cons = v ∧ (t.mb n.val).prod = m.prod + BitVec.ofNat 32 (min room m.held.length) ∧
          (t.mb n.val).held = m.held.drop room))) ∧
    (u.barUp = false → ∀ v off data,
      exec (.mbxDoorbell dt n v) s = .next (s.closed u) ∧ exec (.commandHalfWrite dt n off data) s = .next (s.closed u) ∧
      exec (.mbxDropcnt dt n) s = .next (s.closed u) ∧ exec (.mbxRespCons dt n v) s = .next (s.closed u))

/-- The registers of the time unit and the rest of BAR0 (R42, R97, R106): TMU_SNAP latches working time and both domain times at one
instant where LATCH is 1, and nothing where it is 0; TMU_TSQ_OVF clears the bits written as 1 alone; a read of TMU_TSQ_STAT_n returns
LEVEL and DROPS of a port that the part has and clears its DROPS alone; a write to any other address changes no register, and an aligned
one of 32 or 64 bits into the MSI-X table stores its bytes there. -/
def Obligations.TimeUnitRegisters : Prop :=
  ∀ (dt : Nat) (s : State),
    let u := s.arrived dt
    let d (t : TimeUnit) : State := { u with part := { u.part with pcieUp := true }, time := t }
    u.barUp = true →
    (∀ v : U32, (v.getLsbD 0 = true → exec (.tmuSnap dt v) s =
        .next (s.closed (d { u.time with snap := { w := u.now, a := u.time.domA.t80, b := u.time.domB.t80 } }))) ∧
      (v.getLsbD 0 = false → exec (.tmuSnap dt v) s = .next (s.closed (d u.time)))) ∧
    (∀ v : U32, ∃ t, exec (.tmuTsqOvf dt v) s = .next t ∧ t.time = { u.time with tsqOvf := t.time.tsqOvf } ∧
      ∀ i, i < 16 → t.time.tsqOvf.getLsbD i = (u.time.tsqOvf.getLsbD i && !v.getLsbD i)) ∧
    (∀ p : Fin 16, let q := u.time.tsq.get { } p.val
      (p.val < numPorts u.isL → ∃ t, exec (.tmuTsqStat dt p) s = .next t ∧
        t.gaf.lastRead = BitVec.ofNat 32 (q.drops * 65536 + q.items.length) ∧ t.time.tsq.get { } p.val = { q with drops := 0 } ∧
        (∀ k, k ≠ p.val → t.time.tsq.get { } k = u.time.tsq.get { } k) ∧ t.time = { u.time with tsq := t.time.tsq }) ∧
      (numPorts u.isL ≤ p.val → ∃ t, exec (.tmuTsqStat dt p) s = .next t ∧ t.gaf.lastRead = 0 ∧ t.time = u.time)) ∧
    (∀ (a : BitVec 18) (w : Nat) (v : U64),
      (¬ (0x8000 ≤ a.toNat ∧ a.toNat ≤ 0x811F) → exec (.registerWriteOther dt a w v) s = .next (s.closed (d u.time))) ∧
      (0x8000 ≤ a.toNat → a.toNat ≤ 0x811F → (w = 32 ∨ w = 64) → a.toNat % (w / 8) = 0 → ∃ g, exec (.registerWriteOther dt a w v) s =
          .next (s.closed { d u.time with gaf := { u.gaf with msix := g } }) ∧
        (Mem.wf 0 u.gaf.msix = true → Mem.wf 0 g = true ∧ ∀ b, Mem.read 0 g b =
          if a.toNat - 0x8000 ≤ b ∧ b < a.toNat - 0x8000 + w / 8 then BitVec.ofNat 8 (v.toNat / 256 ^ (b - (a.toNat - 0x8000)))
          else Mem.read 0 u.gaf.msix b)))

/-! ### Interrupt vectors and JTAG -/

/-- MSI-X vector n, for n = 0 to 17, is raised in two cases (R44): bit n of DEV_IRQ_STATUS changes from 0 to 1 while its MASK bit is 0, or
its MASK bit changes from 1 to 0 while the status bit is 1; nothing else raises it, and setting a MASK bit raises nothing. A write of
DEV_IRQ_STATUS clears the bits written as 1 and no other, so that a bit set again rises again. -/
def Obligations.InterruptVectors : Prop :=
  (∀ (s : State) (n : Nat), n < 18 → let t := s.setIrq n
    (∀ k, t.gaf.irqStatus.getLsbD k = (s.gaf.irqStatus.getLsbD k || decide (k = n))) ∧ t.gaf.irqMask = s.gaf.irqMask ∧
    t.emitted = s.emitted ++ (if s.gaf.irqStatus.getLsbD n = false ∧ s.gaf.irqMask.getLsbD n = false then [.msix n] else [])) ∧
  (∀ (dt : Nat) (v : U32) (s : State),
    let u := s.arrived dt
    let d (g : Gaffer) (o : List Output) : State := s.closed { u with part := { u.part with pcieUp := true }, gaf := g, emitted := o }
    u.barUp = true →
    exec (.devIrqMask dt v) s = .next (d { u.gaf with irqMask := v.setWidth 18 } (((List.range 18).filter fun n =>
      u.gaf.irqMask.getLsbD n && !v.getLsbD n && u.gaf.irqStatus.getLsbD n).map .msix)) ∧
    (∃ q, exec (.devIrqStatus dt v) s = .next (d { u.gaf with irqStatus := q } []) ∧
      ∀ n, n < 18 → q.getLsbD n = (u.gaf.irqStatus.getLsbD n && !v.getLsbD n)))

/-- The JTAG port (R479): its 4-bit instruction register takes what is shifted in; instruction 0b0010 reads IDCODE 0xB006_45D7, every other
one selects BYPASS; nothing else in the device changes. -/
def Obligations.JtagPort : Prop :=
  ∀ (dt : Nat) (ir : BitVec 4) (s : State), ∃ t, exec (.jtagInstruction dt ir) s = .next t ∧ t.part.jtagIr = ir ∧
    t.jtagId = (if ir = 0b0010 then some 0xB00645D7 else none) ∧
    t = s.closed { s.arrived dt with part := { (s.arrived dt).part with jtagIr := ir } }

/-! ### Resets and boot -/

/-- Resets (R40, R43, R449, R478), the boot (R33, R43, R452, R453, R458) and the reset of the PCIe function (R450). A low level of 1 µs or
more on PORST_N or SYSRST_N, the internal reset of R447 and the reset that a command announced each clear everything but the flash and the
OTP, and enter BOOT with operations discarded; those that act as PORST_N forget the straps, the others keep them. Where reset ends the
straps are latched, the ROM starts, and a trial image that was not confirmed is given up; a failed self-test, or no valid image, is
SAFE_HOLD under the ROM. The first image that verifies runs and shows its version; a boot without a configuration goes to COMMISSION; and
DEV_ALIVE counts. A PCIe reset takes the doorbell blocks to their reset values and ends the session, and leaves the mode, the committed
features and the mailboxes of MOE as they are. -/
def Obligations.ResetsAndBoot : Prop :=
  ∀ (dt : Nat) (s : State),
    let u := s.arrived dt
    let cleared (por : Bool) (t : State) : Prop := t.part.inReset = true ∧ t.part.straps = (if por then { } else u.part.straps) ∧
      t.devMode = 1 ∧ t.gaf.fwReady = false ∧ t.gaf.fwVer = 0 ∧ t.gaf.alive = 0 ∧ t.gaf.irqMask = 0x3FFFF ∧ t.gaf.ops = [] ∧ t.gaf.txn = none ∧
      t.gaf.committed = 0 ∧ t.gaf.session = false ∧ t.mbx = [] ∧ t.cfg = [] ∧ t.cfgValid = false ∧ t.time = { } ∧ t.net = { } ∧ t.fio = { } ∧
      t.eng = { } ∧ t.conv = { } ∧ t.log = { } ∧ t.store.slotA = u.store.slotA ∧ t.store.slotB = u.store.slotB ∧ t.store.otpSec = u.store.otpSec ∧
      t.store.cfg0 = u.store.cfg0 ∧ t.store.cfg1 = u.store.cfg1 ∧ t.store.cal0 = u.store.cal0 ∧ t.store.cal1 = u.store.cal1
    let held (c : SafeCause) (t : State) : Prop := t.gaf.mode = .safeHold ∧ t.gaf.romHold = true ∧ t.gaf.fwReady = true ∧ t.gaf.fwVer = 0 ∧
      t.gaf.safeCause = c ∧ t.gaf.committed = 0
    let valid (b : Bool) (ok : Bool) : Prop := imageValid (u.store.image b) u.store.otpSec ok = true
    let first : Bool := u.part.straps.bootSrc == 2 || u.store.active
    (∀ n, (n < 1000 → exec (.porstN dt n) s = .next (s.closed u) ∧ exec (.sysrstN dt n) s = .next (s.closed u)) ∧
      (1000 ≤ n → (∃ t, exec (.porstN dt n) s = .next t ∧ cleared true t) ∧
        (u.part.porLow = false → ∃ t, exec (.sysrstN dt n) s = .next t ∧ cleared false t) ∧
        (u.part.porLow = true → exec (.sysrstN dt n) s = .next (s.closed { u with part := { u.part with sysLow := true } })))) ∧
    (u.railsFail = true → ∃ t, exec (.internalPor dt) s = .next t ∧ cleared true t ∧ t.pwr.internalReset = true) ∧
    (u.part.inReset = false → ∀ a, u.gaf.bootAt = some a → (a ≤ u.now → u.part.porLow = false →
        ∃ t, exec (.bootResetTimer dt) s = .next t ∧ cleared false t) ∧
      (u.now < a → exec (.bootResetTimer dt) s = .next (s.closed u))) ∧
    (∀ ok, u.part.inReset = true → u.pwr.internalReset = false → (u.part.porLow = true ∨ u.railsUp = true) →
      ∃ t, exec (.resetRelease dt ok) s = .next t ∧ t.part.straps = (if u.part.porLow then u.part.balls else u.part.straps) ∧
        t.part.porLow = false ∧ t.part.sysLow = false ∧ t.part.inReset = t.part.straps.testEn ∧
        (t.part.inReset = false → t.store.active = (if u.store.trial && !u.store.activateReset then !u.store.active else u.store.active) ∧
          t.store.trial = (u.store.trial && u.store.activateReset) ∧ (ok = true → t.part.bootStep = 1 ∧ t.gaf.mode = u.gaf.mode) ∧
          (ok = false → t.part.bootStep = 3 ∧ held .selfTest t))) ∧
    (∀ okA okB, u.part.inReset = false → u.part.bootStep = 1 → let okOf (b : Bool) : Bool := if b then okB else okA
      ((¬ valid true okB ∧ ¬ valid false okA) → ∃ t, exec (.fwLoaded dt okA okB) s = .next t ∧ held .noImage t) ∧
      (∀ b, valid b (okOf b) → (b = first ∨ ¬ valid first (okOf first)) → ∃ t, exec (.fwLoaded dt okA okB) s = .next t ∧
        t.part.bootStep = 2 ∧ t.gaf.fwReady = true ∧ t.gaf.image = b ∧
        t.gaf.fwVer = BitVec.ofNat 32 (imageWord (u.store.image b) 8) ∧ t.gaf.romHold = u.gaf.romHold ∧ t.gaf.mode = u.gaf.mode)) ∧
    (u.part.inReset = false → u.part.bootStep = 2 → u.cfgBank = none → u.cfgValid = false → ∃ t, exec (.bootComplete dt) s = .next t ∧
      t.part.bootStep = 3 ∧ t.cfg = u.cfg ∧ t.gaf.pend = some { mode := .commission, by_ := .boot, at_ := nextTickStart u.rate u.now }) ∧
    (u.part.inReset = false → ∃ t, exec (.devAliveTick dt) s = .next t ∧
      t.gaf.alive = if u.part.bootStep = 0 then u.gaf.alive else u.gaf.alive + 1) ∧
    (∀ e, (e = .hotReset ∨ e = .flr ∨ e = .linkDown ∨ ∃ n, 1000 ≤ n ∧ e = .perstLow n) → u.part.inReset = false → u.gaf.ops = [] →
      (u.mbx.any fun m => m.2.held.any (·.boot)) = false → ∃ t, exec (.pcieFunctionReset dt e) s = .next t ∧
      (∀ n, t.mb n = if u.isMoe n then u.mb n else { half := (u.mb n).half, ring := (u.mb n).ring, kept := (u.mb n).kept }) ∧
      t.gaf.session = false ∧ t.gaf.txn = (if u.gaf.txn.any (fun x => !u.isMoe x.mb.val) then none else u.gaf.txn) ∧
      t.gaf.mode = u.gaf.mode ∧ t.gaf.pend = u.gaf.pend ∧ t.gaf.committed = u.gaf.committed ∧ t.gaf.bootAt = u.gaf.bootAt ∧
      t.conv = u.conv ∧ t.eng = u.eng ∧ t.net = u.net)

/-! ### Batches -/

/-- Batches (R47, R48, R50, R53, R70, R71). A pass over the doorbells takes in the batches of the BUSY mailboxes in ascending mailbox number:
where each tag is free and no command runs past its batch, every command becomes an operation, in that order, and every mailbox is IDLE
again; nothing is served before the firmware runs or in reset. A datagram of a permitted source for a mailbox assigned to MOE is taken in the same way, as many
commands of it as its COUNT; one whose TAG and OPCODE have a kept completion is not executed again, and that completion is sent once more
with CFLAGS.MOE_REPLAY; any other source, port or mailbox is discarded and counted, and a datagram with another MAGIC, VERSION or TYPE is dropped. -/
def Obligations.BatchesBecomeOperations : Prop :=
  (∀ (dt : Nat) (s : State),
    let u := s.arrived dt
    (u.gafferUp = true → u.fresh ((List.finRange 16).flatMap u.batchOf) → ∃ l q m,
      exec (.doorbellPass dt) s = .next (s.closed (State.pump { u with gaf := { u.gaf with ops := u.gaf.ops ++ l, opSeq := q }, mbx := m }).netOut) ∧
      opsFor l ((List.finRange 16).flatMap u.batchOf) ∧
      ∀ n, Table.get { } m n = if n < 16 then { u.mb n with busy := false } else u.mb n) ∧
    (u.gafferUp = false → exec (.doorbellPass dt) s = .next (s.closed u))) ∧
  (∀ (dt : Nat) (d : MoeDatagram) (s : State),
    let u := s.arrived dt
    let b := (u.rec? 0xA08 0).getD []
    let is_ := (parseBatch (Fin.ofNat 16 d.mailbox.toNat) .moe d.seq d.src d.batch 257 0).take d.count.toNat
    let permitted : Prop := u.feat 11 = true ∧ bitOf (b.u16 0) d.port.val = true ∧ d.udpPort.toNat = b.u16 2 ∧ d.src ∈ u.moeSources ∧
      u.isMoe d.mailbox.toNat = true ∧ d.mailbox.toNat < 16
    u.gafferUp = true → u.devMac ≠ 0 →
    (¬ permitted → exec (.moeDatagramRx dt d) s = .next (s.closed
      { u with net := { u.net with moeReject := min (u.net.moeReject + 1) (2 ^ 32 - 1) } })) ∧
    (permitted → d.rsv = 0 → d.rsv2 = 0 →
      ((d.magic ≠ 0x574D ∨ d.version ≠ 1 ∨ d.typ ≠ 1) → exec (.moeDatagramRx dt d) s = .next (s.closed u)) ∧
      (d.magic = 0x574D → d.version = 1 → d.typ = 1 →
        (u.fresh is_ → ∃ l q,
          exec (.moeDatagramRx dt d) s = .next (s.closed (State.pump { u with gaf := { u.gaf with ops := u.gaf.ops ++ l, opSeq := q } }).netOut) ∧
          opsFor l is_) ∧
        (∀ i c, is_ = [i] → i.cut = none → (u.mb d.mailbox.toNat).kept.find? (fun c => c.tag == i.h.tag && c.opcode == i.cmd.opcode) = some c →
          exec (.moeDatagramRx dt d) s = .next (s.closed (u.emit
            (.moe d.mailbox.toNat d.seq d.src [{ c with cflags := c.cflags ||| 4 }])).pump.netOut)))))

/-! ### Power, the Lehr and the receivers -/

/-- Shedding (R442 to R446). A sample moves the band of every rail, and a sample, PWR_WARN and the end of either dwell form the target anew:
the stage rises to it and does not fall with it. A monitor demands by its band at least stage 1, 2, 3, 4 or 5, PWR_WARN its stage, and nothing is
demanded where every band is 0. The stage falls by one where the target has stood below it for RECOVER_HOLD, and not sooner; in reset no
stage changes. -/
def Obligations.PowerStages : Prop :=
  (∀ (dt : Nat) (levels : List Nat) (level : Bool) (s : State),
    let u := s.arrived dt
    let sampled : Power := { u.pwr with rails := u.pwr.rails.zipIdx.map fun r => r.1.sample r.2 u.now (levels.getD r.2 r.1.level) }
    let warned : Power := { u.pwr with warn := level, warnSeen := u.pwr.warnSeen || level }
    let risen (p : Power) (t : State) : Prop :=
      let need := State.demanded { u with pwr := p }
      t.pwr.rails = p.rails ∧ t.pwr.warn = p.warn ∧ t.pwr.target = need ∧ t.pwr.stage = max u.pwr.stage need ∧
      (u.pwr.stage ≤ need → t.pwr.below = none) ∧
      (need < u.pwr.stage → t.pwr.below = some (if u.pwr.target < need then u.now else u.pwr.below.getD u.now))
    (u.part.inReset = false →
      (∃ t, exec (.railMonitorSample dt levels) s = .next t ∧ risen sampled t) ∧
      (∃ t, exec (.pwrWarn dt level) s = .next t ∧ risen warned t) ∧
      (∃ t, exec (.warnDwellExpiry dt) s = .next t ∧ risen u.pwr t) ∧
      (∃ t, exec (.shedDwellExpiry dt) s = .next t ∧ risen u.pwr t) ∧
      (∀ b, 0 < u.pwr.stage → u.pwr.below = some b → b + u.recoverHold ≤ u.now → ∃ t, exec (.recoverHoldExpiry dt) s = .next t ∧
        t.pwr.stage = u.pwr.stage - 1 ∧ t.pwr.rails = u.pwr.rails ∧ t.pwr.target = u.pwr.target ∧
        t.pwr.below = if u.pwr.target < u.pwr.stage - 1 then some u.now else none) ∧
      ((u.pwr.stage = 0 ∨ ∀ b, u.pwr.below = some b → u.now < b + u.recoverHold) →
        exec (.recoverHoldExpiry dt) s = .next (s.closed u))) ∧
    (u.part.inReset = true →
      exec (.warnDwellExpiry dt) s = .next (s.closed u) ∧ exec (.shedDwellExpiry dt) s = .next (s.closed u) ∧
      exec (.recoverHoldExpiry dt) s = .next (s.closed u) ∧ ∃ t, exec (.railMonitorSample dt levels) s = .next t ∧ t.pwr.stage = u.pwr.stage)) ∧
  (∀ v : State,
    (v.pwr.warn = true → v.warnStage ≤ v.demanded) ∧
    (∀ r ∈ v.pwr.rails, (r.band = 1 → 1 ≤ v.demanded) ∧ (r.band = 2 → 3 ≤ v.demanded) ∧ (r.band = 3 → 5 ≤ v.demanded) ∧
      (∀ t, r.band = 1 → r.since1 = some t → t + v.warnDwell ≤ v.now → 2 ≤ v.demanded) ∧
      (∀ t, r.band = 2 → r.since2 = some t → t + v.shedDwell ≤ v.now → 4 ≤ v.demanded)) ∧
    ((∀ r ∈ v.pwr.rails, r.band = 0) → v.pwr.warn = false → v.demanded = 0))

/-- Errors and background work (R28, R33, R36, R164, R467 to R469). A lockstep mismatch and an uncorrectable word of the Gaffer ask for SAFE_HOLD at the
next tick from every mode but BOOT, before any other change that is pending, with the cause of higher rank; in SAFE_HOLD entered by power they take away
the way back. The scrub counts every corrected word by its region and moves on by a slice; an uncorrectable word is counted and its unit marked.
The patrol scrub, the erase of an interrupted slot, the sensors and the skew measurement act alike while the Lehr runs, and none of them otherwise. -/
def Obligations.ErrorsAndBackgroundWork : Prop :=
  (∀ (dt : Nat) (word : U32) (s : State),
    let u := s.arrived dt
    let safe (c : SafeCause) : Option PendMode := some { mode := .safeHold, by_ := .safe c, at_ := nextTickStart u.rate u.now }
    let set (p : Option PendMode) : State := { u with gaf := { u.gaf with pend := p } }
    u.part.inReset = false → u.gaf.ops = [] →
    ((u.gaf.mode = .boot ∨ u.gaf.romHold = true) → exec (.lockstepMismatch dt) s = .next (s.closed u)) ∧
    (u.gaf.mode ≠ .boot → u.gaf.romHold = false → u.gaf.mode ≠ .safeHold →
      ((∀ p c, u.gaf.pend = some p → p.by_ ≠ .safe c) → exec (.lockstepMismatch dt) s = .next (s.closed (set (safe .lockstep))) ∧
        ∃ t, exec (.gafferEccError dt word) s = .next t ∧ t.gaf.pend = safe .gafferEcc ∧ t.gaf.mode = u.gaf.mode ∧
          t.lehr.uncorrected.get 0 6 = u.lehr.uncorrected.get 0 6 + 1) ∧
      (∀ p c, u.gaf.pend = some p → p.by_ = .safe c → exec (.lockstepMismatch dt) s = .next (s.closed (set
          (some (if c.rank < SafeCause.lockstep.rank then { p with by_ := .safe .lockstep } else p)))) ∧
        ∃ t, exec (.gafferEccError dt word) s = .next t ∧
          t.gaf.pend = some (if c.rank < SafeCause.gafferEcc.rank then { p with by_ := .safe .gafferEcc } else p))) ∧
    (u.gaf.mode = .safeHold → u.gaf.romHold = false →
      (∃ t, exec (.lockstepMismatch dt) s = .next t ∧ t.gaf.powerDriven = false ∧ t.gaf.pend = none ∧ t.gaf.mode = .safeHold ∧
        t.gaf.safeCause = if u.gaf.safeCause.rank < SafeCause.lockstep.rank then .lockstep else u.gaf.safeCause) ∧
      (∃ t, exec (.gafferEccError dt word) s = .next t ∧ t.gaf.powerDriven = false ∧ t.gaf.pend = none ∧ t.gaf.mode = .safeHold ∧
        t.gaf.safeCause = if u.gaf.safeCause.rank < SafeCause.gafferEcc.rank then .gafferEcc else u.gaf.safeCause))) ∧
  (∀ (dt : Nat) (hits : List EccHit) (temps : List Int) (link : Fin 4) (phase : U32) (s : State),
    let u := s.arrived dt
    let set (l : Lehr) : State := { u with lehr := l }
    let skew (f : Link → Link) : State := { u with acq := { u.acq with links := u.acq.links.put link.val (f (u.link link.val)) } }
    (u.lehrRuns = true →
      (u.gaf.ops = [] → (∀ h ∈ hits, h.corrected = true) → ∃ t, exec (.lehrSramScrub dt hits) s = .next t ∧
        (∀ r, t.lehr.corrected.get 0 r = u.lehr.corrected.get 0 r + hits.countP fun h => h.region.val == r) ∧
        t.lehr.uncorrected = u.lehr.uncorrected ∧
        t.lehr.scrubPos = (if u.lehr.scrubPos + 1 < 128 then u.lehr.scrubPos + 1 else 0) ∧
        (u.lehr.scrubPos + 1 < 128 → t.lehr.scrubMs = u.lehr.scrubMs)) ∧
      (∀ h, u.gaf.ops = [] → hits = [h] → h.corrected = false → h.region ≠ 1 → ∃ t, exec (.lehrSramScrub dt hits) s = .next t ∧
        (∀ r, t.lehr.uncorrected.get 0 r = u.lehr.uncorrected.get 0 r + if r = h.region.val then 1 else 0) ∧
        t.lehr.corrected = u.lehr.corrected ∧ (h.region = 0 → (h.unit.toNat, h.obj) ∈ t.eng.badCluster) ∧
        (h.region = 3 → t.conv.bad = true) ∧ (h.region = 5 → h.obj < 8 → h.obj ∈ t.log.bad)) ∧
      (u.rec_.ddr = true → exec (.lehrDdrScrub dt) s =
        .next (s.closed (set { u.lehr with ddrPos := (u.lehr.ddrPos + 1) % max 1 u.rec_.ddrMb }))) ∧
      (∀ g, u.pwr.warn = false → u.ignoresCfg = false → u.gaf.commit = none → u.store.cfg0 = .interrupted g →
        ∃ t, exec (.lehrFlashMaintenance dt) s = .next t ∧ t.store = { u.store with cfg0 := .erased } ∧
          t.lehr.eraseCounts.get 0 0 = u.lehr.eraseCounts.get 0 0 + 1) ∧
      (∀ a b c, u.pwr.warn = false → u.ignoresCfg = true → u.store.calCommit = none → u.store.cal0 = .valid a b → u.store.cal1 = .interrupted c →
        ∃ t, exec (.lehrFlashMaintenance dt) s = .next t ∧ t.store = { u.store with cal1 := .erased } ∧
          t.lehr.eraseCounts.get 0 3 = u.lehr.eraseCounts.get 0 3 + 1) ∧
      (∃ t, exec (.lehrTelemetry dt temps) s = .next t ∧ t.lehr.temps = temps ∧ t.lehr.itemSec = some (u.now / secF) ∧
        (u.lehr.itemSec = some (u.now / secF) → t.lehr.tempMax = some (max (temps.getD 0 0) (u.lehr.tempMax.getD (temps.getD 0 0))) ∧ t.pwr = u.pwr) ∧
        (u.lehr.itemSec ≠ some (u.now / secF) → t.lehr.tempMax = some (temps.getD 0 0) ∧ t.pwr.warnSeen = u.pwr.warn ∧
          ∀ r ∈ t.pwr.rails, r.n = 0 ∧ r.sum = 0)) ∧
      exec (.lehrSkewMeasure dt link phase) s = .next (s.closed (skew fun k => { k with lehr := some (phase.toInt, u.now), stale := false }))) ∧
    (u.lehrRuns = false → exec (.lehrDdrScrub dt) s = .next (s.closed u) ∧ exec (.lehrFlashMaintenance dt) s = .next (s.closed u) ∧
      exec (.lehrTelemetry dt temps) s = .next (s.closed u) ∧ exec (.lehrSkewMeasure dt link phase) s = .next (s.closed u) ∧
      (u.gaf.ops = [] → ∃ t, exec (.lehrSramScrub dt hits) s = .next t ∧ t.lehr = u.lehr)) ∧
    (∀ m t, (u.link link.val).lehr = some (m, t) → exec (.skewcalStale dt link) s =
      .next (s.closed (if t + 60 * secF < u.now then skew fun k => { k with stale := true } else u)))) ∧
  (∀ (dt : Nat) (lane : Fin 24) (m : Fin 2) (c : Fin 4) (lock inverted : Bool) (s : State),
    let u := s.arrived dt
    u.part.inReset = false →
    (lane.val < numLanes u.isL → ∃ t, exec (.receiverLock dt (.valve lane) lock inverted) s = .next t ∧
      ∀ n, t.lane n = if n = lane.val then { u.lane n with locked := lock, polRev := lock && inverted } else u.lane n) ∧
    (numLanes u.isL ≤ lane.val → exec (.receiverLock dt (.valve lane) lock inverted) s = .next (s.closed u)) ∧
    (u.pair.mirrorLock.length = 2 → ∃ t, exec (.receiverLock dt (.mirror m) lock inverted) s = .next t ∧
      ∀ n, t.pair.mirrorLock.getD n false = if n = m.val then lock else u.pair.mirrorLock.getD n false) ∧
    (u.cas.lock.length = 4 → ∃ t, exec (.receiverLock dt (.cascade c) lock inverted) s = .next t ∧
      ∀ n, t.cas.lock.getD n false = if n = c.val then lock else u.cas.lock.getD n false))

/-! ### Time -/

/-- Domain states and working time (R84, R85, R88, R89, R91, R92). A LOCKED domain whose reference is later than 3 intervals enters HOLDOVER, its
increment held at the mean of the last ones or, with the host's servo, as it is; a reference in time keeps it LOCKED; HOLDOVER ends in FREE at its limit.
A valid reference takes FREE and HOLDOVER to ACQUIRING, and the 16th offset within LOCK_THR in a row to LOCKED. Working time is switched to the
other domain when AUTO_SWITCH asks for it or REVERT_HOLD has passed, never to one that is not LOCKED, and reads the same before and after. Where
none of this is due nothing changes but the note of synchronisation. -/
def Obligations.DomainsAndWorkingTime : Prop :=
  (∀ (dt : Nat) (x : Dom) (s : State),
    let u := s.arrived dt
    let d := u.time.dom x
    let ends (f : Domain) : Host.Outcome State Fault Refusal := .next (s.closed (State.noteSync u.timeSync { u with time := u.time.setDom x f }))
    let stays : Host.Outcome State Fault Refusal := .next (s.closed (u.noteSync u.timeSync))
    (∀ r, d.state = .locked → d.lastRef = some r → r + 3 * d.interval * 2 ^ 32 < d.count →
      (u.hostServo x = true → exec (.domainRefTimeout dt x) s = ends { d with state := .holdover, holdAt := d.count, good := 0 }) ∧
      (u.hostServo x = false → d.incs ≠ [] → exec (.domainRefTimeout dt x) s = ends { d with
        state := .holdover, holdAt := d.count, good := 0
        pend := some (d.incs.foldl (· + ·) 0 / d.incs.length, (d.count / (1000 * 2 ^ 32) + 1) * (1000 * 2 ^ 32)) })) ∧
    ((d.state ≠ .locked ∨ ∃ r, d.lastRef = some r ∧ d.count ≤ r + 3 * d.interval * 2 ^ 32) → exec (.domainRefTimeout dt x) s = stays) ∧
    (d.state = .holdover → d.holdAt + u.holdoverLimit x * countSec ≤ d.count →
      exec (.holdoverLimitExpiry dt x) s = ends { d with state := .free, good := 0 }) ∧
    ((d.state ≠ .holdover ∨ d.count < d.holdAt + u.holdoverLimit x * countSec) → exec (.holdoverLimitExpiry dt x) s = stays)) ∧
  (∀ (dt : Nat) (s : State),
    let u := s.arrived dt
    let src := u.time.src
    let stays : Host.Outcome State Fault Refusal := .next (s.closed (u.noteSync u.timeSync))
    let lost : Option Fine :=
      if s.timeSync = true ∧ u.timeSync = false then some u.now else if u.timeSync = true then none else u.time.syncLostAt
    let sw (c : Instr) (y : Dom) : Prop := ∃ t, exec c s = .next t ∧ t.time.src = y ∧ t.time.nowUnits = u.time.nowUnits ∧ t.now = u.now ∧
      t.time.domA = u.time.domA ∧ t.time.domB = u.time.domB
    (u.time.owedSwitch = false → u.autoSwitch = true → (u.time.dom src).state ≠ .locked → (u.time.dom src.other).state = .locked →
      sw (.worktimeSwitch dt) src.other) ∧
    (u.time.owedSwitch = true → src ≠ u.preferred → (u.time.dom u.preferred).state = .locked → sw (.worktimeSwitch dt) u.preferred) ∧
    (u.switchDue = none → exec (.worktimeSwitch dt) s = stays) ∧
    (∀ t, exec (.worktimeSwitch dt) s = .next t → t.time.src = src ∨ (u.time.dom t.time.src).state = .locked) ∧
    (u.revertDue = true → sw (.revertHoldExpiry dt) u.preferred ∧ (u.time.dom u.preferred).state = .locked) ∧
    (u.revertDue = false → exec (.revertHoldExpiry dt) s = stays) ∧
    (∃ t, exec (.workOffsetBleed dt) s = .next t ∧ t.time = { u.time with syncLostAt := lost })) ∧
  (∀ (x : Dom) (ofs : Int) (iv : Nat) (u : State),
    let d := u.time.dom x
    let e := (u.reference x ofs iv).time.dom x
    (u.hostServo x = true ∨ ofs.natAbs ≤ 65536000000) →
    ((d.state = .free ∨ d.state = .holdover) → e.state = .acquiring ∧ e.good = if ofs.natAbs ≤ u.lockThr x then 1 else 0) ∧
    (d.state = .acquiring → u.lockThr x < ofs.natAbs → e.state = .acquiring ∧ e.good = 0) ∧
    (d.state = .acquiring → ofs.natAbs ≤ u.lockThr x → d.good < 15 → e.state = .acquiring ∧ e.good = d.good + 1) ∧
    (d.state = .acquiring → ofs.natAbs ≤ u.lockThr x → 15 ≤ d.good → e.state = .locked) ∧
    (d.state = .locked → 4 * u.lockThr x < ofs.natAbs → e.state = .holdover) ∧
    (d.state = .locked → ofs.natAbs ≤ 4 * u.lockThr x → e.state = .locked ∧ e.lastRef = some d.count))

/-- Time inputs (R102, R104). An edge of 1PPS is stamped in working time and both domains; one a second ± 100 µs after the last makes the input
valid, a high time beyond the low time in the third second in a row turns the polarity, and 3 s without such an edge make it invalid. An IRIG-B
frame gives the time of day, valid once two in a row agree; the second in a row that decodes only after inversion turns the polarity. An input that is off changes nothing. -/
def Obligations.TimeInputs : Prop :=
  ∀ (dt : Nat) (high low : Nat) (rising : Bool) (f : IrigFrame) (s : State),
    let u := s.arrived dt
    let p := u.time.pps
    let g := u.time.irig
    let stays : Host.Outcome State Fault Refusal := .next (s.closed (u.noteSync u.timeSync))
    let last : Nat := if u.ppsDom = .a then p.lastA else p.lastB
    let gap : Int := ((u.time.dom u.ppsDom).t80 : Int) - last
    let ok : Prop := p.seen = true ∧ (gap - (secF : Int)).natAbs ≤ 6553600000
    let hi := if p.reversed then low else high
    let lo := if p.reversed then high else low
    ((u.ppsOn = false ∨ rising = p.reversed) → exec (.ppsEdge dt high low rising) s = stays) ∧
    (u.ppsOn = true → rising ≠ p.reversed → ∃ t, exec (.ppsEdge dt high low rising) s = .next t ∧ t.time.pps.seen = true ∧
      t.time.pps.lastW = u.now ∧ t.time.pps.lastA = u.time.domA.t80 ∧ t.time.pps.lastB = u.time.domB.t80 ∧
      (ok → t.time.pps.valid = true ∧ t.time.pps.good = p.good + 1) ∧ (¬ ok → t.time.pps.valid = p.valid ∧ t.time.pps.good = 0) ∧
      (hi ≤ lo → t.time.pps.longHigh = 0 ∧ t.time.pps.reversed = p.reversed) ∧
      (lo < hi → p.longHigh < 2 → t.time.pps.longHigh = p.longHigh + 1 ∧ t.time.pps.reversed = p.reversed) ∧
      (lo < hi → 2 ≤ p.longHigh → t.time.pps.reversed = !p.reversed)) ∧
    (p.valid = true → 3 * secF ≤ (u.time.dom u.ppsDom).t80 - last →
      exec (.ppsTimeout dt) s = .next (s.closed { u with time := { u.time with pps := { p with valid := false, good := 0 } } })) ∧
    ((p.valid = false ∨ (u.time.dom u.ppsDom).t80 - last < 3 * secF) → exec (.ppsTimeout dt) s = .next (s.closed u)) ∧
    (u.irigOn = false → exec (.irigFrame dt f) s = stays) ∧
    (u.irigOn = true → f.inverted ≠ g.reversed → g.inverted = 0 → exec (.irigFrame dt f) s = .next (s.closed (State.noteSync u.timeSync
      { u with time := { u.time with irig := { g with inverted := 1 } } }))) ∧
    (u.irigOn = true → (u.irigCf = false ∨ f.worseThan1us = false) → (f.inverted = g.reversed ∨ 1 ≤ g.inverted) → ∃ t,
      exec (.irigFrame dt f) s = .next t ∧ t.time.irig.last = some (u.irigTai f) ∧ t.time.irig.lastW = u.now ∧ t.time.irig.inverted = 0 ∧
      t.time.irig.reversed = f.inverted ∧ (t.time.irig.valid = true ↔ ∃ l, g.last = some l ∧ u.irigTai f = l + 1000000000))

/-- PTP, the drain of the time-stamp queues, leap seconds and pulse outputs (R86, R93, R95, R98, R103, R105). Delay request-response messages are
discarded and counted, a first Announce gives a port its master, a one-step Sync from the selected master is the reference of its domain, and a
one-step peer delay response gives the delay. A timer that is due sends its message in class 7 and starts its interval again. A drain empties every queue and keeps
DROPS. A leap second that has come moves LEAP_ADJ and is written as UTC_LEAP, or is owed under PWR_WARN. A pulse leaves its output once. -/
def Obligations.TimeMessagesAndPulses : Prop :=
  (∀ (dt : Nat) (m : PtpMsg) (x : Dom) (s : State),
    let u := s.arrived dt
    let p := m.port.val
    let r := u.ptp p x
    let rx := u.ingressAt p x
    let ends (v : State) : Host.Outcome State Fault Refusal := .next (s.closed (v.noteSync u.timeSync))
    let put (r' : PtpPort) : State := { u with time := { u.time with ptp := u.time.ptp.put (2 * p + x.num) r' } }
    let runs : Prop := u.fwRuns = true ∧ u.part.inReset = false ∧ u.gaf.mode ≠ .boot ∧ (u.port p).up = true ∧ u.ptpRole p ≠ 0
    ((u.fwRuns = false ∨ u.part.inReset = true ∨ u.gaf.mode = .boot ∨ (u.port p).up = false ∨ u.ptpRole p = 0) →
      exec (.ptpMessageRx dt m) s = ends u) ∧
    (runs → m.kind = .delayReqResp →
      exec (.ptpMessageRx dt m) s = ends (u.modPort p fun q => { q with ptpDiscard := satAdd 32 q.ptpDiscard 1 })) ∧
    (runs → m.kind ≠ .delayReqResp → u.ptpDoms p m.domainNumber.toNat = [] → exec (.ptpMessageRx dt m) s = ends u) ∧
    (runs → u.ptpDoms p m.domainNumber.toNat = [x] → u.ptpRole p ≠ 2 →
      (m.kind = .announce → m.src ≠ u.clockId → m.clock.gmId ≠ u.clockId → (m.tlvOk = true ∨ u.fld 0x202 x.num 0 (·.u8 1) ≠ 1) →
        u.freshMaster p x = none → exec (.ptpMessageRx dt m) s = ends (put { r with master := some (m.clock, m.src), masterAt := rx, inacc := m.inacc })) ∧
      (m.kind = .announce → (m.src = u.clockId ∨ m.clock.gmId = u.clockId) → exec (.ptpMessageRx dt m) s = ends u) ∧
      (∀ c, m.kind = .sync → m.twoStep = false → u.slavePort x = some (p, c, m.src) → u.hostServo x = false →
        exec (.ptpMessageRx dt m) s = ends (u.reference x ((rx : Int) - (((m.origin : Int) + m.corr) + r.delay)) (u.syncInterval p))) ∧
      (∀ c, m.kind = .sync → m.twoStep = true → u.slavePort x = some (p, c, m.src) →
        exec (.ptpMessageRx dt m) s = ends (put { r with pendingSync := some (m.seq, m.src, rx, m.corr) })) ∧
      (m.kind = .sync → u.slavePort x = none → exec (.ptpMessageRx dt m) s = ends u) ∧
      (∀ t1, m.kind = .pdelayResp → m.twoStep = false → r.pdelay = some { seq := m.seq, t1 := some t1 } →
        exec (.ptpMessageRx dt m) s = ends (put { r with delay := ((((rx : Int) - t1) - m.corr) / 2).toNat, pdelay := none })))) ∧
  (∀ (dt : Nat) (p : Fin 16) (x : Dom) (k : PtpKind) (s : State),
    let u := s.arrived dt
    let r := u.ptp p.val x
    let now := u.domNow x
    let runs : Prop := u.fwRuns = true ∧ u.part.inReset = false ∧ u.gaf.mode ≠ .boot ∧ (u.port p.val).up = true ∧ u.inDom p.val x = true
    (¬ runs → exec (.ptpTransmitInterval dt p x k) s = .next (s.closed u)) ∧
    (runs → k = .sync → u.isMaster p.val x = true →
      (r.syncAt + u.syncInterval p.val * 65536 ≤ now → ∃ t, exec (.ptpTransmitInterval dt p x k) s = .next t ∧
        t.ptp p.val x = { r with syncSeq := r.syncSeq + 1, syncAt := now } ∧ t.time.domA = u.time.domA ∧ t.time.domB = u.time.domB ∧
        (u.oneStep x = false → (t.time.await.get [] p.val).head?.map (·.msg.seq) = some r.syncSeq)) ∧
      (r.syncAt ≤ now → now < r.syncAt + u.syncInterval p.val * 65536 → exec (.ptpTransmitInterval dt p x k) s = .next (s.closed u))) ∧
    (runs → k = .announce → u.isMaster p.val x = true → r.announceAt + secF ≤ now → ∃ t, exec (.ptpTransmitInterval dt p x k) s = .next t ∧
        t.ptp p.val x = { r with announceSeq := r.announceSeq + 1, announceAt := now }) ∧
    (runs → k = .pdelayReq → u.ptpRole p.val ≠ 0 → r.pdelayAt + secF ≤ now → ∃ t, exec (.ptpTransmitInterval dt p x k) s = .next t ∧
        t.ptp p.val x = { r with pdelaySeq := r.pdelaySeq + 1, pdelayAt := now, pdelay := some { seq := r.pdelaySeq } })) ∧
  (∀ (dt : Nat) (s : State),
    let u := s.arrived dt
    (u.fwRuns = true → u.part.inReset = false → ∃ t, exec (.tsqDrain dt) s = .next t ∧
      ∀ p, p < 16 → (t.time.tsq.get { } p).items = [] ∧ (t.time.tsq.get { } p).drops = (u.time.tsq.get { } p).drops) ∧
    ((u.fwRuns = false ∨ u.part.inReset = true) → exec (.tsqDrain dt) s = .next (s.closed u))) ∧
  (∀ (dt : Nat) (x : Dom) (s : State),
    let u := s.arrived dt
    let d := u.time.dom x
    ((d.leap = none ∨ u.part.inReset = true) → exec (.leapSecond dt x) s = .next (s.closed u)) ∧
    (∀ sec neg, d.leap = some (sec, neg) →
      (d.t80 < sec * secF → exec (.leapSecond dt x) s = .next (s.closed u)) ∧
      (sec * secF ≤ d.t80 → u.part.inReset = false → ∃ t, exec (.leapSecond dt x) s = .next t ∧
        t.time = u.time.setDom x { d with leap := none, leapAdj := d.leapAdj + if neg then -1 else 1 } ∧
        (u.pwr.warn = true → t.store = { u.store with leapOwed := true }) ∧
        (u.pwr.warn = false → u.store.calCommit = none → t.store.leapOwed = false ∧ t.store.calCommit.isSome = true)))) ∧
  (∀ (dt : Nat) (out : Fin 2) (b : Bytes) (s : State),
    let u := s.arrived dt
    let p := u.time.pulses.get { } out.val
    (u.rec? 0x206 out.val = none → exec (.pulseEdge dt out) s = .next (s.closed u)) ∧
    (u.rec? 0x206 out.val = some b →
      (u.pulseProgram out.val b = none → exec (.pulseEdge dt out) s = .next (s.closed u)) ∧
      (∀ t, u.pulseProgram out.val b = some t → b.u8 0 ≠ 5 →
        (∀ l, p.last = some l → t ≤ l → exec (.pulseEdge dt out) s = .next (s.closed u)) ∧
        ((∀ l, p.last = some l → l < t) → exec (.pulseEdge dt out) s = .next (s.closed (({ u with time := { u.time with
          pulses := u.time.pulses.put out.val { p with last := some t, width := b.u32 4, count := p.count + 1 } } } : State).emit (.pulse out.val t)))))))

/-! ### Lattice, fast cycles, trackers, Marver -/

/-- Ticks, fast cycles, trackers and firings (R9, R34, R77, R78, R90, R91, R107, R112, R114, R115 to R117). A tick that has been produced, or lies before one that
has, is not produced again, and a new one is noted and does its work (`tickWork`, in the order of R91, R34, R77, R394, R78, R336, R406); a fast
cycle likewise (`cycleWork`), and in reset only the heartbeat is sent. A tracker locks after 100 ms within its limits and leaves COAST at COAST_LIMIT.
The first firing that waits is delivered once its stamp has come, to the target its record names. -/
def Obligations.TicksCyclesAndFirings : Prop :=
  (∀ (dt : Nat) (s : State),
    let u := s.arrived dt
    let k := u.tick
    let n := u.cycle
    let stays : Host.Outcome State Fault Refusal := .next (s.closed u)
    (u.part.inReset = true → exec (.latticeTick dt) s = stays ∧ exec (.fastCycle dt) s = .next (s.closed (u.heartbeat n))) ∧
    (u.part.inReset = false → (u.time.rateNew = none ∨ ∃ r sec, u.time.rateNew = some (r, sec) ∧ u.now < sec * secF) →
      (∀ l, u.time.tick = some l → tickNum u.rate k ≤ tickNum u.rate l → l.2 < u.rate → k.2 < u.rate → exec (.latticeTick dt) s = stays) ∧
      ((∀ l, u.time.tick = some l → l.1 < k.1 ∨ (l.1 = k.1 ∧ l.2 < k.2)) → exec (.latticeTick dt) s =
        .next (s.closed (State.tickWork k { u with time := { u.time with tick := some k } }).settleOut))) ∧
    (u.part.inReset = false →
      (∀ l, u.time.fast = some l → cycleNum n ≤ cycleNum l → exec (.fastCycle dt) s = stays) ∧
      ((∀ l, u.time.fast = some l → cycleNum l < cycleNum n) →
        exec (.fastCycle dt) s = .next (s.closed (State.cycleWork n { u with time := { u.time with fast := some n } }).settleOut)))) ∧
  (∀ (dt : Nat) (i : Fin 8) (b : Bytes) (s : State),
    let u := s.arrived dt
    let x := u.tracker i.val
    let put (y : Tracker) : Host.Outcome State Fault Refusal := .next (s.closed { u with trk := u.trk.put i.val y })
    let stays : Host.Outcome State Fault Refusal := .next (s.closed u)
    (∀ t, x.state = .locking → x.within = some t → t + 100000000 * nsF ≤ u.now → exec (.trackerLockTimer dt i) s = put { x with state := .locked }) ∧
    ((x.state ≠ .locking ∨ ∀ t, x.within = some t → u.now < t + 100000000 * nsF) → exec (.trackerLockTimer dt i) s = stays) ∧
    (u.rec? 0x207 i.val = some b → x.state = .coast → x.since + b.u16 0x12 * 1000000 * nsF ≤ u.now →
      exec (.coastLimitExpiry dt i) s = put { x with state := .unlocked, freq := Fp.ofInt (b.u8 1) }) ∧
    (u.rec? 0x207 i.val = some b → (x.state ≠ .coast ∨ u.now < x.since + b.u16 0x12 * 1000000 * nsF) → exec (.coastLimitExpiry dt i) s = stays)) ∧
  (∀ (dt : Nat) (f : Firing) (q : List Firing) (b : Bytes) (s : State),
    let u := s.arrived dt
    let v : State := { u with mar := { u.mar with queue := q } }
    let arg := b.u8 3
    (u.mar.queue = [] → exec (.marverFiring dt) s = .next (s.closed u)) ∧
    (u.mar.queue = f :: q → (u.now < f.stamp ∨ u.part.inReset = true) → exec (.marverFiring dt) s = .next (s.closed u)) ∧
    (u.mar.queue = f :: q → f.stamp ≤ u.now → u.part.inReset = false →
      (u.rec? 0x208 f.event = none → exec (.marverFiring dt) s = .next (s.closed v)) ∧
      (u.rec? 0x208 f.event = some b →
        (b.u8 2 = 1 → u.fld 0x206 arg 0 (·.u8 0) = 5 → exec (.marverFiring dt) s = .next (s.closed { v with time := { v.time with
          pulses := v.time.pulses.put arg { v.time.pulses.get { } arg with marver := f.stamp :: (v.time.pulses.get { } arg).marver } } })) ∧
        (b.u8 2 = 1 → u.fld 0x206 arg 0 (·.u8 0) ≠ 5 → exec (.marverFiring dt) s = .next (s.closed v)) ∧
        (b.u8 2 = 2 → exec (.marverFiring dt) s = .next (s.closed (v.fireExternal 4 (2 ^ arg) f.stamp))) ∧
        (b.u8 2 = 4 → exec (.marverFiring dt) s = .next (s.closed (v.convEvent arg f.stamp))) ∧
        (b.u8 2 = 5 → exec (.marverFiring dt) s = .next (s.closed (v.flagFiring arg f.stamp))) ∧
        (b.u8 2 ∈ [3, 6] → exec (.marverFiring dt) s = .next (s.closed v))))) ∧
  (∀ (c : Nat × Nat) (win : Table (U32 × Nat)) (n : Nat) (b : Bytes) (v : State),
    let e := v.mar? n
    let w := win.get (0, 0) (b.u8 0)
    let ev : U32 := BitVec.ofNat 32 (b.u32 8)
    let after := v.marverEvent c win (n, b)
    ((e.emode = 0 ∨ cycleStart c < e.from_ ∨ w.2 ≤ (ev - w.1).toNat) → after = v) ∧
    (e.emode ≠ 0 → e.from_ ≤ cycleStart c → (ev - w.1).toNat < w.2 →
      (e.emode = 3 → (after.mar? n).emode = 0 ∧ (after.mar? n).firings = satAdd 32 e.firings 1) ∧
      (e.emode = 1 → (after.mar? n).emode = 1 ∧ (after.mar? n).firings = satAdd 32 e.firings 1) ∧
      (e.emode = 2 → (after.mar? n).emode = 2 ∧ (after.mar? n).count = (e.count + 1) % max 1 (b.u16 4) ∧
        (after.mar? n).firings = if e.count = 0 then satAdd 32 e.firings 1 else e.firings) ∧
      (e.emode = 2 → e.count ≠ 0 → after.mar.queue = v.mar.queue)))

/-! ### Sampled values and ADC links -/

/-- Sampled values (R125 to R128, R130, R132). A frame is discarded and counted in the counter of its reason, one that matches no stream for the device; an
accepted one is the last hit of its stream, learns its source, and moves the entry from UNSEEN or LOST to ACQUIRING and, where it is consistent with the first,
to VALID. A tick whose deadline passes with a sample missing is frozen and counted; a VALID stream with LOSS_TICKS such ticks is LOST; the sweep frees
every entry whose last hit is older than AGE_TIME and leaves the others. -/
def Obligations.SampledValues : Prop :=
  (∀ (dt : Nat) (f : SvFrame) (i : Fin 512) (s : State),
    let u := s.arrived dt
    let stays : Host.Outcome State Fault Refusal := .next (s.closed u)
    let put (n : Nat) (x : Stream) : Host.Outcome State Fault Refusal :=
      .next (s.closed { u with sv := { u.sv with streams := u.sv.streams.put n x } })
    let permits (b : Bytes) : Prop := bitOf (b.u16 0x1C) f.port.val = true
    let form (b : Bytes) : Prop := f.dataLen = 8 * b.u8 0xD ∧ f.noAsdu = b.u8 0xC ∧ ∀ a ∈ f.asdus, a.smpCnt < b.u16 0xA
    let simOk (b : Bytes) : Prop := u.inTest = true ∧ bitOf (b.u16 0xE) 2 = true
    (u.part.inReset = true → exec (.svFrameRx dt f) s = stays ∧ exec (.svTickFreeze dt i) s = stays ∧ exec (.streamLoss dt i) s = stays ∧
      exec (.streamAgeingSweep dt) s = stays) ∧
    (u.part.inReset = false →
      (u.svMatch f = none → exec (.svFrameRx dt f) s = .next (s.closed { u with net := { u.net with svNomatch := satAdd 32 u.net.svNomatch 1 } })) ∧
      (∀ n b, u.svMatch f = some (n, b) →
        let st := u.stream n
        (¬ permits b → exec (.svFrameRx dt f) s = put n { st with portErr := satAdd 32 st.portErr 1 }) ∧
        (permits b → ¬ form b → exec (.svFrameRx dt f) s = put n { st with formatErr := satAdd 32 st.formatErr 1 }) ∧
        (∀ a, permits b → form b → st.src = some a → a ≠ f.src → exec (.svFrameRx dt f) s = put n { st with srcConflict := satAdd 32 st.srcConflict 1 }) ∧
        (permits b → form b → (st.src = none ∨ st.src = some f.src) →
          (f.sim = true → ¬ simOk b → exec (.svFrameRx dt f) s = put n { st with simDiscard := satAdd 32 st.simDiscard 1 }) ∧
          (f.sim = false → st.sim = true → simOk b → exec (.svFrameRx dt f) s = stays) ∧
          (f.sim = st.sim → (f.sim = true → simOk b) → ∃ t, exec (.svFrameRx dt f) s = .next t ∧
            (t.stream n).src = some f.src ∧ (t.stream n).lastArrival = u.now ∧ (t.stream n).frames = satAdd 32 st.frames 1 ∧
            (∀ m, m ≠ n → t.stream m = u.stream m) ∧
            ((st.state = .unseen ∨ st.state = .lost) → (t.stream n).state = .acquiring) ∧
            (∀ c, st.state = .acquiring → f.confRev.toNat = st.conf b → f.asdus.head?.map (·.smpCnt) = some c →
              (st.first = some (f.confRev.toNat, (c + b.u16 0xA - 1) % b.u16 0xA) → (t.stream n).state = .valid) ∧
              (st.first ≠ some (f.confRev.toNat, (c + b.u16 0xA - 1) % b.u16 0xA) → (t.stream n).state = .acquiring)) ∧
            (st.state = .valid → f.confRev.toNat = st.conf b → (t.stream n).state = .valid))))) ∧
    (u.part.inReset = false →
      (u.rec? 0x301 i.val = none → exec (.svTickFreeze dt i) s = stays ∧ exec (.streamLoss dt i) s = stays) ∧
      (∀ b, u.rec? 0x301 i.val = some b →
        let st := u.stream i.val
        (u.now < svDeadline b u.rate → exec (.svTickFreeze dt i) s = stays) ∧
        (∀ j, svDeadline b u.rate ≤ u.now → st.frozen = some j → st.ahead = [] → tickOf u.rate (u.now - svDeadline b u.rate) = nextTick u.rate j →
          tickNum u.rate (nextTick u.rate j) = tickNum u.rate j + 1 → st.inputs (b.u16 0xA) u.rate (tickNum u.rate (nextTick u.rate j)) = none →
          ∃ t, exec (.svTickFreeze dt i) s = .next t ∧ (t.stream i.val).frozen = some (nextTick u.rate j) ∧
            (t.stream i.val).missing = (if st.state = .valid then satAdd 32 st.missing 1 else st.missing) ∧ (∀ m, m ≠ i.val → t.stream m = u.stream m)) ∧
        (st.state = .valid → b.u16 0x20 ≤ st.lostTicks → ∃ t, exec (.streamLoss dt i) s = .next t ∧ t.stream i.val = { st with state := .lost } ∧
          ∀ m, m ≠ i.val → t.stream m = u.stream m) ∧
        ((st.state ≠ .valid ∨ st.lostTicks < b.u16 0x20) → exec (.streamLoss dt i) s = stays)) ∧
      (((u.recs 0x301).map (·.1)).Nodup → ∃ t, exec (.streamAgeingSweep dt) s = .next t ∧ ∀ r ∈ u.recs 0x301,
        ((u.stream r.1).state ≠ .unseen → (u.stream r.1).lastArrival + r.2.u16 0x22 * secF < u.now →
          (t.stream r.1).state = .unseen ∧ (t.stream r.1).src = none) ∧
        (u.now ≤ (u.stream r.1).lastArrival + r.2.u16 0x22 * secF → t.stream r.1 = u.stream r.1))))

/-- ADC links and SYSREF (R138, R140, R142, R143). A block moves the state of its link alone and a CRC error in DATA is counted there; a link without a record, or
off, takes nothing. A SYSREF edge reaches every link: within 2 ns of its instant it is the new edge, and SKEWCAL ends with the 16th in a row; beyond
it, or without an edge for 1.5 periods, SYSREF_ERR counts and the link extrapolates whole periods. -/
def Obligations.AdcLinks : Prop :=
  (∀ (dt : Nat) (i : Fin 4) (blk : JesdBlock) (s : State),
    let u := s.arrived dt
    let k := u.link i.val
    let stays : Host.Outcome State Fault Refusal := .next (s.closed u)
    ((u.rec? 0x401 i.val = none ∨ ∃ b, u.rec? 0x401 i.val = some b ∧ b.u8 0 = 0) → exec (.jesdBlockRx dt i blk) s = stays) ∧
    (∀ b, u.rec? 0x401 i.val = some b → b.u8 0 ≠ 0 →
      let k' := Link.block (lanesOf b) blk k
      ∃ t, exec (.jesdBlockRx dt i blk) s = .next t ∧ (t.link i.val).state = k'.state ∧ (∀ m, m ≠ i.val → t.link m = u.link m) ∧
        (t.link i.val).crcErr = (if k'.state = .data ∧ blk.crcOk = false then satAdd 32 k'.crcErr 1 else k'.crcErr)) ∧
    (u.rec? 0x401 i.val = none → exec (.sysrefTimeout dt i) s = stays) ∧
    (∀ b e, u.rec? 0x401 i.val = some b → k.lastEdge = some e →
      let p := k.span16 b / 16
      (u.now < e + p + p * 3 / 2 → ∃ t, exec (.sysrefTimeout dt i) s = .next t ∧ ∀ m, t.link m = u.link m) ∧
      (e + p + p * 3 / 2 ≤ u.now → ∃ t, exec (.sysrefTimeout dt i) s = .next t ∧ (t.link i.val).sysrefErr = satAdd 32 k.sysrefErr 1 ∧
        (t.link i.val).extrap = true ∧ (t.link i.val).state = k.state ∧ (t.link i.val).lastEdge = some (e + (u.now - e) / p * p) ∧
        ∀ m, m ≠ i.val → t.link m = u.link m))) ∧
  (∀ (dt : Nat) (s : State),
    let u := s.arrived dt
    ((u.recs 0x401).map (·.1)).Nodup → ∃ t, exec (.sysrefEdge dt) s = .next t ∧
      (∀ m, (∀ r ∈ u.recs 0x401, r.1 ≠ m) → t.link m = u.link m) ∧
      ∀ r ∈ u.recs 0x401, ∀ e, (u.link r.1).lastEdge = some e →
        let k := u.link r.1
        let p := k.span16 r.2 / 16
        (t.link r.1).state = k.state ∧
        (((u.now : Int) - (e + p : Nat)).natAbs ≤ 131072 → (t.link r.1).lastEdge = some u.now ∧ (t.link r.1).goodEdges = k.goodEdges + 1 ∧
          (t.link r.1).sysrefErr = k.sysrefErr ∧ (t.link r.1).extrap = if 15 ≤ k.goodEdges then false else k.extrap) ∧
        (131072 < ((u.now : Int) - (e + p : Nat)).natAbs → (t.link r.1).sysrefErr = satAdd 32 k.sysrefErr 1 ∧ (t.link r.1).goodEdges = 0 ∧
          (t.link r.1).extrap = true))
end

