-- ==== Sys2Proof/Laws/State.lean ====
section
/-!
SUPPORT. What each update of the state writes and what it leaves: one lemma for each field and update, all true by definition.
-/
namespace Sys2Proof.Machine.State

variable (s : State)

/-! ### `modGaf` -/

@[simp] theorem modGaf_part (f : Gaffer → Gaffer) : (s.modGaf f).part = s.part := rfl
@[simp] theorem modGaf_gaf (f : Gaffer → Gaffer) : (s.modGaf f).gaf = f s.gaf := rfl
@[simp] theorem modGaf_mbx (f : Gaffer → Gaffer) : (s.modGaf f).mbx = s.mbx := rfl
@[simp] theorem modGaf_cfg (f : Gaffer → Gaffer) : (s.modGaf f).cfg = s.cfg := rfl
@[simp] theorem modGaf_cfgGen (f : Gaffer → Gaffer) : (s.modGaf f).cfgGen = s.cfgGen := rfl
@[simp] theorem modGaf_cfgValid (f : Gaffer → Gaffer) : (s.modGaf f).cfgValid = s.cfgValid := rfl
@[simp] theorem modGaf_place (f : Gaffer → Gaffer) : (s.modGaf f).place = s.place := rfl
@[simp] theorem modGaf_time (f : Gaffer → Gaffer) : (s.modGaf f).time = s.time := rfl
@[simp] theorem modGaf_trk (f : Gaffer → Gaffer) : (s.modGaf f).trk = s.trk := rfl
@[simp] theorem modGaf_mar (f : Gaffer → Gaffer) : (s.modGaf f).mar = s.mar := rfl
@[simp] theorem modGaf_sv (f : Gaffer → Gaffer) : (s.modGaf f).sv = s.sv := rfl
@[simp] theorem modGaf_acq (f : Gaffer → Gaffer) : (s.modGaf f).acq = s.acq := rfl
@[simp] theorem modGaf_eng (f : Gaffer → Gaffer) : (s.modGaf f).eng = s.eng := rfl
@[simp] theorem modGaf_conv (f : Gaffer → Gaffer) : (s.modGaf f).conv = s.conv := rfl
@[simp] theorem modGaf_valve (f : Gaffer → Gaffer) : (s.modGaf f).valve = s.valve := rfl
@[simp] theorem modGaf_log (f : Gaffer → Gaffer) : (s.modGaf f).log = s.log := rfl
@[simp] theorem modGaf_fio (f : Gaffer → Gaffer) : (s.modGaf f).fio = s.fio := rfl
@[simp] theorem modGaf_net (f : Gaffer → Gaffer) : (s.modGaf f).net = s.net := rfl
@[simp] theorem modGaf_ev (f : Gaffer → Gaffer) : (s.modGaf f).ev = s.ev := rfl
@[simp] theorem modGaf_rec (f : Gaffer → Gaffer) : (s.modGaf f).rec_ = s.rec_ := rfl
@[simp] theorem modGaf_pair (f : Gaffer → Gaffer) : (s.modGaf f).pair = s.pair := rfl
@[simp] theorem modGaf_arb (f : Gaffer → Gaffer) : (s.modGaf f).arb = s.arb := rfl
@[simp] theorem modGaf_cas (f : Gaffer → Gaffer) : (s.modGaf f).cas = s.cas := rfl
@[simp] theorem modGaf_pwr (f : Gaffer → Gaffer) : (s.modGaf f).pwr = s.pwr := rfl
@[simp] theorem modGaf_store (f : Gaffer → Gaffer) : (s.modGaf f).store = s.store := rfl
@[simp] theorem modGaf_lehr (f : Gaffer → Gaffer) : (s.modGaf f).lehr = s.lehr := rfl
@[simp] theorem modGaf_hostMem (f : Gaffer → Gaffer) : (s.modGaf f).hostMem = s.hostMem := rfl
@[simp] theorem modGaf_emitted (f : Gaffer → Gaffer) : (s.modGaf f).emitted = s.emitted := rfl
@[simp] theorem modGaf_free (f : Gaffer → Gaffer) : (s.modGaf f).free = s.free := rfl
@[simp] theorem modGaf_pending (f : Gaffer → Gaffer) : (s.modGaf f).pending = s.pending := rfl

/-! ### `setMb` -/

@[simp] theorem setMb_part (n : Nat) (m : Mailbox) : (s.setMb n m).part = s.part := rfl
@[simp] theorem setMb_gaf (n : Nat) (m : Mailbox) : (s.setMb n m).gaf = s.gaf := rfl
@[simp] theorem setMb_mbx (n : Nat) (m : Mailbox) : (s.setMb n m).mbx = s.mbx.put n m := rfl
@[simp] theorem setMb_cfg (n : Nat) (m : Mailbox) : (s.setMb n m).cfg = s.cfg := rfl
@[simp] theorem setMb_cfgGen (n : Nat) (m : Mailbox) : (s.setMb n m).cfgGen = s.cfgGen := rfl
@[simp] theorem setMb_cfgValid (n : Nat) (m : Mailbox) : (s.setMb n m).cfgValid = s.cfgValid := rfl
@[simp] theorem setMb_place (n : Nat) (m : Mailbox) : (s.setMb n m).place = s.place := rfl
@[simp] theorem setMb_time (n : Nat) (m : Mailbox) : (s.setMb n m).time = s.time := rfl
@[simp] theorem setMb_trk (n : Nat) (m : Mailbox) : (s.setMb n m).trk = s.trk := rfl
@[simp] theorem setMb_mar (n : Nat) (m : Mailbox) : (s.setMb n m).mar = s.mar := rfl
@[simp] theorem setMb_sv (n : Nat) (m : Mailbox) : (s.setMb n m).sv = s.sv := rfl
@[simp] theorem setMb_acq (n : Nat) (m : Mailbox) : (s.setMb n m).acq = s.acq := rfl
@[simp] theorem setMb_eng (n : Nat) (m : Mailbox) : (s.setMb n m).eng = s.eng := rfl
@[simp] theorem setMb_conv (n : Nat) (m : Mailbox) : (s.setMb n m).conv = s.conv := rfl
@[simp] theorem setMb_valve (n : Nat) (m : Mailbox) : (s.setMb n m).valve = s.valve := rfl
@[simp] theorem setMb_log (n : Nat) (m : Mailbox) : (s.setMb n m).log = s.log := rfl
@[simp] theorem setMb_fio (n : Nat) (m : Mailbox) : (s.setMb n m).fio = s.fio := rfl
@[simp] theorem setMb_net (n : Nat) (m : Mailbox) : (s.setMb n m).net = s.net := rfl
@[simp] theorem setMb_ev (n : Nat) (m : Mailbox) : (s.setMb n m).ev = s.ev := rfl
@[simp] theorem setMb_rec (n : Nat) (m : Mailbox) : (s.setMb n m).rec_ = s.rec_ := rfl
@[simp] theorem setMb_pair (n : Nat) (m : Mailbox) : (s.setMb n m).pair = s.pair := rfl
@[simp] theorem setMb_arb (n : Nat) (m : Mailbox) : (s.setMb n m).arb = s.arb := rfl
@[simp] theorem setMb_cas (n : Nat) (m : Mailbox) : (s.setMb n m).cas = s.cas := rfl
@[simp] theorem setMb_pwr (n : Nat) (m : Mailbox) : (s.setMb n m).pwr = s.pwr := rfl
@[simp] theorem setMb_store (n : Nat) (m : Mailbox) : (s.setMb n m).store = s.store := rfl
@[simp] theorem setMb_lehr (n : Nat) (m : Mailbox) : (s.setMb n m).lehr = s.lehr := rfl
@[simp] theorem setMb_hostMem (n : Nat) (m : Mailbox) : (s.setMb n m).hostMem = s.hostMem := rfl
@[simp] theorem setMb_emitted (n : Nat) (m : Mailbox) : (s.setMb n m).emitted = s.emitted := rfl
@[simp] theorem setMb_free (n : Nat) (m : Mailbox) : (s.setMb n m).free = s.free := rfl
@[simp] theorem setMb_pending (n : Nat) (m : Mailbox) : (s.setMb n m).pending = s.pending := rfl

/-! ### `post` -/

@[simp] theorem post_part (e : Ev) : (s.post e).part = s.part := rfl
@[simp] theorem post_gaf (e : Ev) : (s.post e).gaf = s.gaf := rfl
@[simp] theorem post_mbx (e : Ev) : (s.post e).mbx = s.mbx := rfl
@[simp] theorem post_cfg (e : Ev) : (s.post e).cfg = s.cfg := rfl
@[simp] theorem post_cfgGen (e : Ev) : (s.post e).cfgGen = s.cfgGen := rfl
@[simp] theorem post_cfgValid (e : Ev) : (s.post e).cfgValid = s.cfgValid := rfl
@[simp] theorem post_place (e : Ev) : (s.post e).place = s.place := rfl
@[simp] theorem post_time (e : Ev) : (s.post e).time = s.time := rfl
@[simp] theorem post_trk (e : Ev) : (s.post e).trk = s.trk := rfl
@[simp] theorem post_mar (e : Ev) : (s.post e).mar = s.mar := rfl
@[simp] theorem post_sv (e : Ev) : (s.post e).sv = s.sv := rfl
@[simp] theorem post_acq (e : Ev) : (s.post e).acq = s.acq := rfl
@[simp] theorem post_eng (e : Ev) : (s.post e).eng = s.eng := rfl
@[simp] theorem post_conv (e : Ev) : (s.post e).conv = s.conv := rfl
@[simp] theorem post_valve (e : Ev) : (s.post e).valve = s.valve := rfl
@[simp] theorem post_log (e : Ev) : (s.post e).log = s.log := rfl
@[simp] theorem post_fio (e : Ev) : (s.post e).fio = s.fio := rfl
@[simp] theorem post_net (e : Ev) : (s.post e).net = s.net := rfl
@[simp] theorem post_ev (e : Ev) : (s.post e).ev = { s.ev with raised := insertEv e s.ev.raised } := rfl
@[simp] theorem post_rec (e : Ev) : (s.post e).rec_ = s.rec_ := rfl
@[simp] theorem post_pair (e : Ev) : (s.post e).pair = s.pair := rfl
@[simp] theorem post_arb (e : Ev) : (s.post e).arb = s.arb := rfl
@[simp] theorem post_cas (e : Ev) : (s.post e).cas = s.cas := rfl
@[simp] theorem post_pwr (e : Ev) : (s.post e).pwr = s.pwr := rfl
@[simp] theorem post_store (e : Ev) : (s.post e).store = s.store := rfl
@[simp] theorem post_lehr (e : Ev) : (s.post e).lehr = s.lehr := rfl
@[simp] theorem post_hostMem (e : Ev) : (s.post e).hostMem = s.hostMem := rfl
@[simp] theorem post_emitted (e : Ev) : (s.post e).emitted = s.emitted := rfl
@[simp] theorem post_free (e : Ev) : (s.post e).free = s.free := rfl
@[simp] theorem post_pending (e : Ev) : (s.post e).pending = s.pending := rfl

/-! ### `emit` -/

@[simp] theorem emit_part (o : Output) : (s.emit o).part = s.part := rfl
@[simp] theorem emit_gaf (o : Output) : (s.emit o).gaf = s.gaf := rfl
@[simp] theorem emit_mbx (o : Output) : (s.emit o).mbx = s.mbx := rfl
@[simp] theorem emit_cfg (o : Output) : (s.emit o).cfg = s.cfg := rfl
@[simp] theorem emit_cfgGen (o : Output) : (s.emit o).cfgGen = s.cfgGen := rfl
@[simp] theorem emit_cfgValid (o : Output) : (s.emit o).cfgValid = s.cfgValid := rfl
@[simp] theorem emit_place (o : Output) : (s.emit o).place = s.place := rfl
@[simp] theorem emit_time (o : Output) : (s.emit o).time = s.time := rfl
@[simp] theorem emit_trk (o : Output) : (s.emit o).trk = s.trk := rfl
@[simp] theorem emit_mar (o : Output) : (s.emit o).mar = s.mar := rfl
@[simp] theorem emit_sv (o : Output) : (s.emit o).sv = s.sv := rfl
@[simp] theorem emit_acq (o : Output) : (s.emit o).acq = s.acq := rfl
@[simp] theorem emit_eng (o : Output) : (s.emit o).eng = s.eng := rfl
@[simp] theorem emit_conv (o : Output) : (s.emit o).conv = s.conv := rfl
@[simp] theorem emit_valve (o : Output) : (s.emit o).valve = s.valve := rfl
@[simp] theorem emit_log (o : Output) : (s.emit o).log = s.log := rfl
@[simp] theorem emit_fio (o : Output) : (s.emit o).fio = s.fio := rfl
@[simp] theorem emit_net (o : Output) : (s.emit o).net = s.net := rfl
@[simp] theorem emit_ev (o : Output) : (s.emit o).ev = s.ev := rfl
@[simp] theorem emit_rec (o : Output) : (s.emit o).rec_ = s.rec_ := rfl
@[simp] theorem emit_pair (o : Output) : (s.emit o).pair = s.pair := rfl
@[simp] theorem emit_arb (o : Output) : (s.emit o).arb = s.arb := rfl
@[simp] theorem emit_cas (o : Output) : (s.emit o).cas = s.cas := rfl
@[simp] theorem emit_pwr (o : Output) : (s.emit o).pwr = s.pwr := rfl
@[simp] theorem emit_store (o : Output) : (s.emit o).store = s.store := rfl
@[simp] theorem emit_lehr (o : Output) : (s.emit o).lehr = s.lehr := rfl
@[simp] theorem emit_hostMem (o : Output) : (s.emit o).hostMem = s.hostMem := rfl
@[simp] theorem emit_emitted (o : Output) : (s.emit o).emitted = s.emitted ++ [o] := rfl
@[simp] theorem emit_free (o : Output) : (s.emit o).free = s.free := rfl
@[simp] theorem emit_pending (o : Output) : (s.emit o).pending = s.pending := rfl

/-! ### `modDom` -/

@[simp] theorem modDom_part (x : Dom) (f : Domain → Domain) : (s.modDom x f).part = s.part := rfl
@[simp] theorem modDom_gaf (x : Dom) (f : Domain → Domain) : (s.modDom x f).gaf = s.gaf := rfl
@[simp] theorem modDom_mbx (x : Dom) (f : Domain → Domain) : (s.modDom x f).mbx = s.mbx := rfl
@[simp] theorem modDom_cfg (x : Dom) (f : Domain → Domain) : (s.modDom x f).cfg = s.cfg := rfl
@[simp] theorem modDom_cfgGen (x : Dom) (f : Domain → Domain) : (s.modDom x f).cfgGen = s.cfgGen := rfl
@[simp] theorem modDom_cfgValid (x : Dom) (f : Domain → Domain) : (s.modDom x f).cfgValid = s.cfgValid := rfl
@[simp] theorem modDom_place (x : Dom) (f : Domain → Domain) : (s.modDom x f).place = s.place := rfl
@[simp] theorem modDom_time (x : Dom) (f : Domain → Domain) : (s.modDom x f).time = s.time.setDom x (f (s.time.dom x)) := rfl
@[simp] theorem modDom_trk (x : Dom) (f : Domain → Domain) : (s.modDom x f).trk = s.trk := rfl
@[simp] theorem modDom_mar (x : Dom) (f : Domain → Domain) : (s.modDom x f).mar = s.mar := rfl
@[simp] theorem modDom_sv (x : Dom) (f : Domain → Domain) : (s.modDom x f).sv = s.sv := rfl
@[simp] theorem modDom_acq (x : Dom) (f : Domain → Domain) : (s.modDom x f).acq = s.acq := rfl
@[simp] theorem modDom_eng (x : Dom) (f : Domain → Domain) : (s.modDom x f).eng = s.eng := rfl
@[simp] theorem modDom_conv (x : Dom) (f : Domain → Domain) : (s.modDom x f).conv = s.conv := rfl
@[simp] theorem modDom_valve (x : Dom) (f : Domain → Domain) : (s.modDom x f).valve = s.valve := rfl
@[simp] theorem modDom_log (x : Dom) (f : Domain → Domain) : (s.modDom x f).log = s.log := rfl
@[simp] theorem modDom_fio (x : Dom) (f : Domain → Domain) : (s.modDom x f).fio = s.fio := rfl
@[simp] theorem modDom_net (x : Dom) (f : Domain → Domain) : (s.modDom x f).net = s.net := rfl
@[simp] theorem modDom_ev (x : Dom) (f : Domain → Domain) : (s.modDom x f).ev = s.ev := rfl
@[simp] theorem modDom_rec (x : Dom) (f : Domain → Domain) : (s.modDom x f).rec_ = s.rec_ := rfl
@[simp] theorem modDom_pair (x : Dom) (f : Domain → Domain) : (s.modDom x f).pair = s.pair := rfl
@[simp] theorem modDom_arb (x : Dom) (f : Domain → Domain) : (s.modDom x f).arb = s.arb := rfl
@[simp] theorem modDom_cas (x : Dom) (f : Domain → Domain) : (s.modDom x f).cas = s.cas := rfl
@[simp] theorem modDom_pwr (x : Dom) (f : Domain → Domain) : (s.modDom x f).pwr = s.pwr := rfl
@[simp] theorem modDom_store (x : Dom) (f : Domain → Domain) : (s.modDom x f).store = s.store := rfl
@[simp] theorem modDom_lehr (x : Dom) (f : Domain → Domain) : (s.modDom x f).lehr = s.lehr := rfl
@[simp] theorem modDom_hostMem (x : Dom) (f : Domain → Domain) : (s.modDom x f).hostMem = s.hostMem := rfl
@[simp] theorem modDom_emitted (x : Dom) (f : Domain → Domain) : (s.modDom x f).emitted = s.emitted := rfl
@[simp] theorem modDom_free (x : Dom) (f : Domain → Domain) : (s.modDom x f).free = s.free := rfl
@[simp] theorem modDom_pending (x : Dom) (f : Domain → Domain) : (s.modDom x f).pending = s.pending := rfl

/-! ### `modPtp` -/

@[simp] theorem modPtp_part (p : Nat) (x : Dom) (f : PtpPort → PtpPort) : (s.modPtp p x f).part = s.part := rfl
@[simp] theorem modPtp_gaf (p : Nat) (x : Dom) (f : PtpPort → PtpPort) : (s.modPtp p x f).gaf = s.gaf := rfl
@[simp] theorem modPtp_mbx (p : Nat) (x : Dom) (f : PtpPort → PtpPort) : (s.modPtp p x f).mbx = s.mbx := rfl
@[simp] theorem modPtp_cfg (p : Nat) (x : Dom) (f : PtpPort → PtpPort) : (s.modPtp p x f).cfg = s.cfg := rfl
@[simp] theorem modPtp_cfgGen (p : Nat) (x : Dom) (f : PtpPort → PtpPort) : (s.modPtp p x f).cfgGen = s.cfgGen := rfl
@[simp] theorem modPtp_cfgValid (p : Nat) (x : Dom) (f : PtpPort → PtpPort) : (s.modPtp p x f).cfgValid = s.cfgValid := rfl
@[simp] theorem modPtp_place (p : Nat) (x : Dom) (f : PtpPort → PtpPort) : (s.modPtp p x f).place = s.place := rfl
@[simp] theorem modPtp_time (p : Nat) (x : Dom) (f : PtpPort → PtpPort) : (s.modPtp p x f).time = { s.time with ptp := s.time.ptp.put (2 * p + x.num) (f (s.ptp p x)) } := rfl
@[simp] theorem modPtp_trk (p : Nat) (x : Dom) (f : PtpPort → PtpPort) : (s.modPtp p x f).trk = s.trk := rfl
@[simp] theorem modPtp_mar (p : Nat) (x : Dom) (f : PtpPort → PtpPort) : (s.modPtp p x f).mar = s.mar := rfl
@[simp] theorem modPtp_sv (p : Nat) (x : Dom) (f : PtpPort → PtpPort) : (s.modPtp p x f).sv = s.sv := rfl
@[simp] theorem modPtp_acq (p : Nat) (x : Dom) (f : PtpPort → PtpPort) : (s.modPtp p x f).acq = s.acq := rfl
@[simp] theorem modPtp_eng (p : Nat) (x : Dom) (f : PtpPort → PtpPort) : (s.modPtp p x f).eng = s.eng := rfl
@[simp] theorem modPtp_conv (p : Nat) (x : Dom) (f : PtpPort → PtpPort) : (s.modPtp p x f).conv = s.conv := rfl
@[simp] theorem modPtp_valve (p : Nat) (x : Dom) (f : PtpPort → PtpPort) : (s.modPtp p x f).valve = s.valve := rfl
@[simp] theorem modPtp_log (p : Nat) (x : Dom) (f : PtpPort → PtpPort) : (s.modPtp p x f).log = s.log := rfl
@[simp] theorem modPtp_fio (p : Nat) (x : Dom) (f : PtpPort → PtpPort) : (s.modPtp p x f).fio = s.fio := rfl
@[simp] theorem modPtp_net (p : Nat) (x : Dom) (f : PtpPort → PtpPort) : (s.modPtp p x f).net = s.net := rfl
@[simp] theorem modPtp_ev (p : Nat) (x : Dom) (f : PtpPort → PtpPort) : (s.modPtp p x f).ev = s.ev := rfl
@[simp] theorem modPtp_rec (p : Nat) (x : Dom) (f : PtpPort → PtpPort) : (s.modPtp p x f).rec_ = s.rec_ := rfl
@[simp] theorem modPtp_pair (p : Nat) (x : Dom) (f : PtpPort → PtpPort) : (s.modPtp p x f).pair = s.pair := rfl
@[simp] theorem modPtp_arb (p : Nat) (x : Dom) (f : PtpPort → PtpPort) : (s.modPtp p x f).arb = s.arb := rfl
@[simp] theorem modPtp_cas (p : Nat) (x : Dom) (f : PtpPort → PtpPort) : (s.modPtp p x f).cas = s.cas := rfl
@[simp] theorem modPtp_pwr (p : Nat) (x : Dom) (f : PtpPort → PtpPort) : (s.modPtp p x f).pwr = s.pwr := rfl
@[simp] theorem modPtp_store (p : Nat) (x : Dom) (f : PtpPort → PtpPort) : (s.modPtp p x f).store = s.store := rfl
@[simp] theorem modPtp_lehr (p : Nat) (x : Dom) (f : PtpPort → PtpPort) : (s.modPtp p x f).lehr = s.lehr := rfl
@[simp] theorem modPtp_hostMem (p : Nat) (x : Dom) (f : PtpPort → PtpPort) : (s.modPtp p x f).hostMem = s.hostMem := rfl
@[simp] theorem modPtp_emitted (p : Nat) (x : Dom) (f : PtpPort → PtpPort) : (s.modPtp p x f).emitted = s.emitted := rfl
@[simp] theorem modPtp_free (p : Nat) (x : Dom) (f : PtpPort → PtpPort) : (s.modPtp p x f).free = s.free := rfl
@[simp] theorem modPtp_pending (p : Nat) (x : Dom) (f : PtpPort → PtpPort) : (s.modPtp p x f).pending = s.pending := rfl

/-! ### `modTracker` -/

@[simp] theorem modTracker_part (n : Nat) (f : Tracker → Tracker) : (s.modTracker n f).part = s.part := rfl
@[simp] theorem modTracker_gaf (n : Nat) (f : Tracker → Tracker) : (s.modTracker n f).gaf = s.gaf := rfl
@[simp] theorem modTracker_mbx (n : Nat) (f : Tracker → Tracker) : (s.modTracker n f).mbx = s.mbx := rfl
@[simp] theorem modTracker_cfg (n : Nat) (f : Tracker → Tracker) : (s.modTracker n f).cfg = s.cfg := rfl
@[simp] theorem modTracker_cfgGen (n : Nat) (f : Tracker → Tracker) : (s.modTracker n f).cfgGen = s.cfgGen := rfl
@[simp] theorem modTracker_cfgValid (n : Nat) (f : Tracker → Tracker) : (s.modTracker n f).cfgValid = s.cfgValid := rfl
@[simp] theorem modTracker_place (n : Nat) (f : Tracker → Tracker) : (s.modTracker n f).place = s.place := rfl
@[simp] theorem modTracker_time (n : Nat) (f : Tracker → Tracker) : (s.modTracker n f).time = s.time := rfl
@[simp] theorem modTracker_trk (n : Nat) (f : Tracker → Tracker) : (s.modTracker n f).trk = s.trk.put n (f (s.tracker n)) := rfl
@[simp] theorem modTracker_mar (n : Nat) (f : Tracker → Tracker) : (s.modTracker n f).mar = s.mar := rfl
@[simp] theorem modTracker_sv (n : Nat) (f : Tracker → Tracker) : (s.modTracker n f).sv = s.sv := rfl
@[simp] theorem modTracker_acq (n : Nat) (f : Tracker → Tracker) : (s.modTracker n f).acq = s.acq := rfl
@[simp] theorem modTracker_eng (n : Nat) (f : Tracker → Tracker) : (s.modTracker n f).eng = s.eng := rfl
@[simp] theorem modTracker_conv (n : Nat) (f : Tracker → Tracker) : (s.modTracker n f).conv = s.conv := rfl
@[simp] theorem modTracker_valve (n : Nat) (f : Tracker → Tracker) : (s.modTracker n f).valve = s.valve := rfl
@[simp] theorem modTracker_log (n : Nat) (f : Tracker → Tracker) : (s.modTracker n f).log = s.log := rfl
@[simp] theorem modTracker_fio (n : Nat) (f : Tracker → Tracker) : (s.modTracker n f).fio = s.fio := rfl
@[simp] theorem modTracker_net (n : Nat) (f : Tracker → Tracker) : (s.modTracker n f).net = s.net := rfl
@[simp] theorem modTracker_ev (n : Nat) (f : Tracker → Tracker) : (s.modTracker n f).ev = s.ev := rfl
@[simp] theorem modTracker_rec (n : Nat) (f : Tracker → Tracker) : (s.modTracker n f).rec_ = s.rec_ := rfl
@[simp] theorem modTracker_pair (n : Nat) (f : Tracker → Tracker) : (s.modTracker n f).pair = s.pair := rfl
@[simp] theorem modTracker_arb (n : Nat) (f : Tracker → Tracker) : (s.modTracker n f).arb = s.arb := rfl
@[simp] theorem modTracker_cas (n : Nat) (f : Tracker → Tracker) : (s.modTracker n f).cas = s.cas := rfl
@[simp] theorem modTracker_pwr (n : Nat) (f : Tracker → Tracker) : (s.modTracker n f).pwr = s.pwr := rfl
@[simp] theorem modTracker_store (n : Nat) (f : Tracker → Tracker) : (s.modTracker n f).store = s.store := rfl
@[simp] theorem modTracker_lehr (n : Nat) (f : Tracker → Tracker) : (s.modTracker n f).lehr = s.lehr := rfl
@[simp] theorem modTracker_hostMem (n : Nat) (f : Tracker → Tracker) : (s.modTracker n f).hostMem = s.hostMem := rfl
@[simp] theorem modTracker_emitted (n : Nat) (f : Tracker → Tracker) : (s.modTracker n f).emitted = s.emitted := rfl
@[simp] theorem modTracker_free (n : Nat) (f : Tracker → Tracker) : (s.modTracker n f).free = s.free := rfl
@[simp] theorem modTracker_pending (n : Nat) (f : Tracker → Tracker) : (s.modTracker n f).pending = s.pending := rfl

/-! ### `modStream` -/

@[simp] theorem modStream_part (n : Nat) (f : Stream → Stream) : (s.modStream n f).part = s.part := rfl
@[simp] theorem modStream_gaf (n : Nat) (f : Stream → Stream) : (s.modStream n f).gaf = s.gaf := rfl
@[simp] theorem modStream_mbx (n : Nat) (f : Stream → Stream) : (s.modStream n f).mbx = s.mbx := rfl
@[simp] theorem modStream_cfg (n : Nat) (f : Stream → Stream) : (s.modStream n f).cfg = s.cfg := rfl
@[simp] theorem modStream_cfgGen (n : Nat) (f : Stream → Stream) : (s.modStream n f).cfgGen = s.cfgGen := rfl
@[simp] theorem modStream_cfgValid (n : Nat) (f : Stream → Stream) : (s.modStream n f).cfgValid = s.cfgValid := rfl
@[simp] theorem modStream_place (n : Nat) (f : Stream → Stream) : (s.modStream n f).place = s.place := rfl
@[simp] theorem modStream_time (n : Nat) (f : Stream → Stream) : (s.modStream n f).time = s.time := rfl
@[simp] theorem modStream_trk (n : Nat) (f : Stream → Stream) : (s.modStream n f).trk = s.trk := rfl
@[simp] theorem modStream_mar (n : Nat) (f : Stream → Stream) : (s.modStream n f).mar = s.mar := rfl
@[simp] theorem modStream_sv (n : Nat) (f : Stream → Stream) : (s.modStream n f).sv = { s.sv with streams := s.sv.streams.put n (f (s.stream n)) } := rfl
@[simp] theorem modStream_acq (n : Nat) (f : Stream → Stream) : (s.modStream n f).acq = s.acq := rfl
@[simp] theorem modStream_eng (n : Nat) (f : Stream → Stream) : (s.modStream n f).eng = s.eng := rfl
@[simp] theorem modStream_conv (n : Nat) (f : Stream → Stream) : (s.modStream n f).conv = s.conv := rfl
@[simp] theorem modStream_valve (n : Nat) (f : Stream → Stream) : (s.modStream n f).valve = s.valve := rfl
@[simp] theorem modStream_log (n : Nat) (f : Stream → Stream) : (s.modStream n f).log = s.log := rfl
@[simp] theorem modStream_fio (n : Nat) (f : Stream → Stream) : (s.modStream n f).fio = s.fio := rfl
@[simp] theorem modStream_net (n : Nat) (f : Stream → Stream) : (s.modStream n f).net = s.net := rfl
@[simp] theorem modStream_ev (n : Nat) (f : Stream → Stream) : (s.modStream n f).ev = s.ev := rfl
@[simp] theorem modStream_rec (n : Nat) (f : Stream → Stream) : (s.modStream n f).rec_ = s.rec_ := rfl
@[simp] theorem modStream_pair (n : Nat) (f : Stream → Stream) : (s.modStream n f).pair = s.pair := rfl
@[simp] theorem modStream_arb (n : Nat) (f : Stream → Stream) : (s.modStream n f).arb = s.arb := rfl
@[simp] theorem modStream_cas (n : Nat) (f : Stream → Stream) : (s.modStream n f).cas = s.cas := rfl
@[simp] theorem modStream_pwr (n : Nat) (f : Stream → Stream) : (s.modStream n f).pwr = s.pwr := rfl
@[simp] theorem modStream_store (n : Nat) (f : Stream → Stream) : (s.modStream n f).store = s.store := rfl
@[simp] theorem modStream_lehr (n : Nat) (f : Stream → Stream) : (s.modStream n f).lehr = s.lehr := rfl
@[simp] theorem modStream_hostMem (n : Nat) (f : Stream → Stream) : (s.modStream n f).hostMem = s.hostMem := rfl
@[simp] theorem modStream_emitted (n : Nat) (f : Stream → Stream) : (s.modStream n f).emitted = s.emitted := rfl
@[simp] theorem modStream_free (n : Nat) (f : Stream → Stream) : (s.modStream n f).free = s.free := rfl
@[simp] theorem modStream_pending (n : Nat) (f : Stream → Stream) : (s.modStream n f).pending = s.pending := rfl

/-! ### `modLink` -/

@[simp] theorem modLink_part (n : Nat) (f : Link → Link) : (s.modLink n f).part = s.part := rfl
@[simp] theorem modLink_gaf (n : Nat) (f : Link → Link) : (s.modLink n f).gaf = s.gaf := rfl
@[simp] theorem modLink_mbx (n : Nat) (f : Link → Link) : (s.modLink n f).mbx = s.mbx := rfl
@[simp] theorem modLink_cfg (n : Nat) (f : Link → Link) : (s.modLink n f).cfg = s.cfg := rfl
@[simp] theorem modLink_cfgGen (n : Nat) (f : Link → Link) : (s.modLink n f).cfgGen = s.cfgGen := rfl
@[simp] theorem modLink_cfgValid (n : Nat) (f : Link → Link) : (s.modLink n f).cfgValid = s.cfgValid := rfl
@[simp] theorem modLink_place (n : Nat) (f : Link → Link) : (s.modLink n f).place = s.place := rfl
@[simp] theorem modLink_time (n : Nat) (f : Link → Link) : (s.modLink n f).time = s.time := rfl
@[simp] theorem modLink_trk (n : Nat) (f : Link → Link) : (s.modLink n f).trk = s.trk := rfl
@[simp] theorem modLink_mar (n : Nat) (f : Link → Link) : (s.modLink n f).mar = s.mar := rfl
@[simp] theorem modLink_sv (n : Nat) (f : Link → Link) : (s.modLink n f).sv = s.sv := rfl
@[simp] theorem modLink_acq (n : Nat) (f : Link → Link) : (s.modLink n f).acq = { s.acq with links := s.acq.links.put n (f (s.link n)) } := rfl
@[simp] theorem modLink_eng (n : Nat) (f : Link → Link) : (s.modLink n f).eng = s.eng := rfl
@[simp] theorem modLink_conv (n : Nat) (f : Link → Link) : (s.modLink n f).conv = s.conv := rfl
@[simp] theorem modLink_valve (n : Nat) (f : Link → Link) : (s.modLink n f).valve = s.valve := rfl
@[simp] theorem modLink_log (n : Nat) (f : Link → Link) : (s.modLink n f).log = s.log := rfl
@[simp] theorem modLink_fio (n : Nat) (f : Link → Link) : (s.modLink n f).fio = s.fio := rfl
@[simp] theorem modLink_net (n : Nat) (f : Link → Link) : (s.modLink n f).net = s.net := rfl
@[simp] theorem modLink_ev (n : Nat) (f : Link → Link) : (s.modLink n f).ev = s.ev := rfl
@[simp] theorem modLink_rec (n : Nat) (f : Link → Link) : (s.modLink n f).rec_ = s.rec_ := rfl
@[simp] theorem modLink_pair (n : Nat) (f : Link → Link) : (s.modLink n f).pair = s.pair := rfl
@[simp] theorem modLink_arb (n : Nat) (f : Link → Link) : (s.modLink n f).arb = s.arb := rfl
@[simp] theorem modLink_cas (n : Nat) (f : Link → Link) : (s.modLink n f).cas = s.cas := rfl
@[simp] theorem modLink_pwr (n : Nat) (f : Link → Link) : (s.modLink n f).pwr = s.pwr := rfl
@[simp] theorem modLink_store (n : Nat) (f : Link → Link) : (s.modLink n f).store = s.store := rfl
@[simp] theorem modLink_lehr (n : Nat) (f : Link → Link) : (s.modLink n f).lehr = s.lehr := rfl
@[simp] theorem modLink_hostMem (n : Nat) (f : Link → Link) : (s.modLink n f).hostMem = s.hostMem := rfl
@[simp] theorem modLink_emitted (n : Nat) (f : Link → Link) : (s.modLink n f).emitted = s.emitted := rfl
@[simp] theorem modLink_free (n : Nat) (f : Link → Link) : (s.modLink n f).free = s.free := rfl
@[simp] theorem modLink_pending (n : Nat) (f : Link → Link) : (s.modLink n f).pending = s.pending := rfl

/-! ### `modChan` -/

@[simp] theorem modChan_part (n : Nat) (f : Chan → Chan) : (s.modChan n f).part = s.part := rfl
@[simp] theorem modChan_gaf (n : Nat) (f : Chan → Chan) : (s.modChan n f).gaf = s.gaf := rfl
@[simp] theorem modChan_mbx (n : Nat) (f : Chan → Chan) : (s.modChan n f).mbx = s.mbx := rfl
@[simp] theorem modChan_cfg (n : Nat) (f : Chan → Chan) : (s.modChan n f).cfg = s.cfg := rfl
@[simp] theorem modChan_cfgGen (n : Nat) (f : Chan → Chan) : (s.modChan n f).cfgGen = s.cfgGen := rfl
@[simp] theorem modChan_cfgValid (n : Nat) (f : Chan → Chan) : (s.modChan n f).cfgValid = s.cfgValid := rfl
@[simp] theorem modChan_place (n : Nat) (f : Chan → Chan) : (s.modChan n f).place = s.place := rfl
@[simp] theorem modChan_time (n : Nat) (f : Chan → Chan) : (s.modChan n f).time = s.time := rfl
@[simp] theorem modChan_trk (n : Nat) (f : Chan → Chan) : (s.modChan n f).trk = s.trk := rfl
@[simp] theorem modChan_mar (n : Nat) (f : Chan → Chan) : (s.modChan n f).mar = s.mar := rfl
@[simp] theorem modChan_sv (n : Nat) (f : Chan → Chan) : (s.modChan n f).sv = s.sv := rfl
@[simp] theorem modChan_acq (n : Nat) (f : Chan → Chan) : (s.modChan n f).acq = { s.acq with chans := s.acq.chans.put n (f (s.chan n)) } := rfl
@[simp] theorem modChan_eng (n : Nat) (f : Chan → Chan) : (s.modChan n f).eng = s.eng := rfl
@[simp] theorem modChan_conv (n : Nat) (f : Chan → Chan) : (s.modChan n f).conv = s.conv := rfl
@[simp] theorem modChan_valve (n : Nat) (f : Chan → Chan) : (s.modChan n f).valve = s.valve := rfl
@[simp] theorem modChan_log (n : Nat) (f : Chan → Chan) : (s.modChan n f).log = s.log := rfl
@[simp] theorem modChan_fio (n : Nat) (f : Chan → Chan) : (s.modChan n f).fio = s.fio := rfl
@[simp] theorem modChan_net (n : Nat) (f : Chan → Chan) : (s.modChan n f).net = s.net := rfl
@[simp] theorem modChan_ev (n : Nat) (f : Chan → Chan) : (s.modChan n f).ev = s.ev := rfl
@[simp] theorem modChan_rec (n : Nat) (f : Chan → Chan) : (s.modChan n f).rec_ = s.rec_ := rfl
@[simp] theorem modChan_pair (n : Nat) (f : Chan → Chan) : (s.modChan n f).pair = s.pair := rfl
@[simp] theorem modChan_arb (n : Nat) (f : Chan → Chan) : (s.modChan n f).arb = s.arb := rfl
@[simp] theorem modChan_cas (n : Nat) (f : Chan → Chan) : (s.modChan n f).cas = s.cas := rfl
@[simp] theorem modChan_pwr (n : Nat) (f : Chan → Chan) : (s.modChan n f).pwr = s.pwr := rfl
@[simp] theorem modChan_store (n : Nat) (f : Chan → Chan) : (s.modChan n f).store = s.store := rfl
@[simp] theorem modChan_lehr (n : Nat) (f : Chan → Chan) : (s.modChan n f).lehr = s.lehr := rfl
@[simp] theorem modChan_hostMem (n : Nat) (f : Chan → Chan) : (s.modChan n f).hostMem = s.hostMem := rfl
@[simp] theorem modChan_emitted (n : Nat) (f : Chan → Chan) : (s.modChan n f).emitted = s.emitted := rfl
@[simp] theorem modChan_free (n : Nat) (f : Chan → Chan) : (s.modChan n f).free = s.free := rfl
@[simp] theorem modChan_pending (n : Nat) (f : Chan → Chan) : (s.modChan n f).pending = s.pending := rfl

/-! ### `modGrp` -/

@[simp] theorem modGrp_part (n : Nat) (f : Group → Group) : (s.modGrp n f).part = s.part := rfl
@[simp] theorem modGrp_gaf (n : Nat) (f : Group → Group) : (s.modGrp n f).gaf = s.gaf := rfl
@[simp] theorem modGrp_mbx (n : Nat) (f : Group → Group) : (s.modGrp n f).mbx = s.mbx := rfl
@[simp] theorem modGrp_cfg (n : Nat) (f : Group → Group) : (s.modGrp n f).cfg = s.cfg := rfl
@[simp] theorem modGrp_cfgGen (n : Nat) (f : Group → Group) : (s.modGrp n f).cfgGen = s.cfgGen := rfl
@[simp] theorem modGrp_cfgValid (n : Nat) (f : Group → Group) : (s.modGrp n f).cfgValid = s.cfgValid := rfl
@[simp] theorem modGrp_place (n : Nat) (f : Group → Group) : (s.modGrp n f).place = s.place := rfl
@[simp] theorem modGrp_time (n : Nat) (f : Group → Group) : (s.modGrp n f).time = s.time := rfl
@[simp] theorem modGrp_trk (n : Nat) (f : Group → Group) : (s.modGrp n f).trk = s.trk := rfl
@[simp] theorem modGrp_mar (n : Nat) (f : Group → Group) : (s.modGrp n f).mar = s.mar := rfl
@[simp] theorem modGrp_sv (n : Nat) (f : Group → Group) : (s.modGrp n f).sv = s.sv := rfl
@[simp] theorem modGrp_acq (n : Nat) (f : Group → Group) : (s.modGrp n f).acq = { s.acq with groups := s.acq.groups.put n (f (s.grp n)) } := rfl
@[simp] theorem modGrp_eng (n : Nat) (f : Group → Group) : (s.modGrp n f).eng = s.eng := rfl
@[simp] theorem modGrp_conv (n : Nat) (f : Group → Group) : (s.modGrp n f).conv = s.conv := rfl
@[simp] theorem modGrp_valve (n : Nat) (f : Group → Group) : (s.modGrp n f).valve = s.valve := rfl
@[simp] theorem modGrp_log (n : Nat) (f : Group → Group) : (s.modGrp n f).log = s.log := rfl
@[simp] theorem modGrp_fio (n : Nat) (f : Group → Group) : (s.modGrp n f).fio = s.fio := rfl
@[simp] theorem modGrp_net (n : Nat) (f : Group → Group) : (s.modGrp n f).net = s.net := rfl
@[simp] theorem modGrp_ev (n : Nat) (f : Group → Group) : (s.modGrp n f).ev = s.ev := rfl
@[simp] theorem modGrp_rec (n : Nat) (f : Group → Group) : (s.modGrp n f).rec_ = s.rec_ := rfl
@[simp] theorem modGrp_pair (n : Nat) (f : Group → Group) : (s.modGrp n f).pair = s.pair := rfl
@[simp] theorem modGrp_arb (n : Nat) (f : Group → Group) : (s.modGrp n f).arb = s.arb := rfl
@[simp] theorem modGrp_cas (n : Nat) (f : Group → Group) : (s.modGrp n f).cas = s.cas := rfl
@[simp] theorem modGrp_pwr (n : Nat) (f : Group → Group) : (s.modGrp n f).pwr = s.pwr := rfl
@[simp] theorem modGrp_store (n : Nat) (f : Group → Group) : (s.modGrp n f).store = s.store := rfl
@[simp] theorem modGrp_lehr (n : Nat) (f : Group → Group) : (s.modGrp n f).lehr = s.lehr := rfl
@[simp] theorem modGrp_hostMem (n : Nat) (f : Group → Group) : (s.modGrp n f).hostMem = s.hostMem := rfl
@[simp] theorem modGrp_emitted (n : Nat) (f : Group → Group) : (s.modGrp n f).emitted = s.emitted := rfl
@[simp] theorem modGrp_free (n : Nat) (f : Group → Group) : (s.modGrp n f).free = s.free := rfl
@[simp] theorem modGrp_pending (n : Nat) (f : Group → Group) : (s.modGrp n f).pending = s.pending := rfl

/-! ### `modInst` -/

@[simp] theorem modInst_part (n : Nat) (f : Inst → Inst) : (s.modInst n f).part = s.part := rfl
@[simp] theorem modInst_gaf (n : Nat) (f : Inst → Inst) : (s.modInst n f).gaf = s.gaf := rfl
@[simp] theorem modInst_mbx (n : Nat) (f : Inst → Inst) : (s.modInst n f).mbx = s.mbx := rfl
@[simp] theorem modInst_cfg (n : Nat) (f : Inst → Inst) : (s.modInst n f).cfg = s.cfg := rfl
@[simp] theorem modInst_cfgGen (n : Nat) (f : Inst → Inst) : (s.modInst n f).cfgGen = s.cfgGen := rfl
@[simp] theorem modInst_cfgValid (n : Nat) (f : Inst → Inst) : (s.modInst n f).cfgValid = s.cfgValid := rfl
@[simp] theorem modInst_place (n : Nat) (f : Inst → Inst) : (s.modInst n f).place = s.place := rfl
@[simp] theorem modInst_time (n : Nat) (f : Inst → Inst) : (s.modInst n f).time = s.time := rfl
@[simp] theorem modInst_trk (n : Nat) (f : Inst → Inst) : (s.modInst n f).trk = s.trk := rfl
@[simp] theorem modInst_mar (n : Nat) (f : Inst → Inst) : (s.modInst n f).mar = s.mar := rfl
@[simp] theorem modInst_sv (n : Nat) (f : Inst → Inst) : (s.modInst n f).sv = s.sv := rfl
@[simp] theorem modInst_acq (n : Nat) (f : Inst → Inst) : (s.modInst n f).acq = s.acq := rfl
@[simp] theorem modInst_eng (n : Nat) (f : Inst → Inst) : (s.modInst n f).eng = { s.eng with insts := s.eng.insts.put n (f (s.inst n)) } := rfl
@[simp] theorem modInst_conv (n : Nat) (f : Inst → Inst) : (s.modInst n f).conv = s.conv := rfl
@[simp] theorem modInst_valve (n : Nat) (f : Inst → Inst) : (s.modInst n f).valve = s.valve := rfl
@[simp] theorem modInst_log (n : Nat) (f : Inst → Inst) : (s.modInst n f).log = s.log := rfl
@[simp] theorem modInst_fio (n : Nat) (f : Inst → Inst) : (s.modInst n f).fio = s.fio := rfl
@[simp] theorem modInst_net (n : Nat) (f : Inst → Inst) : (s.modInst n f).net = s.net := rfl
@[simp] theorem modInst_ev (n : Nat) (f : Inst → Inst) : (s.modInst n f).ev = s.ev := rfl
@[simp] theorem modInst_rec (n : Nat) (f : Inst → Inst) : (s.modInst n f).rec_ = s.rec_ := rfl
@[simp] theorem modInst_pair (n : Nat) (f : Inst → Inst) : (s.modInst n f).pair = s.pair := rfl
@[simp] theorem modInst_arb (n : Nat) (f : Inst → Inst) : (s.modInst n f).arb = s.arb := rfl
@[simp] theorem modInst_cas (n : Nat) (f : Inst → Inst) : (s.modInst n f).cas = s.cas := rfl
@[simp] theorem modInst_pwr (n : Nat) (f : Inst → Inst) : (s.modInst n f).pwr = s.pwr := rfl
@[simp] theorem modInst_store (n : Nat) (f : Inst → Inst) : (s.modInst n f).store = s.store := rfl
@[simp] theorem modInst_lehr (n : Nat) (f : Inst → Inst) : (s.modInst n f).lehr = s.lehr := rfl
@[simp] theorem modInst_hostMem (n : Nat) (f : Inst → Inst) : (s.modInst n f).hostMem = s.hostMem := rfl
@[simp] theorem modInst_emitted (n : Nat) (f : Inst → Inst) : (s.modInst n f).emitted = s.emitted := rfl
@[simp] theorem modInst_free (n : Nat) (f : Inst → Inst) : (s.modInst n f).free = s.free := rfl
@[simp] theorem modInst_pending (n : Nat) (f : Inst → Inst) : (s.modInst n f).pending = s.pending := rfl

/-! ### `modEngine` -/

@[simp] theorem modEngine_part (n : Nat) (f : Engine → Engine) : (s.modEngine n f).part = s.part := rfl
@[simp] theorem modEngine_gaf (n : Nat) (f : Engine → Engine) : (s.modEngine n f).gaf = s.gaf := rfl
@[simp] theorem modEngine_mbx (n : Nat) (f : Engine → Engine) : (s.modEngine n f).mbx = s.mbx := rfl
@[simp] theorem modEngine_cfg (n : Nat) (f : Engine → Engine) : (s.modEngine n f).cfg = s.cfg := rfl
@[simp] theorem modEngine_cfgGen (n : Nat) (f : Engine → Engine) : (s.modEngine n f).cfgGen = s.cfgGen := rfl
@[simp] theorem modEngine_cfgValid (n : Nat) (f : Engine → Engine) : (s.modEngine n f).cfgValid = s.cfgValid := rfl
@[simp] theorem modEngine_place (n : Nat) (f : Engine → Engine) : (s.modEngine n f).place = s.place := rfl
@[simp] theorem modEngine_time (n : Nat) (f : Engine → Engine) : (s.modEngine n f).time = s.time := rfl
@[simp] theorem modEngine_trk (n : Nat) (f : Engine → Engine) : (s.modEngine n f).trk = s.trk := rfl
@[simp] theorem modEngine_mar (n : Nat) (f : Engine → Engine) : (s.modEngine n f).mar = s.mar := rfl
@[simp] theorem modEngine_sv (n : Nat) (f : Engine → Engine) : (s.modEngine n f).sv = s.sv := rfl
@[simp] theorem modEngine_acq (n : Nat) (f : Engine → Engine) : (s.modEngine n f).acq = s.acq := rfl
@[simp] theorem modEngine_eng (n : Nat) (f : Engine → Engine) : (s.modEngine n f).eng = { s.eng with engines := s.eng.engines.put n (f (s.engine n)) } := rfl
@[simp] theorem modEngine_conv (n : Nat) (f : Engine → Engine) : (s.modEngine n f).conv = s.conv := rfl
@[simp] theorem modEngine_valve (n : Nat) (f : Engine → Engine) : (s.modEngine n f).valve = s.valve := rfl
@[simp] theorem modEngine_log (n : Nat) (f : Engine → Engine) : (s.modEngine n f).log = s.log := rfl
@[simp] theorem modEngine_fio (n : Nat) (f : Engine → Engine) : (s.modEngine n f).fio = s.fio := rfl
@[simp] theorem modEngine_net (n : Nat) (f : Engine → Engine) : (s.modEngine n f).net = s.net := rfl
@[simp] theorem modEngine_ev (n : Nat) (f : Engine → Engine) : (s.modEngine n f).ev = s.ev := rfl
@[simp] theorem modEngine_rec (n : Nat) (f : Engine → Engine) : (s.modEngine n f).rec_ = s.rec_ := rfl
@[simp] theorem modEngine_pair (n : Nat) (f : Engine → Engine) : (s.modEngine n f).pair = s.pair := rfl
@[simp] theorem modEngine_arb (n : Nat) (f : Engine → Engine) : (s.modEngine n f).arb = s.arb := rfl
@[simp] theorem modEngine_cas (n : Nat) (f : Engine → Engine) : (s.modEngine n f).cas = s.cas := rfl
@[simp] theorem modEngine_pwr (n : Nat) (f : Engine → Engine) : (s.modEngine n f).pwr = s.pwr := rfl
@[simp] theorem modEngine_store (n : Nat) (f : Engine → Engine) : (s.modEngine n f).store = s.store := rfl
@[simp] theorem modEngine_lehr (n : Nat) (f : Engine → Engine) : (s.modEngine n f).lehr = s.lehr := rfl
@[simp] theorem modEngine_hostMem (n : Nat) (f : Engine → Engine) : (s.modEngine n f).hostMem = s.hostMem := rfl
@[simp] theorem modEngine_emitted (n : Nat) (f : Engine → Engine) : (s.modEngine n f).emitted = s.emitted := rfl
@[simp] theorem modEngine_free (n : Nat) (f : Engine → Engine) : (s.modEngine n f).free = s.free := rfl
@[simp] theorem modEngine_pending (n : Nat) (f : Engine → Engine) : (s.modEngine n f).pending = s.pending := rfl

/-! ### `modC37` -/

@[simp] theorem modC37_part (n : Nat) (f : C37 → C37) : (s.modC37 n f).part = s.part := rfl
@[simp] theorem modC37_gaf (n : Nat) (f : C37 → C37) : (s.modC37 n f).gaf = s.gaf := rfl
@[simp] theorem modC37_mbx (n : Nat) (f : C37 → C37) : (s.modC37 n f).mbx = s.mbx := rfl
@[simp] theorem modC37_cfg (n : Nat) (f : C37 → C37) : (s.modC37 n f).cfg = s.cfg := rfl
@[simp] theorem modC37_cfgGen (n : Nat) (f : C37 → C37) : (s.modC37 n f).cfgGen = s.cfgGen := rfl
@[simp] theorem modC37_cfgValid (n : Nat) (f : C37 → C37) : (s.modC37 n f).cfgValid = s.cfgValid := rfl
@[simp] theorem modC37_place (n : Nat) (f : C37 → C37) : (s.modC37 n f).place = s.place := rfl
@[simp] theorem modC37_time (n : Nat) (f : C37 → C37) : (s.modC37 n f).time = s.time := rfl
@[simp] theorem modC37_trk (n : Nat) (f : C37 → C37) : (s.modC37 n f).trk = s.trk := rfl
@[simp] theorem modC37_mar (n : Nat) (f : C37 → C37) : (s.modC37 n f).mar = s.mar := rfl
@[simp] theorem modC37_sv (n : Nat) (f : C37 → C37) : (s.modC37 n f).sv = s.sv := rfl
@[simp] theorem modC37_acq (n : Nat) (f : C37 → C37) : (s.modC37 n f).acq = s.acq := rfl
@[simp] theorem modC37_eng (n : Nat) (f : C37 → C37) : (s.modC37 n f).eng = { s.eng with c37 := s.eng.c37.put n (f (s.c37 n)) } := rfl
@[simp] theorem modC37_conv (n : Nat) (f : C37 → C37) : (s.modC37 n f).conv = s.conv := rfl
@[simp] theorem modC37_valve (n : Nat) (f : C37 → C37) : (s.modC37 n f).valve = s.valve := rfl
@[simp] theorem modC37_log (n : Nat) (f : C37 → C37) : (s.modC37 n f).log = s.log := rfl
@[simp] theorem modC37_fio (n : Nat) (f : C37 → C37) : (s.modC37 n f).fio = s.fio := rfl
@[simp] theorem modC37_net (n : Nat) (f : C37 → C37) : (s.modC37 n f).net = s.net := rfl
@[simp] theorem modC37_ev (n : Nat) (f : C37 → C37) : (s.modC37 n f).ev = s.ev := rfl
@[simp] theorem modC37_rec (n : Nat) (f : C37 → C37) : (s.modC37 n f).rec_ = s.rec_ := rfl
@[simp] theorem modC37_pair (n : Nat) (f : C37 → C37) : (s.modC37 n f).pair = s.pair := rfl
@[simp] theorem modC37_arb (n : Nat) (f : C37 → C37) : (s.modC37 n f).arb = s.arb := rfl
@[simp] theorem modC37_cas (n : Nat) (f : C37 → C37) : (s.modC37 n f).cas = s.cas := rfl
@[simp] theorem modC37_pwr (n : Nat) (f : C37 → C37) : (s.modC37 n f).pwr = s.pwr := rfl
@[simp] theorem modC37_store (n : Nat) (f : C37 → C37) : (s.modC37 n f).store = s.store := rfl
@[simp] theorem modC37_lehr (n : Nat) (f : C37 → C37) : (s.modC37 n f).lehr = s.lehr := rfl
@[simp] theorem modC37_hostMem (n : Nat) (f : C37 → C37) : (s.modC37 n f).hostMem = s.hostMem := rfl
@[simp] theorem modC37_emitted (n : Nat) (f : C37 → C37) : (s.modC37 n f).emitted = s.emitted := rfl
@[simp] theorem modC37_free (n : Nat) (f : C37 → C37) : (s.modC37 n f).free = s.free := rfl
@[simp] theorem modC37_pending (n : Nat) (f : C37 → C37) : (s.modC37 n f).pending = s.pending := rfl

/-! ### `modCv` -/

@[simp] theorem modCv_part (c : Nat) (f : Conv → Conv) : (s.modCv c f).part = s.part := rfl
@[simp] theorem modCv_gaf (c : Nat) (f : Conv → Conv) : (s.modCv c f).gaf = s.gaf := rfl
@[simp] theorem modCv_mbx (c : Nat) (f : Conv → Conv) : (s.modCv c f).mbx = s.mbx := rfl
@[simp] theorem modCv_cfg (c : Nat) (f : Conv → Conv) : (s.modCv c f).cfg = s.cfg := rfl
@[simp] theorem modCv_cfgGen (c : Nat) (f : Conv → Conv) : (s.modCv c f).cfgGen = s.cfgGen := rfl
@[simp] theorem modCv_cfgValid (c : Nat) (f : Conv → Conv) : (s.modCv c f).cfgValid = s.cfgValid := rfl
@[simp] theorem modCv_place (c : Nat) (f : Conv → Conv) : (s.modCv c f).place = s.place := rfl
@[simp] theorem modCv_time (c : Nat) (f : Conv → Conv) : (s.modCv c f).time = s.time := rfl
@[simp] theorem modCv_trk (c : Nat) (f : Conv → Conv) : (s.modCv c f).trk = s.trk := rfl
@[simp] theorem modCv_mar (c : Nat) (f : Conv → Conv) : (s.modCv c f).mar = s.mar := rfl
@[simp] theorem modCv_sv (c : Nat) (f : Conv → Conv) : (s.modCv c f).sv = s.sv := rfl
@[simp] theorem modCv_acq (c : Nat) (f : Conv → Conv) : (s.modCv c f).acq = s.acq := rfl
@[simp] theorem modCv_eng (c : Nat) (f : Conv → Conv) : (s.modCv c f).eng = s.eng := rfl
@[simp] theorem modCv_conv (c : Nat) (f : Conv → Conv) : (s.modCv c f).conv = { s.conv with convs := s.conv.convs.put c (f (s.cv c)) } := rfl
@[simp] theorem modCv_valve (c : Nat) (f : Conv → Conv) : (s.modCv c f).valve = s.valve := rfl
@[simp] theorem modCv_log (c : Nat) (f : Conv → Conv) : (s.modCv c f).log = s.log := rfl
@[simp] theorem modCv_fio (c : Nat) (f : Conv → Conv) : (s.modCv c f).fio = s.fio := rfl
@[simp] theorem modCv_net (c : Nat) (f : Conv → Conv) : (s.modCv c f).net = s.net := rfl
@[simp] theorem modCv_ev (c : Nat) (f : Conv → Conv) : (s.modCv c f).ev = s.ev := rfl
@[simp] theorem modCv_rec (c : Nat) (f : Conv → Conv) : (s.modCv c f).rec_ = s.rec_ := rfl
@[simp] theorem modCv_pair (c : Nat) (f : Conv → Conv) : (s.modCv c f).pair = s.pair := rfl
@[simp] theorem modCv_arb (c : Nat) (f : Conv → Conv) : (s.modCv c f).arb = s.arb := rfl
@[simp] theorem modCv_cas (c : Nat) (f : Conv → Conv) : (s.modCv c f).cas = s.cas := rfl
@[simp] theorem modCv_pwr (c : Nat) (f : Conv → Conv) : (s.modCv c f).pwr = s.pwr := rfl
@[simp] theorem modCv_store (c : Nat) (f : Conv → Conv) : (s.modCv c f).store = s.store := rfl
@[simp] theorem modCv_lehr (c : Nat) (f : Conv → Conv) : (s.modCv c f).lehr = s.lehr := rfl
@[simp] theorem modCv_hostMem (c : Nat) (f : Conv → Conv) : (s.modCv c f).hostMem = s.hostMem := rfl
@[simp] theorem modCv_emitted (c : Nat) (f : Conv → Conv) : (s.modCv c f).emitted = s.emitted := rfl
@[simp] theorem modCv_free (c : Nat) (f : Conv → Conv) : (s.modCv c f).free = s.free := rfl
@[simp] theorem modCv_pending (c : Nat) (f : Conv → Conv) : (s.modCv c f).pending = s.pending := rfl

/-! ### `modTrace` -/

@[simp] theorem modTrace_part (f : Trace → Trace) : (s.modTrace f).part = s.part := rfl
@[simp] theorem modTrace_gaf (f : Trace → Trace) : (s.modTrace f).gaf = s.gaf := rfl
@[simp] theorem modTrace_mbx (f : Trace → Trace) : (s.modTrace f).mbx = s.mbx := rfl
@[simp] theorem modTrace_cfg (f : Trace → Trace) : (s.modTrace f).cfg = s.cfg := rfl
@[simp] theorem modTrace_cfgGen (f : Trace → Trace) : (s.modTrace f).cfgGen = s.cfgGen := rfl
@[simp] theorem modTrace_cfgValid (f : Trace → Trace) : (s.modTrace f).cfgValid = s.cfgValid := rfl
@[simp] theorem modTrace_place (f : Trace → Trace) : (s.modTrace f).place = s.place := rfl
@[simp] theorem modTrace_time (f : Trace → Trace) : (s.modTrace f).time = s.time := rfl
@[simp] theorem modTrace_trk (f : Trace → Trace) : (s.modTrace f).trk = s.trk := rfl
@[simp] theorem modTrace_mar (f : Trace → Trace) : (s.modTrace f).mar = s.mar := rfl
@[simp] theorem modTrace_sv (f : Trace → Trace) : (s.modTrace f).sv = s.sv := rfl
@[simp] theorem modTrace_acq (f : Trace → Trace) : (s.modTrace f).acq = s.acq := rfl
@[simp] theorem modTrace_eng (f : Trace → Trace) : (s.modTrace f).eng = s.eng := rfl
@[simp] theorem modTrace_conv (f : Trace → Trace) : (s.modTrace f).conv = { s.conv with trace := f s.conv.trace } := rfl
@[simp] theorem modTrace_valve (f : Trace → Trace) : (s.modTrace f).valve = s.valve := rfl
@[simp] theorem modTrace_log (f : Trace → Trace) : (s.modTrace f).log = s.log := rfl
@[simp] theorem modTrace_fio (f : Trace → Trace) : (s.modTrace f).fio = s.fio := rfl
@[simp] theorem modTrace_net (f : Trace → Trace) : (s.modTrace f).net = s.net := rfl
@[simp] theorem modTrace_ev (f : Trace → Trace) : (s.modTrace f).ev = s.ev := rfl
@[simp] theorem modTrace_rec (f : Trace → Trace) : (s.modTrace f).rec_ = s.rec_ := rfl
@[simp] theorem modTrace_pair (f : Trace → Trace) : (s.modTrace f).pair = s.pair := rfl
@[simp] theorem modTrace_arb (f : Trace → Trace) : (s.modTrace f).arb = s.arb := rfl
@[simp] theorem modTrace_cas (f : Trace → Trace) : (s.modTrace f).cas = s.cas := rfl
@[simp] theorem modTrace_pwr (f : Trace → Trace) : (s.modTrace f).pwr = s.pwr := rfl
@[simp] theorem modTrace_store (f : Trace → Trace) : (s.modTrace f).store = s.store := rfl
@[simp] theorem modTrace_lehr (f : Trace → Trace) : (s.modTrace f).lehr = s.lehr := rfl
@[simp] theorem modTrace_hostMem (f : Trace → Trace) : (s.modTrace f).hostMem = s.hostMem := rfl
@[simp] theorem modTrace_emitted (f : Trace → Trace) : (s.modTrace f).emitted = s.emitted := rfl
@[simp] theorem modTrace_free (f : Trace → Trace) : (s.modTrace f).free = s.free := rfl
@[simp] theorem modTrace_pending (f : Trace → Trace) : (s.modTrace f).pending = s.pending := rfl

/-! ### `modLane` -/

@[simp] theorem modLane_part (n : Nat) (f : Lane → Lane) : (s.modLane n f).part = s.part := rfl
@[simp] theorem modLane_gaf (n : Nat) (f : Lane → Lane) : (s.modLane n f).gaf = s.gaf := rfl
@[simp] theorem modLane_mbx (n : Nat) (f : Lane → Lane) : (s.modLane n f).mbx = s.mbx := rfl
@[simp] theorem modLane_cfg (n : Nat) (f : Lane → Lane) : (s.modLane n f).cfg = s.cfg := rfl
@[simp] theorem modLane_cfgGen (n : Nat) (f : Lane → Lane) : (s.modLane n f).cfgGen = s.cfgGen := rfl
@[simp] theorem modLane_cfgValid (n : Nat) (f : Lane → Lane) : (s.modLane n f).cfgValid = s.cfgValid := rfl
@[simp] theorem modLane_place (n : Nat) (f : Lane → Lane) : (s.modLane n f).place = s.place := rfl
@[simp] theorem modLane_time (n : Nat) (f : Lane → Lane) : (s.modLane n f).time = s.time := rfl
@[simp] theorem modLane_trk (n : Nat) (f : Lane → Lane) : (s.modLane n f).trk = s.trk := rfl
@[simp] theorem modLane_mar (n : Nat) (f : Lane → Lane) : (s.modLane n f).mar = s.mar := rfl
@[simp] theorem modLane_sv (n : Nat) (f : Lane → Lane) : (s.modLane n f).sv = s.sv := rfl
@[simp] theorem modLane_acq (n : Nat) (f : Lane → Lane) : (s.modLane n f).acq = s.acq := rfl
@[simp] theorem modLane_eng (n : Nat) (f : Lane → Lane) : (s.modLane n f).eng = s.eng := rfl
@[simp] theorem modLane_conv (n : Nat) (f : Lane → Lane) : (s.modLane n f).conv = s.conv := rfl
@[simp] theorem modLane_valve (n : Nat) (f : Lane → Lane) : (s.modLane n f).valve = { s.valve with lanes := s.valve.lanes.put n (f (s.lane n)) } := rfl
@[simp] theorem modLane_log (n : Nat) (f : Lane → Lane) : (s.modLane n f).log = s.log := rfl
@[simp] theorem modLane_fio (n : Nat) (f : Lane → Lane) : (s.modLane n f).fio = s.fio := rfl
@[simp] theorem modLane_net (n : Nat) (f : Lane → Lane) : (s.modLane n f).net = s.net := rfl
@[simp] theorem modLane_ev (n : Nat) (f : Lane → Lane) : (s.modLane n f).ev = s.ev := rfl
@[simp] theorem modLane_rec (n : Nat) (f : Lane → Lane) : (s.modLane n f).rec_ = s.rec_ := rfl
@[simp] theorem modLane_pair (n : Nat) (f : Lane → Lane) : (s.modLane n f).pair = s.pair := rfl
@[simp] theorem modLane_arb (n : Nat) (f : Lane → Lane) : (s.modLane n f).arb = s.arb := rfl
@[simp] theorem modLane_cas (n : Nat) (f : Lane → Lane) : (s.modLane n f).cas = s.cas := rfl
@[simp] theorem modLane_pwr (n : Nat) (f : Lane → Lane) : (s.modLane n f).pwr = s.pwr := rfl
@[simp] theorem modLane_store (n : Nat) (f : Lane → Lane) : (s.modLane n f).store = s.store := rfl
@[simp] theorem modLane_lehr (n : Nat) (f : Lane → Lane) : (s.modLane n f).lehr = s.lehr := rfl
@[simp] theorem modLane_hostMem (n : Nat) (f : Lane → Lane) : (s.modLane n f).hostMem = s.hostMem := rfl
@[simp] theorem modLane_emitted (n : Nat) (f : Lane → Lane) : (s.modLane n f).emitted = s.emitted := rfl
@[simp] theorem modLane_free (n : Nat) (f : Lane → Lane) : (s.modLane n f).free = s.free := rfl
@[simp] theorem modLane_pending (n : Nat) (f : Lane → Lane) : (s.modLane n f).pending = s.pending := rfl

/-! ### `modSub` -/

@[simp] theorem modSub_part (n : Nat) (f : Sub → Sub) : (s.modSub n f).part = s.part := rfl
@[simp] theorem modSub_gaf (n : Nat) (f : Sub → Sub) : (s.modSub n f).gaf = s.gaf := rfl
@[simp] theorem modSub_mbx (n : Nat) (f : Sub → Sub) : (s.modSub n f).mbx = s.mbx := rfl
@[simp] theorem modSub_cfg (n : Nat) (f : Sub → Sub) : (s.modSub n f).cfg = s.cfg := rfl
@[simp] theorem modSub_cfgGen (n : Nat) (f : Sub → Sub) : (s.modSub n f).cfgGen = s.cfgGen := rfl
@[simp] theorem modSub_cfgValid (n : Nat) (f : Sub → Sub) : (s.modSub n f).cfgValid = s.cfgValid := rfl
@[simp] theorem modSub_place (n : Nat) (f : Sub → Sub) : (s.modSub n f).place = s.place := rfl
@[simp] theorem modSub_time (n : Nat) (f : Sub → Sub) : (s.modSub n f).time = s.time := rfl
@[simp] theorem modSub_trk (n : Nat) (f : Sub → Sub) : (s.modSub n f).trk = s.trk := rfl
@[simp] theorem modSub_mar (n : Nat) (f : Sub → Sub) : (s.modSub n f).mar = s.mar := rfl
@[simp] theorem modSub_sv (n : Nat) (f : Sub → Sub) : (s.modSub n f).sv = s.sv := rfl
@[simp] theorem modSub_acq (n : Nat) (f : Sub → Sub) : (s.modSub n f).acq = s.acq := rfl
@[simp] theorem modSub_eng (n : Nat) (f : Sub → Sub) : (s.modSub n f).eng = s.eng := rfl
@[simp] theorem modSub_conv (n : Nat) (f : Sub → Sub) : (s.modSub n f).conv = s.conv := rfl
@[simp] theorem modSub_valve (n : Nat) (f : Sub → Sub) : (s.modSub n f).valve = s.valve := rfl
@[simp] theorem modSub_log (n : Nat) (f : Sub → Sub) : (s.modSub n f).log = { s.log with subs := s.log.subs.put n (f (s.sub n)) } := rfl
@[simp] theorem modSub_fio (n : Nat) (f : Sub → Sub) : (s.modSub n f).fio = s.fio := rfl
@[simp] theorem modSub_net (n : Nat) (f : Sub → Sub) : (s.modSub n f).net = s.net := rfl
@[simp] theorem modSub_ev (n : Nat) (f : Sub → Sub) : (s.modSub n f).ev = s.ev := rfl
@[simp] theorem modSub_rec (n : Nat) (f : Sub → Sub) : (s.modSub n f).rec_ = s.rec_ := rfl
@[simp] theorem modSub_pair (n : Nat) (f : Sub → Sub) : (s.modSub n f).pair = s.pair := rfl
@[simp] theorem modSub_arb (n : Nat) (f : Sub → Sub) : (s.modSub n f).arb = s.arb := rfl
@[simp] theorem modSub_cas (n : Nat) (f : Sub → Sub) : (s.modSub n f).cas = s.cas := rfl
@[simp] theorem modSub_pwr (n : Nat) (f : Sub → Sub) : (s.modSub n f).pwr = s.pwr := rfl
@[simp] theorem modSub_store (n : Nat) (f : Sub → Sub) : (s.modSub n f).store = s.store := rfl
@[simp] theorem modSub_lehr (n : Nat) (f : Sub → Sub) : (s.modSub n f).lehr = s.lehr := rfl
@[simp] theorem modSub_hostMem (n : Nat) (f : Sub → Sub) : (s.modSub n f).hostMem = s.hostMem := rfl
@[simp] theorem modSub_emitted (n : Nat) (f : Sub → Sub) : (s.modSub n f).emitted = s.emitted := rfl
@[simp] theorem modSub_free (n : Nat) (f : Sub → Sub) : (s.modSub n f).free = s.free := rfl
@[simp] theorem modSub_pending (n : Nat) (f : Sub → Sub) : (s.modSub n f).pending = s.pending := rfl

/-! ### `modTask` -/

@[simp] theorem modTask_part (n : Nat) (f : Task → Task) : (s.modTask n f).part = s.part := rfl
@[simp] theorem modTask_gaf (n : Nat) (f : Task → Task) : (s.modTask n f).gaf = s.gaf := rfl
@[simp] theorem modTask_mbx (n : Nat) (f : Task → Task) : (s.modTask n f).mbx = s.mbx := rfl
@[simp] theorem modTask_cfg (n : Nat) (f : Task → Task) : (s.modTask n f).cfg = s.cfg := rfl
@[simp] theorem modTask_cfgGen (n : Nat) (f : Task → Task) : (s.modTask n f).cfgGen = s.cfgGen := rfl
@[simp] theorem modTask_cfgValid (n : Nat) (f : Task → Task) : (s.modTask n f).cfgValid = s.cfgValid := rfl
@[simp] theorem modTask_place (n : Nat) (f : Task → Task) : (s.modTask n f).place = s.place := rfl
@[simp] theorem modTask_time (n : Nat) (f : Task → Task) : (s.modTask n f).time = s.time := rfl
@[simp] theorem modTask_trk (n : Nat) (f : Task → Task) : (s.modTask n f).trk = s.trk := rfl
@[simp] theorem modTask_mar (n : Nat) (f : Task → Task) : (s.modTask n f).mar = s.mar := rfl
@[simp] theorem modTask_sv (n : Nat) (f : Task → Task) : (s.modTask n f).sv = s.sv := rfl
@[simp] theorem modTask_acq (n : Nat) (f : Task → Task) : (s.modTask n f).acq = s.acq := rfl
@[simp] theorem modTask_eng (n : Nat) (f : Task → Task) : (s.modTask n f).eng = s.eng := rfl
@[simp] theorem modTask_conv (n : Nat) (f : Task → Task) : (s.modTask n f).conv = s.conv := rfl
@[simp] theorem modTask_valve (n : Nat) (f : Task → Task) : (s.modTask n f).valve = s.valve := rfl
@[simp] theorem modTask_log (n : Nat) (f : Task → Task) : (s.modTask n f).log = { s.log with tasks := s.log.tasks.put n (f (s.task n)) } := rfl
@[simp] theorem modTask_fio (n : Nat) (f : Task → Task) : (s.modTask n f).fio = s.fio := rfl
@[simp] theorem modTask_net (n : Nat) (f : Task → Task) : (s.modTask n f).net = s.net := rfl
@[simp] theorem modTask_ev (n : Nat) (f : Task → Task) : (s.modTask n f).ev = s.ev := rfl
@[simp] theorem modTask_rec (n : Nat) (f : Task → Task) : (s.modTask n f).rec_ = s.rec_ := rfl
@[simp] theorem modTask_pair (n : Nat) (f : Task → Task) : (s.modTask n f).pair = s.pair := rfl
@[simp] theorem modTask_arb (n : Nat) (f : Task → Task) : (s.modTask n f).arb = s.arb := rfl
@[simp] theorem modTask_cas (n : Nat) (f : Task → Task) : (s.modTask n f).cas = s.cas := rfl
@[simp] theorem modTask_pwr (n : Nat) (f : Task → Task) : (s.modTask n f).pwr = s.pwr := rfl
@[simp] theorem modTask_store (n : Nat) (f : Task → Task) : (s.modTask n f).store = s.store := rfl
@[simp] theorem modTask_lehr (n : Nat) (f : Task → Task) : (s.modTask n f).lehr = s.lehr := rfl
@[simp] theorem modTask_hostMem (n : Nat) (f : Task → Task) : (s.modTask n f).hostMem = s.hostMem := rfl
@[simp] theorem modTask_emitted (n : Nat) (f : Task → Task) : (s.modTask n f).emitted = s.emitted := rfl
@[simp] theorem modTask_free (n : Nat) (f : Task → Task) : (s.modTask n f).free = s.free := rfl
@[simp] theorem modTask_pending (n : Nat) (f : Task → Task) : (s.modTask n f).pending = s.pending := rfl

/-! ### `modBo` -/

@[simp] theorem modBo_part (n : Nat) (f : BinOut → BinOut) : (s.modBo n f).part = s.part := rfl
@[simp] theorem modBo_gaf (n : Nat) (f : BinOut → BinOut) : (s.modBo n f).gaf = s.gaf := rfl
@[simp] theorem modBo_mbx (n : Nat) (f : BinOut → BinOut) : (s.modBo n f).mbx = s.mbx := rfl
@[simp] theorem modBo_cfg (n : Nat) (f : BinOut → BinOut) : (s.modBo n f).cfg = s.cfg := rfl
@[simp] theorem modBo_cfgGen (n : Nat) (f : BinOut → BinOut) : (s.modBo n f).cfgGen = s.cfgGen := rfl
@[simp] theorem modBo_cfgValid (n : Nat) (f : BinOut → BinOut) : (s.modBo n f).cfgValid = s.cfgValid := rfl
@[simp] theorem modBo_place (n : Nat) (f : BinOut → BinOut) : (s.modBo n f).place = s.place := rfl
@[simp] theorem modBo_time (n : Nat) (f : BinOut → BinOut) : (s.modBo n f).time = s.time := rfl
@[simp] theorem modBo_trk (n : Nat) (f : BinOut → BinOut) : (s.modBo n f).trk = s.trk := rfl
@[simp] theorem modBo_mar (n : Nat) (f : BinOut → BinOut) : (s.modBo n f).mar = s.mar := rfl
@[simp] theorem modBo_sv (n : Nat) (f : BinOut → BinOut) : (s.modBo n f).sv = s.sv := rfl
@[simp] theorem modBo_acq (n : Nat) (f : BinOut → BinOut) : (s.modBo n f).acq = s.acq := rfl
@[simp] theorem modBo_eng (n : Nat) (f : BinOut → BinOut) : (s.modBo n f).eng = s.eng := rfl
@[simp] theorem modBo_conv (n : Nat) (f : BinOut → BinOut) : (s.modBo n f).conv = s.conv := rfl
@[simp] theorem modBo_valve (n : Nat) (f : BinOut → BinOut) : (s.modBo n f).valve = s.valve := rfl
@[simp] theorem modBo_log (n : Nat) (f : BinOut → BinOut) : (s.modBo n f).log = s.log := rfl
@[simp] theorem modBo_fio (n : Nat) (f : BinOut → BinOut) : (s.modBo n f).fio = { s.fio with outs := s.fio.outs.put n (f (s.bo n)) } := rfl
@[simp] theorem modBo_net (n : Nat) (f : BinOut → BinOut) : (s.modBo n f).net = s.net := rfl
@[simp] theorem modBo_ev (n : Nat) (f : BinOut → BinOut) : (s.modBo n f).ev = s.ev := rfl
@[simp] theorem modBo_rec (n : Nat) (f : BinOut → BinOut) : (s.modBo n f).rec_ = s.rec_ := rfl
@[simp] theorem modBo_pair (n : Nat) (f : BinOut → BinOut) : (s.modBo n f).pair = s.pair := rfl
@[simp] theorem modBo_arb (n : Nat) (f : BinOut → BinOut) : (s.modBo n f).arb = s.arb := rfl
@[simp] theorem modBo_cas (n : Nat) (f : BinOut → BinOut) : (s.modBo n f).cas = s.cas := rfl
@[simp] theorem modBo_pwr (n : Nat) (f : BinOut → BinOut) : (s.modBo n f).pwr = s.pwr := rfl
@[simp] theorem modBo_store (n : Nat) (f : BinOut → BinOut) : (s.modBo n f).store = s.store := rfl
@[simp] theorem modBo_lehr (n : Nat) (f : BinOut → BinOut) : (s.modBo n f).lehr = s.lehr := rfl
@[simp] theorem modBo_hostMem (n : Nat) (f : BinOut → BinOut) : (s.modBo n f).hostMem = s.hostMem := rfl
@[simp] theorem modBo_emitted (n : Nat) (f : BinOut → BinOut) : (s.modBo n f).emitted = s.emitted := rfl
@[simp] theorem modBo_free (n : Nat) (f : BinOut → BinOut) : (s.modBo n f).free = s.free := rfl
@[simp] theorem modBo_pending (n : Nat) (f : BinOut → BinOut) : (s.modBo n f).pending = s.pending := rfl

/-! ### `modPort` -/

@[simp] theorem modPort_part (p : Nat) (f : Port → Port) : (s.modPort p f).part = s.part := rfl
@[simp] theorem modPort_gaf (p : Nat) (f : Port → Port) : (s.modPort p f).gaf = s.gaf := rfl
@[simp] theorem modPort_mbx (p : Nat) (f : Port → Port) : (s.modPort p f).mbx = s.mbx := rfl
@[simp] theorem modPort_cfg (p : Nat) (f : Port → Port) : (s.modPort p f).cfg = s.cfg := rfl
@[simp] theorem modPort_cfgGen (p : Nat) (f : Port → Port) : (s.modPort p f).cfgGen = s.cfgGen := rfl
@[simp] theorem modPort_cfgValid (p : Nat) (f : Port → Port) : (s.modPort p f).cfgValid = s.cfgValid := rfl
@[simp] theorem modPort_place (p : Nat) (f : Port → Port) : (s.modPort p f).place = s.place := rfl
@[simp] theorem modPort_time (p : Nat) (f : Port → Port) : (s.modPort p f).time = s.time := rfl
@[simp] theorem modPort_trk (p : Nat) (f : Port → Port) : (s.modPort p f).trk = s.trk := rfl
@[simp] theorem modPort_mar (p : Nat) (f : Port → Port) : (s.modPort p f).mar = s.mar := rfl
@[simp] theorem modPort_sv (p : Nat) (f : Port → Port) : (s.modPort p f).sv = s.sv := rfl
@[simp] theorem modPort_acq (p : Nat) (f : Port → Port) : (s.modPort p f).acq = s.acq := rfl
@[simp] theorem modPort_eng (p : Nat) (f : Port → Port) : (s.modPort p f).eng = s.eng := rfl
@[simp] theorem modPort_conv (p : Nat) (f : Port → Port) : (s.modPort p f).conv = s.conv := rfl
@[simp] theorem modPort_valve (p : Nat) (f : Port → Port) : (s.modPort p f).valve = s.valve := rfl
@[simp] theorem modPort_log (p : Nat) (f : Port → Port) : (s.modPort p f).log = s.log := rfl
@[simp] theorem modPort_fio (p : Nat) (f : Port → Port) : (s.modPort p f).fio = s.fio := rfl
@[simp] theorem modPort_net (p : Nat) (f : Port → Port) : (s.modPort p f).net = { s.net with ports := s.net.ports.put p (f (s.port p)) } := rfl
@[simp] theorem modPort_ev (p : Nat) (f : Port → Port) : (s.modPort p f).ev = s.ev := rfl
@[simp] theorem modPort_rec (p : Nat) (f : Port → Port) : (s.modPort p f).rec_ = s.rec_ := rfl
@[simp] theorem modPort_pair (p : Nat) (f : Port → Port) : (s.modPort p f).pair = s.pair := rfl
@[simp] theorem modPort_arb (p : Nat) (f : Port → Port) : (s.modPort p f).arb = s.arb := rfl
@[simp] theorem modPort_cas (p : Nat) (f : Port → Port) : (s.modPort p f).cas = s.cas := rfl
@[simp] theorem modPort_pwr (p : Nat) (f : Port → Port) : (s.modPort p f).pwr = s.pwr := rfl
@[simp] theorem modPort_store (p : Nat) (f : Port → Port) : (s.modPort p f).store = s.store := rfl
@[simp] theorem modPort_lehr (p : Nat) (f : Port → Port) : (s.modPort p f).lehr = s.lehr := rfl
@[simp] theorem modPort_hostMem (p : Nat) (f : Port → Port) : (s.modPort p f).hostMem = s.hostMem := rfl
@[simp] theorem modPort_emitted (p : Nat) (f : Port → Port) : (s.modPort p f).emitted = s.emitted := rfl
@[simp] theorem modPort_free (p : Nat) (f : Port → Port) : (s.modPort p f).free = s.free := rfl
@[simp] theorem modPort_pending (p : Nat) (f : Port → Port) : (s.modPort p f).pending = s.pending := rfl

/-! ### `modRed` -/

@[simp] theorem modRed_part (i : Nat) (f : RedPair → RedPair) : (s.modRed i f).part = s.part := rfl
@[simp] theorem modRed_gaf (i : Nat) (f : RedPair → RedPair) : (s.modRed i f).gaf = s.gaf := rfl
@[simp] theorem modRed_mbx (i : Nat) (f : RedPair → RedPair) : (s.modRed i f).mbx = s.mbx := rfl
@[simp] theorem modRed_cfg (i : Nat) (f : RedPair → RedPair) : (s.modRed i f).cfg = s.cfg := rfl
@[simp] theorem modRed_cfgGen (i : Nat) (f : RedPair → RedPair) : (s.modRed i f).cfgGen = s.cfgGen := rfl
@[simp] theorem modRed_cfgValid (i : Nat) (f : RedPair → RedPair) : (s.modRed i f).cfgValid = s.cfgValid := rfl
@[simp] theorem modRed_place (i : Nat) (f : RedPair → RedPair) : (s.modRed i f).place = s.place := rfl
@[simp] theorem modRed_time (i : Nat) (f : RedPair → RedPair) : (s.modRed i f).time = s.time := rfl
@[simp] theorem modRed_trk (i : Nat) (f : RedPair → RedPair) : (s.modRed i f).trk = s.trk := rfl
@[simp] theorem modRed_mar (i : Nat) (f : RedPair → RedPair) : (s.modRed i f).mar = s.mar := rfl
@[simp] theorem modRed_sv (i : Nat) (f : RedPair → RedPair) : (s.modRed i f).sv = s.sv := rfl
@[simp] theorem modRed_acq (i : Nat) (f : RedPair → RedPair) : (s.modRed i f).acq = s.acq := rfl
@[simp] theorem modRed_eng (i : Nat) (f : RedPair → RedPair) : (s.modRed i f).eng = s.eng := rfl
@[simp] theorem modRed_conv (i : Nat) (f : RedPair → RedPair) : (s.modRed i f).conv = s.conv := rfl
@[simp] theorem modRed_valve (i : Nat) (f : RedPair → RedPair) : (s.modRed i f).valve = s.valve := rfl
@[simp] theorem modRed_log (i : Nat) (f : RedPair → RedPair) : (s.modRed i f).log = s.log := rfl
@[simp] theorem modRed_fio (i : Nat) (f : RedPair → RedPair) : (s.modRed i f).fio = s.fio := rfl
@[simp] theorem modRed_net (i : Nat) (f : RedPair → RedPair) : (s.modRed i f).net = { s.net with pairs := s.net.pairs.put i (f (s.red i)) } := rfl
@[simp] theorem modRed_ev (i : Nat) (f : RedPair → RedPair) : (s.modRed i f).ev = s.ev := rfl
@[simp] theorem modRed_rec (i : Nat) (f : RedPair → RedPair) : (s.modRed i f).rec_ = s.rec_ := rfl
@[simp] theorem modRed_pair (i : Nat) (f : RedPair → RedPair) : (s.modRed i f).pair = s.pair := rfl
@[simp] theorem modRed_arb (i : Nat) (f : RedPair → RedPair) : (s.modRed i f).arb = s.arb := rfl
@[simp] theorem modRed_cas (i : Nat) (f : RedPair → RedPair) : (s.modRed i f).cas = s.cas := rfl
@[simp] theorem modRed_pwr (i : Nat) (f : RedPair → RedPair) : (s.modRed i f).pwr = s.pwr := rfl
@[simp] theorem modRed_store (i : Nat) (f : RedPair → RedPair) : (s.modRed i f).store = s.store := rfl
@[simp] theorem modRed_lehr (i : Nat) (f : RedPair → RedPair) : (s.modRed i f).lehr = s.lehr := rfl
@[simp] theorem modRed_hostMem (i : Nat) (f : RedPair → RedPair) : (s.modRed i f).hostMem = s.hostMem := rfl
@[simp] theorem modRed_emitted (i : Nat) (f : RedPair → RedPair) : (s.modRed i f).emitted = s.emitted := rfl
@[simp] theorem modRed_free (i : Nat) (f : RedPair → RedPair) : (s.modRed i f).free = s.free := rfl
@[simp] theorem modRed_pending (i : Nat) (f : RedPair → RedPair) : (s.modRed i f).pending = s.pending := rfl

/-! ### `modRecorder` -/

@[simp] theorem modRecorder_part (n : Nat) (f : Recorder → Recorder) : (s.modRecorder n f).part = s.part := rfl
@[simp] theorem modRecorder_gaf (n : Nat) (f : Recorder → Recorder) : (s.modRecorder n f).gaf = s.gaf := rfl
@[simp] theorem modRecorder_mbx (n : Nat) (f : Recorder → Recorder) : (s.modRecorder n f).mbx = s.mbx := rfl
@[simp] theorem modRecorder_cfg (n : Nat) (f : Recorder → Recorder) : (s.modRecorder n f).cfg = s.cfg := rfl
@[simp] theorem modRecorder_cfgGen (n : Nat) (f : Recorder → Recorder) : (s.modRecorder n f).cfgGen = s.cfgGen := rfl
@[simp] theorem modRecorder_cfgValid (n : Nat) (f : Recorder → Recorder) : (s.modRecorder n f).cfgValid = s.cfgValid := rfl
@[simp] theorem modRecorder_place (n : Nat) (f : Recorder → Recorder) : (s.modRecorder n f).place = s.place := rfl
@[simp] theorem modRecorder_time (n : Nat) (f : Recorder → Recorder) : (s.modRecorder n f).time = s.time := rfl
@[simp] theorem modRecorder_trk (n : Nat) (f : Recorder → Recorder) : (s.modRecorder n f).trk = s.trk := rfl
@[simp] theorem modRecorder_mar (n : Nat) (f : Recorder → Recorder) : (s.modRecorder n f).mar = s.mar := rfl
@[simp] theorem modRecorder_sv (n : Nat) (f : Recorder → Recorder) : (s.modRecorder n f).sv = s.sv := rfl
@[simp] theorem modRecorder_acq (n : Nat) (f : Recorder → Recorder) : (s.modRecorder n f).acq = s.acq := rfl
@[simp] theorem modRecorder_eng (n : Nat) (f : Recorder → Recorder) : (s.modRecorder n f).eng = s.eng := rfl
@[simp] theorem modRecorder_conv (n : Nat) (f : Recorder → Recorder) : (s.modRecorder n f).conv = s.conv := rfl
@[simp] theorem modRecorder_valve (n : Nat) (f : Recorder → Recorder) : (s.modRecorder n f).valve = s.valve := rfl
@[simp] theorem modRecorder_log (n : Nat) (f : Recorder → Recorder) : (s.modRecorder n f).log = s.log := rfl
@[simp] theorem modRecorder_fio (n : Nat) (f : Recorder → Recorder) : (s.modRecorder n f).fio = s.fio := rfl
@[simp] theorem modRecorder_net (n : Nat) (f : Recorder → Recorder) : (s.modRecorder n f).net = s.net := rfl
@[simp] theorem modRecorder_ev (n : Nat) (f : Recorder → Recorder) : (s.modRecorder n f).ev = s.ev := rfl
@[simp] theorem modRecorder_rec (n : Nat) (f : Recorder → Recorder) : (s.modRecorder n f).rec_ = { s.rec_ with recorders := s.rec_.recorders.put n (f (s.recorder n)) } := rfl
@[simp] theorem modRecorder_pair (n : Nat) (f : Recorder → Recorder) : (s.modRecorder n f).pair = s.pair := rfl
@[simp] theorem modRecorder_arb (n : Nat) (f : Recorder → Recorder) : (s.modRecorder n f).arb = s.arb := rfl
@[simp] theorem modRecorder_cas (n : Nat) (f : Recorder → Recorder) : (s.modRecorder n f).cas = s.cas := rfl
@[simp] theorem modRecorder_pwr (n : Nat) (f : Recorder → Recorder) : (s.modRecorder n f).pwr = s.pwr := rfl
@[simp] theorem modRecorder_store (n : Nat) (f : Recorder → Recorder) : (s.modRecorder n f).store = s.store := rfl
@[simp] theorem modRecorder_lehr (n : Nat) (f : Recorder → Recorder) : (s.modRecorder n f).lehr = s.lehr := rfl
@[simp] theorem modRecorder_hostMem (n : Nat) (f : Recorder → Recorder) : (s.modRecorder n f).hostMem = s.hostMem := rfl
@[simp] theorem modRecorder_emitted (n : Nat) (f : Recorder → Recorder) : (s.modRecorder n f).emitted = s.emitted := rfl
@[simp] theorem modRecorder_free (n : Nat) (f : Recorder → Recorder) : (s.modRecorder n f).free = s.free := rfl
@[simp] theorem modRecorder_pending (n : Nat) (f : Recorder → Recorder) : (s.modRecorder n f).pending = s.pending := rfl

/-! ### `modPair` -/

@[simp] theorem modPair_part (f : PairMod → PairMod) : (s.modPair f).part = s.part := rfl
@[simp] theorem modPair_gaf (f : PairMod → PairMod) : (s.modPair f).gaf = s.gaf := rfl
@[simp] theorem modPair_mbx (f : PairMod → PairMod) : (s.modPair f).mbx = s.mbx := rfl
@[simp] theorem modPair_cfg (f : PairMod → PairMod) : (s.modPair f).cfg = s.cfg := rfl
@[simp] theorem modPair_cfgGen (f : PairMod → PairMod) : (s.modPair f).cfgGen = s.cfgGen := rfl
@[simp] theorem modPair_cfgValid (f : PairMod → PairMod) : (s.modPair f).cfgValid = s.cfgValid := rfl
@[simp] theorem modPair_place (f : PairMod → PairMod) : (s.modPair f).place = s.place := rfl
@[simp] theorem modPair_time (f : PairMod → PairMod) : (s.modPair f).time = s.time := rfl
@[simp] theorem modPair_trk (f : PairMod → PairMod) : (s.modPair f).trk = s.trk := rfl
@[simp] theorem modPair_mar (f : PairMod → PairMod) : (s.modPair f).mar = s.mar := rfl
@[simp] theorem modPair_sv (f : PairMod → PairMod) : (s.modPair f).sv = s.sv := rfl
@[simp] theorem modPair_acq (f : PairMod → PairMod) : (s.modPair f).acq = s.acq := rfl
@[simp] theorem modPair_eng (f : PairMod → PairMod) : (s.modPair f).eng = s.eng := rfl
@[simp] theorem modPair_conv (f : PairMod → PairMod) : (s.modPair f).conv = s.conv := rfl
@[simp] theorem modPair_valve (f : PairMod → PairMod) : (s.modPair f).valve = s.valve := rfl
@[simp] theorem modPair_log (f : PairMod → PairMod) : (s.modPair f).log = s.log := rfl
@[simp] theorem modPair_fio (f : PairMod → PairMod) : (s.modPair f).fio = s.fio := rfl
@[simp] theorem modPair_net (f : PairMod → PairMod) : (s.modPair f).net = s.net := rfl
@[simp] theorem modPair_ev (f : PairMod → PairMod) : (s.modPair f).ev = s.ev := rfl
@[simp] theorem modPair_rec (f : PairMod → PairMod) : (s.modPair f).rec_ = s.rec_ := rfl
@[simp] theorem modPair_pair (f : PairMod → PairMod) : (s.modPair f).pair = f s.pair := rfl
@[simp] theorem modPair_arb (f : PairMod → PairMod) : (s.modPair f).arb = s.arb := rfl
@[simp] theorem modPair_cas (f : PairMod → PairMod) : (s.modPair f).cas = s.cas := rfl
@[simp] theorem modPair_pwr (f : PairMod → PairMod) : (s.modPair f).pwr = s.pwr := rfl
@[simp] theorem modPair_store (f : PairMod → PairMod) : (s.modPair f).store = s.store := rfl
@[simp] theorem modPair_lehr (f : PairMod → PairMod) : (s.modPair f).lehr = s.lehr := rfl
@[simp] theorem modPair_hostMem (f : PairMod → PairMod) : (s.modPair f).hostMem = s.hostMem := rfl
@[simp] theorem modPair_emitted (f : PairMod → PairMod) : (s.modPair f).emitted = s.emitted := rfl
@[simp] theorem modPair_free (f : PairMod → PairMod) : (s.modPair f).free = s.free := rfl
@[simp] theorem modPair_pending (f : PairMod → PairMod) : (s.modPair f).pending = s.pending := rfl

/-! ### `modArb` -/

@[simp] theorem modArb_part (f : Arbiter → Arbiter) : (s.modArb f).part = s.part := rfl
@[simp] theorem modArb_gaf (f : Arbiter → Arbiter) : (s.modArb f).gaf = s.gaf := rfl
@[simp] theorem modArb_mbx (f : Arbiter → Arbiter) : (s.modArb f).mbx = s.mbx := rfl
@[simp] theorem modArb_cfg (f : Arbiter → Arbiter) : (s.modArb f).cfg = s.cfg := rfl
@[simp] theorem modArb_cfgGen (f : Arbiter → Arbiter) : (s.modArb f).cfgGen = s.cfgGen := rfl
@[simp] theorem modArb_cfgValid (f : Arbiter → Arbiter) : (s.modArb f).cfgValid = s.cfgValid := rfl
@[simp] theorem modArb_place (f : Arbiter → Arbiter) : (s.modArb f).place = s.place := rfl
@[simp] theorem modArb_time (f : Arbiter → Arbiter) : (s.modArb f).time = s.time := rfl
@[simp] theorem modArb_trk (f : Arbiter → Arbiter) : (s.modArb f).trk = s.trk := rfl
@[simp] theorem modArb_mar (f : Arbiter → Arbiter) : (s.modArb f).mar = s.mar := rfl
@[simp] theorem modArb_sv (f : Arbiter → Arbiter) : (s.modArb f).sv = s.sv := rfl
@[simp] theorem modArb_acq (f : Arbiter → Arbiter) : (s.modArb f).acq = s.acq := rfl
@[simp] theorem modArb_eng (f : Arbiter → Arbiter) : (s.modArb f).eng = s.eng := rfl
@[simp] theorem modArb_conv (f : Arbiter → Arbiter) : (s.modArb f).conv = s.conv := rfl
@[simp] theorem modArb_valve (f : Arbiter → Arbiter) : (s.modArb f).valve = s.valve := rfl
@[simp] theorem modArb_log (f : Arbiter → Arbiter) : (s.modArb f).log = s.log := rfl
@[simp] theorem modArb_fio (f : Arbiter → Arbiter) : (s.modArb f).fio = s.fio := rfl
@[simp] theorem modArb_net (f : Arbiter → Arbiter) : (s.modArb f).net = s.net := rfl
@[simp] theorem modArb_ev (f : Arbiter → Arbiter) : (s.modArb f).ev = s.ev := rfl
@[simp] theorem modArb_rec (f : Arbiter → Arbiter) : (s.modArb f).rec_ = s.rec_ := rfl
@[simp] theorem modArb_pair (f : Arbiter → Arbiter) : (s.modArb f).pair = s.pair := rfl
@[simp] theorem modArb_arb (f : Arbiter → Arbiter) : (s.modArb f).arb = f s.arb := rfl
@[simp] theorem modArb_cas (f : Arbiter → Arbiter) : (s.modArb f).cas = s.cas := rfl
@[simp] theorem modArb_pwr (f : Arbiter → Arbiter) : (s.modArb f).pwr = s.pwr := rfl
@[simp] theorem modArb_store (f : Arbiter → Arbiter) : (s.modArb f).store = s.store := rfl
@[simp] theorem modArb_lehr (f : Arbiter → Arbiter) : (s.modArb f).lehr = s.lehr := rfl
@[simp] theorem modArb_hostMem (f : Arbiter → Arbiter) : (s.modArb f).hostMem = s.hostMem := rfl
@[simp] theorem modArb_emitted (f : Arbiter → Arbiter) : (s.modArb f).emitted = s.emitted := rfl
@[simp] theorem modArb_free (f : Arbiter → Arbiter) : (s.modArb f).free = s.free := rfl
@[simp] theorem modArb_pending (f : Arbiter → Arbiter) : (s.modArb f).pending = s.pending := rfl

/-! ### `modCas` -/

@[simp] theorem modCas_part (f : Cascade → Cascade) : (s.modCas f).part = s.part := rfl
@[simp] theorem modCas_gaf (f : Cascade → Cascade) : (s.modCas f).gaf = s.gaf := rfl
@[simp] theorem modCas_mbx (f : Cascade → Cascade) : (s.modCas f).mbx = s.mbx := rfl
@[simp] theorem modCas_cfg (f : Cascade → Cascade) : (s.modCas f).cfg = s.cfg := rfl
@[simp] theorem modCas_cfgGen (f : Cascade → Cascade) : (s.modCas f).cfgGen = s.cfgGen := rfl
@[simp] theorem modCas_cfgValid (f : Cascade → Cascade) : (s.modCas f).cfgValid = s.cfgValid := rfl
@[simp] theorem modCas_place (f : Cascade → Cascade) : (s.modCas f).place = s.place := rfl
@[simp] theorem modCas_time (f : Cascade → Cascade) : (s.modCas f).time = s.time := rfl
@[simp] theorem modCas_trk (f : Cascade → Cascade) : (s.modCas f).trk = s.trk := rfl
@[simp] theorem modCas_mar (f : Cascade → Cascade) : (s.modCas f).mar = s.mar := rfl
@[simp] theorem modCas_sv (f : Cascade → Cascade) : (s.modCas f).sv = s.sv := rfl
@[simp] theorem modCas_acq (f : Cascade → Cascade) : (s.modCas f).acq = s.acq := rfl
@[simp] theorem modCas_eng (f : Cascade → Cascade) : (s.modCas f).eng = s.eng := rfl
@[simp] theorem modCas_conv (f : Cascade → Cascade) : (s.modCas f).conv = s.conv := rfl
@[simp] theorem modCas_valve (f : Cascade → Cascade) : (s.modCas f).valve = s.valve := rfl
@[simp] theorem modCas_log (f : Cascade → Cascade) : (s.modCas f).log = s.log := rfl
@[simp] theorem modCas_fio (f : Cascade → Cascade) : (s.modCas f).fio = s.fio := rfl
@[simp] theorem modCas_net (f : Cascade → Cascade) : (s.modCas f).net = s.net := rfl
@[simp] theorem modCas_ev (f : Cascade → Cascade) : (s.modCas f).ev = s.ev := rfl
@[simp] theorem modCas_rec (f : Cascade → Cascade) : (s.modCas f).rec_ = s.rec_ := rfl
@[simp] theorem modCas_pair (f : Cascade → Cascade) : (s.modCas f).pair = s.pair := rfl
@[simp] theorem modCas_arb (f : Cascade → Cascade) : (s.modCas f).arb = s.arb := rfl
@[simp] theorem modCas_cas (f : Cascade → Cascade) : (s.modCas f).cas = f s.cas := rfl
@[simp] theorem modCas_pwr (f : Cascade → Cascade) : (s.modCas f).pwr = s.pwr := rfl
@[simp] theorem modCas_store (f : Cascade → Cascade) : (s.modCas f).store = s.store := rfl
@[simp] theorem modCas_lehr (f : Cascade → Cascade) : (s.modCas f).lehr = s.lehr := rfl
@[simp] theorem modCas_hostMem (f : Cascade → Cascade) : (s.modCas f).hostMem = s.hostMem := rfl
@[simp] theorem modCas_emitted (f : Cascade → Cascade) : (s.modCas f).emitted = s.emitted := rfl
@[simp] theorem modCas_free (f : Cascade → Cascade) : (s.modCas f).free = s.free := rfl
@[simp] theorem modCas_pending (f : Cascade → Cascade) : (s.modCas f).pending = s.pending := rfl

/-! ### `modPwr` -/

@[simp] theorem modPwr_part (f : Power → Power) : (s.modPwr f).part = s.part := rfl
@[simp] theorem modPwr_gaf (f : Power → Power) : (s.modPwr f).gaf = s.gaf := rfl
@[simp] theorem modPwr_mbx (f : Power → Power) : (s.modPwr f).mbx = s.mbx := rfl
@[simp] theorem modPwr_cfg (f : Power → Power) : (s.modPwr f).cfg = s.cfg := rfl
@[simp] theorem modPwr_cfgGen (f : Power → Power) : (s.modPwr f).cfgGen = s.cfgGen := rfl
@[simp] theorem modPwr_cfgValid (f : Power → Power) : (s.modPwr f).cfgValid = s.cfgValid := rfl
@[simp] theorem modPwr_place (f : Power → Power) : (s.modPwr f).place = s.place := rfl
@[simp] theorem modPwr_time (f : Power → Power) : (s.modPwr f).time = s.time := rfl
@[simp] theorem modPwr_trk (f : Power → Power) : (s.modPwr f).trk = s.trk := rfl
@[simp] theorem modPwr_mar (f : Power → Power) : (s.modPwr f).mar = s.mar := rfl
@[simp] theorem modPwr_sv (f : Power → Power) : (s.modPwr f).sv = s.sv := rfl
@[simp] theorem modPwr_acq (f : Power → Power) : (s.modPwr f).acq = s.acq := rfl
@[simp] theorem modPwr_eng (f : Power → Power) : (s.modPwr f).eng = s.eng := rfl
@[simp] theorem modPwr_conv (f : Power → Power) : (s.modPwr f).conv = s.conv := rfl
@[simp] theorem modPwr_valve (f : Power → Power) : (s.modPwr f).valve = s.valve := rfl
@[simp] theorem modPwr_log (f : Power → Power) : (s.modPwr f).log = s.log := rfl
@[simp] theorem modPwr_fio (f : Power → Power) : (s.modPwr f).fio = s.fio := rfl
@[simp] theorem modPwr_net (f : Power → Power) : (s.modPwr f).net = s.net := rfl
@[simp] theorem modPwr_ev (f : Power → Power) : (s.modPwr f).ev = s.ev := rfl
@[simp] theorem modPwr_rec (f : Power → Power) : (s.modPwr f).rec_ = s.rec_ := rfl
@[simp] theorem modPwr_pair (f : Power → Power) : (s.modPwr f).pair = s.pair := rfl
@[simp] theorem modPwr_arb (f : Power → Power) : (s.modPwr f).arb = s.arb := rfl
@[simp] theorem modPwr_cas (f : Power → Power) : (s.modPwr f).cas = s.cas := rfl
@[simp] theorem modPwr_pwr (f : Power → Power) : (s.modPwr f).pwr = f s.pwr := rfl
@[simp] theorem modPwr_store (f : Power → Power) : (s.modPwr f).store = s.store := rfl
@[simp] theorem modPwr_lehr (f : Power → Power) : (s.modPwr f).lehr = s.lehr := rfl
@[simp] theorem modPwr_hostMem (f : Power → Power) : (s.modPwr f).hostMem = s.hostMem := rfl
@[simp] theorem modPwr_emitted (f : Power → Power) : (s.modPwr f).emitted = s.emitted := rfl
@[simp] theorem modPwr_free (f : Power → Power) : (s.modPwr f).free = s.free := rfl
@[simp] theorem modPwr_pending (f : Power → Power) : (s.modPwr f).pending = s.pending := rfl

/-! ### `modStore` -/

@[simp] theorem modStore_part (f : Store → Store) : (s.modStore f).part = s.part := rfl
@[simp] theorem modStore_gaf (f : Store → Store) : (s.modStore f).gaf = s.gaf := rfl
@[simp] theorem modStore_mbx (f : Store → Store) : (s.modStore f).mbx = s.mbx := rfl
@[simp] theorem modStore_cfg (f : Store → Store) : (s.modStore f).cfg = s.cfg := rfl
@[simp] theorem modStore_cfgGen (f : Store → Store) : (s.modStore f).cfgGen = s.cfgGen := rfl
@[simp] theorem modStore_cfgValid (f : Store → Store) : (s.modStore f).cfgValid = s.cfgValid := rfl
@[simp] theorem modStore_place (f : Store → Store) : (s.modStore f).place = s.place := rfl
@[simp] theorem modStore_time (f : Store → Store) : (s.modStore f).time = s.time := rfl
@[simp] theorem modStore_trk (f : Store → Store) : (s.modStore f).trk = s.trk := rfl
@[simp] theorem modStore_mar (f : Store → Store) : (s.modStore f).mar = s.mar := rfl
@[simp] theorem modStore_sv (f : Store → Store) : (s.modStore f).sv = s.sv := rfl
@[simp] theorem modStore_acq (f : Store → Store) : (s.modStore f).acq = s.acq := rfl
@[simp] theorem modStore_eng (f : Store → Store) : (s.modStore f).eng = s.eng := rfl
@[simp] theorem modStore_conv (f : Store → Store) : (s.modStore f).conv = s.conv := rfl
@[simp] theorem modStore_valve (f : Store → Store) : (s.modStore f).valve = s.valve := rfl
@[simp] theorem modStore_log (f : Store → Store) : (s.modStore f).log = s.log := rfl
@[simp] theorem modStore_fio (f : Store → Store) : (s.modStore f).fio = s.fio := rfl
@[simp] theorem modStore_net (f : Store → Store) : (s.modStore f).net = s.net := rfl
@[simp] theorem modStore_ev (f : Store → Store) : (s.modStore f).ev = s.ev := rfl
@[simp] theorem modStore_rec (f : Store → Store) : (s.modStore f).rec_ = s.rec_ := rfl
@[simp] theorem modStore_pair (f : Store → Store) : (s.modStore f).pair = s.pair := rfl
@[simp] theorem modStore_arb (f : Store → Store) : (s.modStore f).arb = s.arb := rfl
@[simp] theorem modStore_cas (f : Store → Store) : (s.modStore f).cas = s.cas := rfl
@[simp] theorem modStore_pwr (f : Store → Store) : (s.modStore f).pwr = s.pwr := rfl
@[simp] theorem modStore_store (f : Store → Store) : (s.modStore f).store = f s.store := rfl
@[simp] theorem modStore_lehr (f : Store → Store) : (s.modStore f).lehr = s.lehr := rfl
@[simp] theorem modStore_hostMem (f : Store → Store) : (s.modStore f).hostMem = s.hostMem := rfl
@[simp] theorem modStore_emitted (f : Store → Store) : (s.modStore f).emitted = s.emitted := rfl
@[simp] theorem modStore_free (f : Store → Store) : (s.modStore f).free = s.free := rfl
@[simp] theorem modStore_pending (f : Store → Store) : (s.modStore f).pending = s.pending := rfl

end Sys2Proof.Machine.State
end

