-- ==== Sys2Proof/Laws/Run.lean ====
section
/-!
SUPPORT. What surrounds every command: what the state holds when its effect begins (`State.arrived`) and what closing it leaves
(`State.closed`), field by field; and that every meaning is one of these.
-/
namespace Sys2Proof.Machine

/-- Queueing what is owed changes the event system alone. -/
theorem State.refill_eq (n : Nat) (s : State) : ∃ e, State.refill n s = { s with ev := e } := by
  induction n generalizing s with
  | zero => exact ⟨s.ev, rfl⟩
  | succ n ih =>
    unfold State.refill
    split
    · exact ⟨s.ev, rfl⟩
    · split
      · exact ⟨s.ev, rfl⟩
      · split
        · obtain ⟨e, h⟩ := ih (State.queueAdd _ _)
          exact ⟨e, h⟩
        · dsimp only
          split
          · exact ⟨_, rfl⟩
          · obtain ⟨e, h⟩ := ih (State.queueAdd _ _)
            exact ⟨e, h⟩

/-- Queueing what is owed raises nothing. -/
theorem State.refill_raised (n : Nat) (s : State) : (State.refill n s).ev.raised = s.ev.raised := by
  induction n generalizing s with
  | zero => rfl
  | succ n ih =>
    unfold State.refill
    split
    · rfl
    · split
      · rfl
      · split
        · exact (ih _).trans rfl
        · dsimp only
          split
          · rfl
          · exact (ih _).trans rfl

/-- What owed summaries leave. -/
theorem State.takeOwed_eq (dt : Nat) (s : State) : ∃ e, State.takeOwed dt s = { s with ev := e } := by
  unfold State.takeOwed
  split
  · exact State.refill_eq 600 s
  · exact ⟨s.ev, rfl⟩

/-- The state at the instant of a command: time has passed, outputs of the last command are gone, and the event system may have
queued what was owed. -/
theorem State.arrived_eq (dt : Nat) (s : State) :
    ∃ e, s.arrived dt = { s with
      time := if s.part.inReset then s.time else s.time.run s.bleed dt, emitted := [], ev := e } :=
  State.takeOwed_eq dt (State.advance dt s)

/-- Nothing is raised by the passing of time. -/
theorem State.arrived_raised (dt : Nat) (s : State) : (s.arrived dt).ev.raised = s.ev.raised := by
  unfold State.arrived State.takeOwed
  split
  · exact State.refill_raised 600 _
  · rfl

/-- Where nothing was lost, nothing is owed. -/
theorem State.arrived_ev (dt : Nat) (s : State) (h : s.ev.overflow = none) : (s.arrived dt).ev = s.ev := by
  unfold State.arrived State.takeOwed
  simp [State.advance, h]

@[simp] theorem State.arrived_time (dt : Nat) (s : State) :
    (s.arrived dt).time = if s.part.inReset then s.time else s.time.run s.bleed dt := by
  obtain ⟨e, h⟩ := State.arrived_eq dt s
  rw [h]

@[simp] theorem State.arrived_emitted (dt : Nat) (s : State) : (s.arrived dt).emitted = [] := by
  obtain ⟨e, h⟩ := State.arrived_eq dt s
  rw [h]

@[simp] theorem State.arrived_part (dt : Nat) (s : State) : (s.arrived dt).part = s.part := by
  obtain ⟨e, h⟩ := State.arrived_eq dt s
  rw [h]

@[simp] theorem State.arrived_gaf (dt : Nat) (s : State) : (s.arrived dt).gaf = s.gaf := by
  obtain ⟨e, h⟩ := State.arrived_eq dt s
  rw [h]

@[simp] theorem State.arrived_mbx (dt : Nat) (s : State) : (s.arrived dt).mbx = s.mbx := by
  obtain ⟨e, h⟩ := State.arrived_eq dt s
  rw [h]

@[simp] theorem State.arrived_cfg (dt : Nat) (s : State) : (s.arrived dt).cfg = s.cfg := by
  obtain ⟨e, h⟩ := State.arrived_eq dt s
  rw [h]

@[simp] theorem State.arrived_cfgGen (dt : Nat) (s : State) : (s.arrived dt).cfgGen = s.cfgGen := by
  obtain ⟨e, h⟩ := State.arrived_eq dt s
  rw [h]

@[simp] theorem State.arrived_cfgValid (dt : Nat) (s : State) : (s.arrived dt).cfgValid = s.cfgValid := by
  obtain ⟨e, h⟩ := State.arrived_eq dt s
  rw [h]

@[simp] theorem State.arrived_place (dt : Nat) (s : State) : (s.arrived dt).place = s.place := by
  obtain ⟨e, h⟩ := State.arrived_eq dt s
  rw [h]

@[simp] theorem State.arrived_trk (dt : Nat) (s : State) : (s.arrived dt).trk = s.trk := by
  obtain ⟨e, h⟩ := State.arrived_eq dt s
  rw [h]

@[simp] theorem State.arrived_mar (dt : Nat) (s : State) : (s.arrived dt).mar = s.mar := by
  obtain ⟨e, h⟩ := State.arrived_eq dt s
  rw [h]

@[simp] theorem State.arrived_sv (dt : Nat) (s : State) : (s.arrived dt).sv = s.sv := by
  obtain ⟨e, h⟩ := State.arrived_eq dt s
  rw [h]

@[simp] theorem State.arrived_acq (dt : Nat) (s : State) : (s.arrived dt).acq = s.acq := by
  obtain ⟨e, h⟩ := State.arrived_eq dt s
  rw [h]

@[simp] theorem State.arrived_eng (dt : Nat) (s : State) : (s.arrived dt).eng = s.eng := by
  obtain ⟨e, h⟩ := State.arrived_eq dt s
  rw [h]

@[simp] theorem State.arrived_conv (dt : Nat) (s : State) : (s.arrived dt).conv = s.conv := by
  obtain ⟨e, h⟩ := State.arrived_eq dt s
  rw [h]

@[simp] theorem State.arrived_valve (dt : Nat) (s : State) : (s.arrived dt).valve = s.valve := by
  obtain ⟨e, h⟩ := State.arrived_eq dt s
  rw [h]

@[simp] theorem State.arrived_log (dt : Nat) (s : State) : (s.arrived dt).log = s.log := by
  obtain ⟨e, h⟩ := State.arrived_eq dt s
  rw [h]

@[simp] theorem State.arrived_fio (dt : Nat) (s : State) : (s.arrived dt).fio = s.fio := by
  obtain ⟨e, h⟩ := State.arrived_eq dt s
  rw [h]

@[simp] theorem State.arrived_net (dt : Nat) (s : State) : (s.arrived dt).net = s.net := by
  obtain ⟨e, h⟩ := State.arrived_eq dt s
  rw [h]

@[simp] theorem State.arrived_rec (dt : Nat) (s : State) : (s.arrived dt).rec_ = s.rec_ := by
  obtain ⟨e, h⟩ := State.arrived_eq dt s
  rw [h]

@[simp] theorem State.arrived_pair (dt : Nat) (s : State) : (s.arrived dt).pair = s.pair := by
  obtain ⟨e, h⟩ := State.arrived_eq dt s
  rw [h]

@[simp] theorem State.arrived_arb (dt : Nat) (s : State) : (s.arrived dt).arb = s.arb := by
  obtain ⟨e, h⟩ := State.arrived_eq dt s
  rw [h]

@[simp] theorem State.arrived_cas (dt : Nat) (s : State) : (s.arrived dt).cas = s.cas := by
  obtain ⟨e, h⟩ := State.arrived_eq dt s
  rw [h]

@[simp] theorem State.arrived_pwr (dt : Nat) (s : State) : (s.arrived dt).pwr = s.pwr := by
  obtain ⟨e, h⟩ := State.arrived_eq dt s
  rw [h]

@[simp] theorem State.arrived_store (dt : Nat) (s : State) : (s.arrived dt).store = s.store := by
  obtain ⟨e, h⟩ := State.arrived_eq dt s
  rw [h]

@[simp] theorem State.arrived_lehr (dt : Nat) (s : State) : (s.arrived dt).lehr = s.lehr := by
  obtain ⟨e, h⟩ := State.arrived_eq dt s
  rw [h]

@[simp] theorem State.arrived_hostMem (dt : Nat) (s : State) : (s.arrived dt).hostMem = s.hostMem := by
  obtain ⟨e, h⟩ := State.arrived_eq dt s
  rw [h]

@[simp] theorem State.arrived_free (dt : Nat) (s : State) : (s.arrived dt).free = s.free := by
  obtain ⟨e, h⟩ := State.arrived_eq dt s
  rw [h]

@[simp] theorem State.arrived_pending (dt : Nat) (s : State) : (s.arrived dt).pending = s.pending := by
  obtain ⟨e, h⟩ := State.arrived_eq dt s
  rw [h]

/-- Taking a token changes the event system alone and raises nothing. -/
theorem State.takeToken_eq (e : Ev) (s : State) :
    ∃ v, (s.takeToken e).2 = { s with ev := v } ∧ v.raised = s.ev.raised := ⟨_, rfl, rfl⟩

/-- Capturing one event changes the event system alone and raises nothing. -/
theorem State.capture_eq (s : State) (e : Ev) : ∃ v, s.capture e = { s with ev := v } ∧ v.raised = s.ev.raised := by
  unfold State.capture
  dsimp only
  split
  · exact ⟨_, rfl, rfl⟩
  · generalize hx : (if (e.cls == EClass.log && e.code != 0xF1 && e.code != 0xF2) = true then State.takeToken e _ else (true, _)) = x
    have hv : ∃ v, x.2 = { s with ev := v } ∧ v.raised = s.ev.raised := by
      rw [← hx]
      split
      · exact State.takeToken_eq e _
      · exact ⟨_, rfl, rfl⟩
    obtain ⟨v, hv, hr⟩ := hv
    obtain ⟨ok, t⟩ := x
    dsimp only at hv ⊢
    subst hv
    split
    · exact ⟨v, rfl, hr⟩
    · split
      · exact ⟨_, rfl, hr⟩
      · exact ⟨_, rfl, hr⟩

/-- Capturing what a command raised changes the event system alone and leaves nothing raised. -/
theorem State.flush_eq (s : State) : ∃ v, s.flush = { s with ev := v } ∧ v.raised = [] := by
  have key : ∀ (es : List Ev) (t : State), ∃ v, es.foldl State.capture t = { t with ev := v } ∧ v.raised = t.ev.raised := by
    intro es
    induction es with
    | nil => exact fun t => ⟨t.ev, rfl, rfl⟩
    | cons e es ih =>
      intro t
      obtain ⟨v, hv, hr⟩ := State.capture_eq t e
      obtain ⟨w, hw, hwr⟩ := ih (t.capture e)
      rw [hv] at hw hwr
      refine ⟨w, ?_, hwr.trans hr⟩
      rw [List.foldl_cons, hv, hw]
  unfold State.flush
  dsimp only
  split
  · exact key _ _
  · exact ⟨_, rfl, rfl⟩

/-- What closing a command leaves: the events are captured, DEV_IRQ_STATUS may gain its STATUS bit and raise its vector, and the order
code, the serial number and the queue of commands stand. -/
theorem State.closed_eq (s0 s : State) :
    ∃ v q o, s0.closed s = { s with
      ev := v, gaf := { s.gaf with irqStatus := q }, emitted := o, pending := s0.pending
      part := { s.part with reduced := s0.part.reduced, serial := s0.part.serial } } ∧ v.raised = [] := by
  obtain ⟨v, hv, hr⟩ := State.flush_eq s
  unfold State.closed State.noteStatus State.keepFixed
  rw [hv]
  split
  · exact ⟨v, s.gaf.irqStatus, s.emitted, rfl, hr⟩
  · unfold State.setIrq
    split
    · exact ⟨v, s.gaf.irqStatus, s.emitted, rfl, hr⟩
    · dsimp only
      split
      · exact ⟨v, _, s.emitted, rfl, hr⟩
      · exact ⟨v, _, _, rfl, hr⟩

/-- Nothing raised outlasts its command (R393). -/
@[simp] theorem State.closed_raised (s0 s : State) : (s0.closed s).ev.raised = [] := by
  obtain ⟨v, q, o, h, hr⟩ := State.closed_eq s0 s
  rw [h]; exact hr

@[simp] theorem State.closed_mbx (s0 s : State) : (s0.closed s).mbx = s.mbx := by
  obtain ⟨v, q, o, h, -⟩ := State.closed_eq s0 s
  rw [h]

@[simp] theorem State.closed_cfg (s0 s : State) : (s0.closed s).cfg = s.cfg := by
  obtain ⟨v, q, o, h, -⟩ := State.closed_eq s0 s
  rw [h]

@[simp] theorem State.closed_cfgGen (s0 s : State) : (s0.closed s).cfgGen = s.cfgGen := by
  obtain ⟨v, q, o, h, -⟩ := State.closed_eq s0 s
  rw [h]

@[simp] theorem State.closed_cfgValid (s0 s : State) : (s0.closed s).cfgValid = s.cfgValid := by
  obtain ⟨v, q, o, h, -⟩ := State.closed_eq s0 s
  rw [h]

@[simp] theorem State.closed_place (s0 s : State) : (s0.closed s).place = s.place := by
  obtain ⟨v, q, o, h, -⟩ := State.closed_eq s0 s
  rw [h]

@[simp] theorem State.closed_time (s0 s : State) : (s0.closed s).time = s.time := by
  obtain ⟨v, q, o, h, -⟩ := State.closed_eq s0 s
  rw [h]

@[simp] theorem State.closed_trk (s0 s : State) : (s0.closed s).trk = s.trk := by
  obtain ⟨v, q, o, h, -⟩ := State.closed_eq s0 s
  rw [h]

@[simp] theorem State.closed_mar (s0 s : State) : (s0.closed s).mar = s.mar := by
  obtain ⟨v, q, o, h, -⟩ := State.closed_eq s0 s
  rw [h]

@[simp] theorem State.closed_sv (s0 s : State) : (s0.closed s).sv = s.sv := by
  obtain ⟨v, q, o, h, -⟩ := State.closed_eq s0 s
  rw [h]

@[simp] theorem State.closed_acq (s0 s : State) : (s0.closed s).acq = s.acq := by
  obtain ⟨v, q, o, h, -⟩ := State.closed_eq s0 s
  rw [h]

@[simp] theorem State.closed_eng (s0 s : State) : (s0.closed s).eng = s.eng := by
  obtain ⟨v, q, o, h, -⟩ := State.closed_eq s0 s
  rw [h]

@[simp] theorem State.closed_conv (s0 s : State) : (s0.closed s).conv = s.conv := by
  obtain ⟨v, q, o, h, -⟩ := State.closed_eq s0 s
  rw [h]

@[simp] theorem State.closed_valve (s0 s : State) : (s0.closed s).valve = s.valve := by
  obtain ⟨v, q, o, h, -⟩ := State.closed_eq s0 s
  rw [h]

@[simp] theorem State.closed_log (s0 s : State) : (s0.closed s).log = s.log := by
  obtain ⟨v, q, o, h, -⟩ := State.closed_eq s0 s
  rw [h]

@[simp] theorem State.closed_fio (s0 s : State) : (s0.closed s).fio = s.fio := by
  obtain ⟨v, q, o, h, -⟩ := State.closed_eq s0 s
  rw [h]

@[simp] theorem State.closed_net (s0 s : State) : (s0.closed s).net = s.net := by
  obtain ⟨v, q, o, h, -⟩ := State.closed_eq s0 s
  rw [h]

@[simp] theorem State.closed_rec (s0 s : State) : (s0.closed s).rec_ = s.rec_ := by
  obtain ⟨v, q, o, h, -⟩ := State.closed_eq s0 s
  rw [h]

@[simp] theorem State.closed_pair (s0 s : State) : (s0.closed s).pair = s.pair := by
  obtain ⟨v, q, o, h, -⟩ := State.closed_eq s0 s
  rw [h]

@[simp] theorem State.closed_arb (s0 s : State) : (s0.closed s).arb = s.arb := by
  obtain ⟨v, q, o, h, -⟩ := State.closed_eq s0 s
  rw [h]

@[simp] theorem State.closed_cas (s0 s : State) : (s0.closed s).cas = s.cas := by
  obtain ⟨v, q, o, h, -⟩ := State.closed_eq s0 s
  rw [h]

@[simp] theorem State.closed_pwr (s0 s : State) : (s0.closed s).pwr = s.pwr := by
  obtain ⟨v, q, o, h, -⟩ := State.closed_eq s0 s
  rw [h]

@[simp] theorem State.closed_store (s0 s : State) : (s0.closed s).store = s.store := by
  obtain ⟨v, q, o, h, -⟩ := State.closed_eq s0 s
  rw [h]

@[simp] theorem State.closed_lehr (s0 s : State) : (s0.closed s).lehr = s.lehr := by
  obtain ⟨v, q, o, h, -⟩ := State.closed_eq s0 s
  rw [h]

@[simp] theorem State.closed_hostMem (s0 s : State) : (s0.closed s).hostMem = s.hostMem := by
  obtain ⟨v, q, o, h, -⟩ := State.closed_eq s0 s
  rw [h]

@[simp] theorem State.closed_free (s0 s : State) : (s0.closed s).free = s.free := by
  obtain ⟨v, q, o, h, -⟩ := State.closed_eq s0 s
  rw [h]

@[simp] theorem State.closed_pending (s0 s : State) : (s0.closed s).pending = s0.pending := by
  obtain ⟨v, q, o, h, -⟩ := State.closed_eq s0 s
  rw [h]

@[simp] theorem State.closed_gaf_mode (s0 s : State) : (s0.closed s).gaf.mode = s.gaf.mode := by
  obtain ⟨v, q, o, h, -⟩ := State.closed_eq s0 s
  rw [h]

@[simp] theorem State.closed_gaf_pend (s0 s : State) : (s0.closed s).gaf.pend = s.gaf.pend := by
  obtain ⟨v, q, o, h, -⟩ := State.closed_eq s0 s
  rw [h]

@[simp] theorem State.closed_gaf_since (s0 s : State) : (s0.closed s).gaf.since = s.gaf.since := by
  obtain ⟨v, q, o, h, -⟩ := State.closed_eq s0 s
  rw [h]

@[simp] theorem State.closed_gaf_prevMode (s0 s : State) : (s0.closed s).gaf.prevMode = s.gaf.prevMode := by
  obtain ⟨v, q, o, h, -⟩ := State.closed_eq s0 s
  rw [h]

@[simp] theorem State.closed_gaf_powerDriven (s0 s : State) : (s0.closed s).gaf.powerDriven = s.gaf.powerDriven := by
  obtain ⟨v, q, o, h, -⟩ := State.closed_eq s0 s
  rw [h]

@[simp] theorem State.closed_gaf_safeCause (s0 s : State) : (s0.closed s).gaf.safeCause = s.gaf.safeCause := by
  obtain ⟨v, q, o, h, -⟩ := State.closed_eq s0 s
  rw [h]

@[simp] theorem State.closed_gaf_romHold (s0 s : State) : (s0.closed s).gaf.romHold = s.gaf.romHold := by
  obtain ⟨v, q, o, h, -⟩ := State.closed_eq s0 s
  rw [h]

@[simp] theorem State.closed_gaf_fwReady (s0 s : State) : (s0.closed s).gaf.fwReady = s.gaf.fwReady := by
  obtain ⟨v, q, o, h, -⟩ := State.closed_eq s0 s
  rw [h]

@[simp] theorem State.closed_gaf_image (s0 s : State) : (s0.closed s).gaf.image = s.gaf.image := by
  obtain ⟨v, q, o, h, -⟩ := State.closed_eq s0 s
  rw [h]

@[simp] theorem State.closed_gaf_fwVer (s0 s : State) : (s0.closed s).gaf.fwVer = s.gaf.fwVer := by
  obtain ⟨v, q, o, h, -⟩ := State.closed_eq s0 s
  rw [h]

@[simp] theorem State.closed_gaf_alive (s0 s : State) : (s0.closed s).gaf.alive = s.gaf.alive := by
  obtain ⟨v, q, o, h, -⟩ := State.closed_eq s0 s
  rw [h]

@[simp] theorem State.closed_gaf_irqMask (s0 s : State) : (s0.closed s).gaf.irqMask = s.gaf.irqMask := by
  obtain ⟨v, q, o, h, -⟩ := State.closed_eq s0 s
  rw [h]

@[simp] theorem State.closed_gaf_msix (s0 s : State) : (s0.closed s).gaf.msix = s.gaf.msix := by
  obtain ⟨v, q, o, h, -⟩ := State.closed_eq s0 s
  rw [h]

@[simp] theorem State.closed_gaf_committed (s0 s : State) : (s0.closed s).gaf.committed = s.gaf.committed := by
  obtain ⟨v, q, o, h, -⟩ := State.closed_eq s0 s
  rw [h]

@[simp] theorem State.closed_gaf_session (s0 s : State) : (s0.closed s).gaf.session = s.gaf.session := by
  obtain ⟨v, q, o, h, -⟩ := State.closed_eq s0 s
  rw [h]

@[simp] theorem State.closed_gaf_ops (s0 s : State) : (s0.closed s).gaf.ops = s.gaf.ops := by
  obtain ⟨v, q, o, h, -⟩ := State.closed_eq s0 s
  rw [h]

@[simp] theorem State.closed_gaf_opSeq (s0 s : State) : (s0.closed s).gaf.opSeq = s.gaf.opSeq := by
  obtain ⟨v, q, o, h, -⟩ := State.closed_eq s0 s
  rw [h]

@[simp] theorem State.closed_gaf_txn (s0 s : State) : (s0.closed s).gaf.txn = s.gaf.txn := by
  obtain ⟨v, q, o, h, -⟩ := State.closed_eq s0 s
  rw [h]

@[simp] theorem State.closed_gaf_txnTimedOut (s0 s : State) : (s0.closed s).gaf.txnTimedOut = s.gaf.txnTimedOut := by
  obtain ⟨v, q, o, h, -⟩ := State.closed_eq s0 s
  rw [h]

@[simp] theorem State.closed_gaf_nextTxn (s0 s : State) : (s0.closed s).gaf.nextTxn = s.gaf.nextTxn := by
  obtain ⟨v, q, o, h, -⟩ := State.closed_eq s0 s
  rw [h]

@[simp] theorem State.closed_gaf_commit (s0 s : State) : (s0.closed s).gaf.commit = s.gaf.commit := by
  obtain ⟨v, q, o, h, -⟩ := State.closed_eq s0 s
  rw [h]

@[simp] theorem State.closed_gaf_dryRun (s0 s : State) : (s0.closed s).gaf.dryRun = s.gaf.dryRun := by
  obtain ⟨v, q, o, h, -⟩ := State.closed_eq s0 s
  rw [h]

@[simp] theorem State.closed_gaf_bootAt (s0 s : State) : (s0.closed s).gaf.bootAt = s.gaf.bootAt := by
  obtain ⟨v, q, o, h, -⟩ := State.closed_eq s0 s
  rw [h]

@[simp] theorem State.closed_gaf_lastRead (s0 s : State) : (s0.closed s).gaf.lastRead = s.gaf.lastRead := by
  obtain ⟨v, q, o, h, -⟩ := State.closed_eq s0 s
  rw [h]

@[simp] theorem State.closed_part_reduced (s0 s : State) : (s0.closed s).part.reduced = s0.part.reduced := by
  obtain ⟨v, q, o, h, -⟩ := State.closed_eq s0 s
  rw [h]

@[simp] theorem State.closed_part_serial (s0 s : State) : (s0.closed s).part.serial = s0.part.serial := by
  obtain ⟨v, q, o, h, -⟩ := State.closed_eq s0 s
  rw [h]

@[simp] theorem State.closed_part_balls (s0 s : State) : (s0.closed s).part.balls = s.part.balls := by
  obtain ⟨v, q, o, h, -⟩ := State.closed_eq s0 s
  rw [h]

@[simp] theorem State.closed_part_straps (s0 s : State) : (s0.closed s).part.straps = s.part.straps := by
  obtain ⟨v, q, o, h, -⟩ := State.closed_eq s0 s
  rw [h]

@[simp] theorem State.closed_part_inReset (s0 s : State) : (s0.closed s).part.inReset = s.part.inReset := by
  obtain ⟨v, q, o, h, -⟩ := State.closed_eq s0 s
  rw [h]

@[simp] theorem State.closed_part_porLow (s0 s : State) : (s0.closed s).part.porLow = s.part.porLow := by
  obtain ⟨v, q, o, h, -⟩ := State.closed_eq s0 s
  rw [h]

@[simp] theorem State.closed_part_sysLow (s0 s : State) : (s0.closed s).part.sysLow = s.part.sysLow := by
  obtain ⟨v, q, o, h, -⟩ := State.closed_eq s0 s
  rw [h]

@[simp] theorem State.closed_part_perstLow (s0 s : State) : (s0.closed s).part.perstLow = s.part.perstLow := by
  obtain ⟨v, q, o, h, -⟩ := State.closed_eq s0 s
  rw [h]

@[simp] theorem State.closed_part_pcieUp (s0 s : State) : (s0.closed s).part.pcieUp = s.part.pcieUp := by
  obtain ⟨v, q, o, h, -⟩ := State.closed_eq s0 s
  rw [h]

@[simp] theorem State.closed_part_bootStep (s0 s : State) : (s0.closed s).part.bootStep = s.part.bootStep := by
  obtain ⟨v, q, o, h, -⟩ := State.closed_eq s0 s
  rw [h]

@[simp] theorem State.closed_part_selfTestOk (s0 s : State) : (s0.closed s).part.selfTestOk = s.part.selfTestOk := by
  obtain ⟨v, q, o, h, -⟩ := State.closed_eq s0 s
  rw [h]

@[simp] theorem State.closed_part_jtagIr (s0 s : State) : (s0.closed s).part.jtagIr = s.part.jtagIr := by
  obtain ⟨v, q, o, h, -⟩ := State.closed_eq s0 s
  rw [h]

@[simp] theorem State.closed_part_trigIn (s0 s : State) : (s0.closed s).part.trigIn = s.part.trigIn := by
  obtain ⟨v, q, o, h, -⟩ := State.closed_eq s0 s
  rw [h]

@[simp] theorem State.closed_part_trigAt (s0 s : State) : (s0.closed s).part.trigAt = s.part.trigAt := by
  obtain ⟨v, q, o, h, -⟩ := State.closed_eq s0 s
  rw [h]

/-- What a meaning answers. -/
theorem goOn_eq (dt : Nat) (f : State → State) (s : State) : goOn dt f s = .next (s.closed (f (s.arrived dt))) := rfl

end Sys2Proof.Machine
end

