-- ==== Sys2Proof/Laws/Net.lean ====
section
/-!
SUPPORT. What sending frames can change: the switch core, the event system, what the command drove out and the counter of free values, and
nothing else; so a register, a record or a store reads after `State.netOut` as before it.
-/
namespace Sys2Proof.Machine

/-- `t` differs from `s` at most in the switch core, the event system, the outputs and the counter of free values. -/
def NetOnly (s t : State) : Prop := ∃ n v o k, t = { s with net := n, ev := v, emitted := o, free := k }

theorem NetOnly.refl (s : State) : NetOnly s s := ⟨s.net, s.ev, s.emitted, s.free, rfl⟩

theorem NetOnly.trans {s t u : State} (h : NetOnly s t) (k : NetOnly t u) : NetOnly s u := by
  obtain ⟨n, v, o, c, rfl⟩ := h
  obtain ⟨n', v', o', c', rfl⟩ := k
  exact ⟨n', v', o', c', rfl⟩

/-- A fold of such changes is one. -/
theorem NetOnly.foldl {α : Type} (f : State → α → State) (h : ∀ s a, NetOnly s (f s a)) (xs : List α) (s : State) :
    NetOnly s (xs.foldl f s) := by
  induction xs generalizing s with
  | nil => exact NetOnly.refl s
  | cons x xs ih => exact (h s x).trans (ih _)

/-- A change before such a fold. -/
theorem NetOnly.thenFoldl {α : Type} (f : State → α → State) (h : ∀ s a, NetOnly s (f s a)) (xs : List α) (u s : State) (k : NetOnly u s) :
    NetOnly u (xs.foldl f s) := k.trans (NetOnly.foldl f h xs s)

/-- A fold that carries other data along. -/
theorem NetOnly.foldlPair {α β : Type} (f : β × State → α → β × State) (h : ∀ x a, NetOnly x.2 (f x a).2) (xs : List α) (x : β × State) :
    NetOnly x.2 (xs.foldl f x).2 := by
  induction xs generalizing x with
  | nil => exact NetOnly.refl _
  | cons a as ih => exact (h x a).trans (ih _)

theorem State.modPort_netOnly (p : Nat) (f : Port → Port) (s : State) : NetOnly s (s.modPort p f) := ⟨_, s.ev, s.emitted, s.free, rfl⟩

theorem State.modRed_netOnly (i : Nat) (f : RedPair → RedPair) (s : State) : NetOnly s (s.modRed i f) := ⟨_, s.ev, s.emitted, s.free, rfl⟩

theorem State.release_netOnly (id : Nat) (s : State) : NetOnly s (s.release id) := by
  unfold State.release
  split
  · exact NetOnly.refl s
  · split <;> exact ⟨_, s.ev, s.emitted, s.free, rfl⟩

theorem State.hold_netOnly (id : Nat) (s : State) : NetOnly s (s.hold id) := by
  unfold State.hold
  split
  · exact NetOnly.refl s
  · exact ⟨_, s.ev, s.emitted, s.free, rfl⟩

theorem State.netSettle_netOnly (s : State) : NetOnly s s.netSettle := by
  refine NetOnly.foldl _ (fun s p => ?_) _ s
  split
  · split
    · exact (State.modPort_netOnly _ _ s).trans (State.release_netOnly _ _)
    · exact NetOnly.refl s
  · exact NetOnly.refl s

theorem State.pushQueue_netOnly (p : Nat) (q : QFrame) (s : State) : NetOnly s (s.pushQueue p q) := by
  unfold State.pushQueue
  exact State.modPort_netOnly _ _ s

theorem State.offerCopy_netOnly (p : Nat) (q : QFrame) (s : State) : NetOnly s (s.offerCopy p q) := by
  unfold State.offerCopy
  split
  · exact (State.pushQueue_netOnly p q s).trans (State.hold_netOnly _ _)
  · split
    · exact State.modPort_netOnly _ _ s
    · split
      · exact NetOnly.trans ⟨_, s.ev, s.emitted, s.free, rfl⟩ (State.hold_netOnly _ _)
      · exact State.modPort_netOnly _ _ s

theorem State.post_netOnly (e : Ev) (s : State) : NetOnly s (s.post e) := ⟨s.net, _, s.emitted, s.free, rfl⟩

theorem State.postIf_netOnly (b : Bool) (e : Ev) (s : State) : NetOnly s (s.postIf b e) := by
  unfold State.postIf
  split
  · exact State.post_netOnly e s
  · exact NetOnly.refl s

theorem State.emit_netOnly (o : Output) (s : State) : NetOnly s (s.emit o) := ⟨s.net, s.ev, _, s.free, rfl⟩

theorem State.launchLate_netOnly (p q : Nat) (s : State) : NetOnly s (s.launchLate p q) := by
  unfold State.launchLate
  dsimp only
  have late : ∀ xs : List QFrame, ∀ b t, NetOnly t (xs.foldl (fun s x => s.lateLaunch p q (x.launch.getD 0) b) t) :=
    fun xs b t => NetOnly.foldl _ (fun s x => State.post_netOnly _ s) xs t
  split
  · exact (late _ _ s).trans (State.modPort_netOnly _ _ _)
  · exact (late _ _ s).trans
      ((NetOnly.foldl _ (fun s (x : QFrame) => State.release_netOnly x.id s) _ _).trans (State.modPort_netOnly _ _ _))

theorem State.offerLaunch_netOnly (p q : Nat) (x : QFrame) (s : State) : NetOnly s (s.offerLaunch p q x) := by
  unfold State.offerLaunch
  dsimp only
  split
  · exact State.modPort_netOnly _ _ s
  · exact ((State.modPort_netOnly _ _ s).trans (State.hold_netOnly _ _)).trans (State.launchLate_netOnly _ _ _)

theorem State.enqueue_netOnly (ingress : Nat) (f : EthFrame) (cls : Nat) (forms : List (Nat × EthFrame × Fine))
    (launch : Option (Nat × Fine)) (stamp : Option (U16 × Fin 3)) (rx : Option Fine) (s : State) :
    NetOnly s (s.enqueue ingress f cls forms launch stamp rx) := by
  unfold State.enqueue
  dsimp only
  have dead : ∀ xs : List (Nat × EthFrame × Fine), NetOnly s (xs.foldl (fun s x => s.modPort x.1 fun r => { r with downDrop := satAdd 32 r.downDrop 1 }) s) :=
    fun xs => NetOnly.foldl _ (fun s x => State.modPort_netOnly _ _ s) xs s
  split
  · exact dead _
  · split
    · split
      · exact (dead _).trans (State.modPort_netOnly _ _ _)
      · exact dead _
    · refine (dead (forms.partition fun x => decide (16 ≤ x.1) || (s.port x.1).up).2).trans ?_
      have step : ∀ u v, NetOnly u v → ∀ i, NetOnly u (v.release i) := fun u v h i => h.trans (State.release_netOnly i v)
      apply step
      apply NetOnly.thenFoldl
      swap
      · exact ⟨_, _, _, _, rfl⟩
      intro s x
      split
      · exact State.emit_netOnly _ s
      · split
        · exact State.offerLaunch_netOnly _ _ _ s
        · exact State.offerCopy_netOnly _ _ s

theorem State.redSeqOf_netOnly (i : Nat) (src : BitVec 48) (s : State) : NetOnly s (s.redSeqOf i src).2 := by
  unfold State.redSeqOf
  dsimp only
  split
  · dsimp only
    exact State.modRed_netOnly _ _ s
  · split
    · dsimp only
      exact State.modRed_netOnly _ _ s
    · exact ⟨s.net, s.ev, s.emitted, _, rfl⟩

theorem State.redForms_netOnly (f : EthFrame) (dests : List Nat) (form : Nat → EthFrame → EthFrame) (s : State) :
    NetOnly s (s.redForms f dests form).2 := by
  unfold State.redForms
  dsimp only
  refine NetOnly.foldlPair _ (fun x p => ?_) _ ([], s)
  split
  · exact NetOnly.refl _
  · repeat' split
    all_goals first | exact NetOnly.refl _ | exact State.redSeqOf_netOnly _ _ _

theorem State.sendOwn_netOnly (i : Nat) (f : EthFrame) (cls : Nat) (dests : List Nat) (launch : Option (Nat × Fine))
    (stamp : Option (U16 × Fin 3)) (s : State) : NetOnly s (s.sendOwn i f cls dests launch stamp) := by
  unfold State.sendOwn
  split
  · exact NetOnly.refl s
  · dsimp only
    exact ((State.netSettle_netOnly s).trans (State.redForms_netOnly _ _ _ _)).trans (State.enqueue_netOnly _ _ _ _ _ _ _ _)

theorem State.sendGoose_netOnly (cb : Nat) (a b : U32) (launch : Option Fine) (s : State) : NetOnly s (s.sendGoose cb a b launch) := by
  unfold State.sendGoose
  split
  · exact NetOnly.refl s
  · exact State.sendOwn_netOnly _ _ _ _ _ _ s

theorem State.sendC37_netOnly (n len : Nat) (s : State) : NetOnly s (s.sendC37 n len) := by
  unfold State.sendC37
  split
  · exact NetOnly.refl s
  · exact State.sendOwn_netOnly _ _ _ _ _ _ s

theorem State.sendIp_netOnly (i : Nat) (ip : BitVec 128) (body : EthBody) (len cls : Nat) (s : State) :
    NetOnly s (s.sendIp i ip body len cls) := by
  unfold State.sendIp
  dsimp only
  exact ((State.netSettle_netOnly s).trans (State.redForms_netOnly _ _ _ _)).trans (State.enqueue_netOnly _ _ _ _ _ _ _ _)

theorem State.outFrames_netOnly (s : State) : NetOnly s s.outFrames := by
  refine NetOnly.foldl _ (fun s o => ?_) _ s
  split
  · exact State.sendGoose_netOnly _ _ _ _ s
  · exact State.sendC37_netOnly _ _ s
  · exact State.sendC37_netOnly _ _ s
  · exact State.sendIp_netOnly _ _ _ _ _ s
  · exact State.sendIp_netOnly _ _ _ _ _ s
  · exact NetOnly.refl s

/-- What a command drove out changes the switch core, the event system, the outputs and the counter of free values alone. -/
theorem State.netOut_netOnly (s : State) : NetOnly s s.netOut := by
  unfold State.netOut
  exact NetOnly.trans ⟨s.net, s.ev, _, s.free, rfl⟩ (State.outFrames_netOnly _)

@[simp] theorem State.netOut_part (s : State) : s.netOut.part = s.part := by
  obtain ⟨n, v, o, k, h⟩ := State.netOut_netOnly s
  rw [h]

@[simp] theorem State.netOut_gaf (s : State) : s.netOut.gaf = s.gaf := by
  obtain ⟨n, v, o, k, h⟩ := State.netOut_netOnly s
  rw [h]

@[simp] theorem State.netOut_mbx (s : State) : s.netOut.mbx = s.mbx := by
  obtain ⟨n, v, o, k, h⟩ := State.netOut_netOnly s
  rw [h]

@[simp] theorem State.netOut_cfg (s : State) : s.netOut.cfg = s.cfg := by
  obtain ⟨n, v, o, k, h⟩ := State.netOut_netOnly s
  rw [h]

@[simp] theorem State.netOut_cfgGen (s : State) : s.netOut.cfgGen = s.cfgGen := by
  obtain ⟨n, v, o, k, h⟩ := State.netOut_netOnly s
  rw [h]

@[simp] theorem State.netOut_cfgValid (s : State) : s.netOut.cfgValid = s.cfgValid := by
  obtain ⟨n, v, o, k, h⟩ := State.netOut_netOnly s
  rw [h]

@[simp] theorem State.netOut_place (s : State) : s.netOut.place = s.place := by
  obtain ⟨n, v, o, k, h⟩ := State.netOut_netOnly s
  rw [h]

@[simp] theorem State.netOut_time (s : State) : s.netOut.time = s.time := by
  obtain ⟨n, v, o, k, h⟩ := State.netOut_netOnly s
  rw [h]

@[simp] theorem State.netOut_trk (s : State) : s.netOut.trk = s.trk := by
  obtain ⟨n, v, o, k, h⟩ := State.netOut_netOnly s
  rw [h]

@[simp] theorem State.netOut_mar (s : State) : s.netOut.mar = s.mar := by
  obtain ⟨n, v, o, k, h⟩ := State.netOut_netOnly s
  rw [h]

@[simp] theorem State.netOut_sv (s : State) : s.netOut.sv = s.sv := by
  obtain ⟨n, v, o, k, h⟩ := State.netOut_netOnly s
  rw [h]

@[simp] theorem State.netOut_acq (s : State) : s.netOut.acq = s.acq := by
  obtain ⟨n, v, o, k, h⟩ := State.netOut_netOnly s
  rw [h]

@[simp] theorem State.netOut_eng (s : State) : s.netOut.eng = s.eng := by
  obtain ⟨n, v, o, k, h⟩ := State.netOut_netOnly s
  rw [h]

@[simp] theorem State.netOut_conv (s : State) : s.netOut.conv = s.conv := by
  obtain ⟨n, v, o, k, h⟩ := State.netOut_netOnly s
  rw [h]

@[simp] theorem State.netOut_valve (s : State) : s.netOut.valve = s.valve := by
  obtain ⟨n, v, o, k, h⟩ := State.netOut_netOnly s
  rw [h]

@[simp] theorem State.netOut_log (s : State) : s.netOut.log = s.log := by
  obtain ⟨n, v, o, k, h⟩ := State.netOut_netOnly s
  rw [h]

@[simp] theorem State.netOut_fio (s : State) : s.netOut.fio = s.fio := by
  obtain ⟨n, v, o, k, h⟩ := State.netOut_netOnly s
  rw [h]

@[simp] theorem State.netOut_rec (s : State) : s.netOut.rec_ = s.rec_ := by
  obtain ⟨n, v, o, k, h⟩ := State.netOut_netOnly s
  rw [h]

@[simp] theorem State.netOut_pair (s : State) : s.netOut.pair = s.pair := by
  obtain ⟨n, v, o, k, h⟩ := State.netOut_netOnly s
  rw [h]

@[simp] theorem State.netOut_arb (s : State) : s.netOut.arb = s.arb := by
  obtain ⟨n, v, o, k, h⟩ := State.netOut_netOnly s
  rw [h]

@[simp] theorem State.netOut_cas (s : State) : s.netOut.cas = s.cas := by
  obtain ⟨n, v, o, k, h⟩ := State.netOut_netOnly s
  rw [h]

@[simp] theorem State.netOut_pwr (s : State) : s.netOut.pwr = s.pwr := by
  obtain ⟨n, v, o, k, h⟩ := State.netOut_netOnly s
  rw [h]

@[simp] theorem State.netOut_store (s : State) : s.netOut.store = s.store := by
  obtain ⟨n, v, o, k, h⟩ := State.netOut_netOnly s
  rw [h]

@[simp] theorem State.netOut_lehr (s : State) : s.netOut.lehr = s.lehr := by
  obtain ⟨n, v, o, k, h⟩ := State.netOut_netOnly s
  rw [h]

@[simp] theorem State.netOut_hostMem (s : State) : s.netOut.hostMem = s.hostMem := by
  obtain ⟨n, v, o, k, h⟩ := State.netOut_netOnly s
  rw [h]

@[simp] theorem State.netOut_pending (s : State) : s.netOut.pending = s.pending := by
  obtain ⟨n, v, o, k, h⟩ := State.netOut_netOnly s
  rw [h]

/-- With no operation in flight none starts. -/
theorem State.pump_idle (s : State) (h : s.gaf.ops = []) : s.pump = s := by
  unfold State.pump
  rw [h]
  split <;> rfl

/-- With no operation in flight, what follows a command is what it drove out. -/
theorem State.settleOut_idle (s : State) (h : s.gaf.ops = []) : s.settleOut = s.netOut := by
  unfold State.settleOut
  rw [State.pump_idle s h]

end Sys2Proof.Machine
end

