-- ==== Sys2Proof/Laws/Table.lean ====
section
/-!
SUPPORT. Laws of tables: an entry reads as it was written, other entries stand, and order and presence follow the writes.
-/
namespace Sys2Proof

variable {α : Type} (d v : α) (t : Table α) (j k : Nat)

/-- A written entry reads as it was written. -/
@[simp] theorem Table.get_put_self : Table.get d (Table.put t k v) k = v := by
  induction t with
  | nil => simp [Table.put, Table.get]
  | cons e r ih =>
    obtain ⟨i, w⟩ := e
    simp only [Table.put]
    split
    · simp [Table.get]
    · split
      · simp [Table.get]
      · simp [Table.get, ih, show i ≠ k by omega]

/-- A write leaves every other entry. -/
theorem Table.get_put_of_ne (h : j ≠ k) : Table.get d (Table.put t k v) j = Table.get d t j := by
  induction t with
  | nil => simp [Table.put, Table.get, Ne.symm h]
  | cons e r ih =>
    obtain ⟨i, w⟩ := e
    simp only [Table.put]
    split
    · simp [Table.get, Ne.symm h]
    · split
      · subst_vars; simp [Table.get, Ne.symm h]
      · simp [Table.get, ih]

/-- Reading after a write, either way. -/
theorem Table.get_put : Table.get d (Table.put t k v) j = if j = k then v else Table.get d t j := by
  split
  · subst_vars; simp
  · exact Table.get_put_of_ne d v t j k ‹_›

/-- The last of two writes of an entry stands. -/
@[simp] theorem Table.put_put (w : α) : Table.put (Table.put t k w) k v = Table.put t k v := by
  induction t with
  | nil => simp [Table.put]
  | cons e r ih =>
    obtain ⟨i, x⟩ := e
    simp only [Table.put]
    split
    · simp [Table.put]
    · split
      · simp [Table.put]
      · rename_i h1 h2
        simp [Table.put, h1, h2, ih]

/-- A written entry is found. -/
@[simp] theorem Table.find?_put_self : Table.find? (Table.put t k v) k = some v := by
  induction t with
  | nil => simp [Table.put, Table.find?]
  | cons e r ih =>
    obtain ⟨i, w⟩ := e
    simp only [Table.put]
    split
    · simp [Table.find?]
    · split
      · simp [Table.find?]
      · simp [Table.find?, ih, show i ≠ k by omega]

/-- A write leaves what is found under every other number. -/
theorem Table.find?_put_of_ne (h : j ≠ k) : Table.find? (Table.put t k v) j = Table.find? t j := by
  induction t with
  | nil => simp [Table.put, Table.find?, Ne.symm h]
  | cons e r ih =>
    obtain ⟨i, w⟩ := e
    simp only [Table.put]
    split
    · simp [Table.find?, Ne.symm h]
    · split
      · subst_vars; simp [Table.find?, Ne.symm h]
      · simp [Table.find?, ih]

/-- `get` is `find?` with a default. -/
theorem Table.get_eq_find? : Table.get d t k = (Table.find? t k).getD d := by
  induction t with
  | nil => rfl
  | cons e r ih =>
    obtain ⟨i, w⟩ := e
    simp only [Table.get, Table.find?]
    split <;> simp_all

end Sys2Proof
end

