-- ==== Sys2Proof/Laws/Mailbox.lean ====
section
/-!
SUPPORT. Everything a host command that comes alone can do: it is carried out at once, and either its completion entry is written or it
waits in flight (R47 to R60).
-/
namespace Sys2Proof.Machine

/-- A tag is free where nothing is in flight. -/
theorem State.tagInFlight_alone (h : CmdHead) (c : HostCmd) (s : State) (a : s.comesAlone h c = true) (t : U16) :
    s.tagInFlight t = false := by
  simp only [State.comesAlone, Bool.and_eq_true, List.isEmpty_iff] at a
  obtain ⟨⟨⟨-, ops⟩, held⟩, -⟩ := a
  simp only [State.tagInFlight, ops, List.any_nil, Bool.false_or]
  rw [List.any_eq_false]
  intro m hm
  have := List.all_eq_true.mp held m hm
  simp_all

/-- A mailbox of the table holds no completion back. -/
theorem State.held_alone (h : CmdHead) (c : HostCmd) (s : State) (a : s.comesAlone h c = true) (n : Nat) : (s.mb n).held = [] := by
  simp only [State.comesAlone, Bool.and_eq_true, List.isEmpty_iff] at a
  obtain ⟨⟨-, held⟩, -⟩ := a
  unfold State.mb
  generalize s.mbx = t at held
  induction t with
  | nil => rfl
  | cons e r ih =>
    obtain ⟨j, m⟩ := e
    simp only [List.all_cons, Bool.and_eq_true, List.isEmpty_iff] at held
    simp only [Table.get]
    split
    · exact held.1
    · exact ih held.2

/-- One operation in flight that may start is carried out. -/
theorem State.pump_one (v : State) (o : Op) (up : v.gafferUp = true) (ops : v.gaf.ops = [o]) (can : v.canStart o = true) :
    v.pump = ((v.command o).1).applyReply o.seq (v.command o).2 := by
  unfold State.pump
  rw [up, ops]
  simp only [if_true, List.map_cons, List.map_nil, List.foldl_cons, List.foldl_nil]
  unfold State.tryOp
  rw [ops]
  simp only [List.find?_cons, beq_self_eq_true, can, if_true]

/-- Setting a bit of DEV_IRQ_STATUS changes that register and may raise a vector. -/
theorem State.setIrq_eq (n : Nat) (s : State) : ∃ q o, s.setIrq n = { s with gaf := { s.gaf with irqStatus := q }, emitted := o } := by
  unfold State.setIrq
  split
  · exact ⟨_, _, rfl⟩
  · dsimp only
    split
    · exact ⟨_, _, rfl⟩
    · exact ⟨_, _, rfl⟩

/-- Announcing a reset changes its instant alone, and only for a completion that announces one. -/
theorem State.announceReset_eq (k : Completion) (s : State) : ∃ b, State.announceReset k s = { s with gaf := { s.gaf with bootAt := b } } ∧
    (k.boot = false → b = s.gaf.bootAt) := by
  unfold State.announceReset
  split
  · exact ⟨_, rfl, fun h => by simp_all⟩
  · exact ⟨_, rfl, fun _ => rfl⟩

/-- Writing an entry changes its mailbox, DEV_IRQ_STATUS, the announced reset and the outputs. -/
theorem State.writeEntry_eq (n : Nat) (k : Completion) (v : State) :
    ∃ q b m e, State.writeEntry n k v = { v with gaf := { v.gaf with irqStatus := q, bootAt := b }, mbx := m, emitted := e } ∧
      (k.boot = false → b = v.gaf.bootAt) ∧ (∀ j, j ≠ n → m.get { } j = v.mb j) := by
  unfold State.writeEntry
  dsimp only
  obtain ⟨b, hb, hk⟩ := State.announceReset_eq k (State.setMb n { v.mb n with
    ring := (v.mb n).ring.put ((v.mb n).prod.toNat % 64) (k.stamp v.nowNs), prod := (v.mb n).prod + 1 } v)
  rw [hb]
  split
  · obtain ⟨q, o, hq⟩ := State.setIrq_eq n { State.setMb n { v.mb n with
      ring := (v.mb n).ring.put ((v.mb n).prod.toNat % 64) (k.stamp v.nowNs), prod := (v.mb n).prod + 1 } v with
      gaf := { v.gaf with bootAt := b } }
    refine ⟨q, b, _, o, hq.trans rfl, hk, fun j hj => ?_⟩
    exact Table.get_put_of_ne _ _ _ _ _ hj
  · exact ⟨_, b, _, _, rfl, hk, fun j hj => Table.get_put_of_ne _ _ _ _ _ hj⟩

/-- A bit that is set reads 1. -/
theorem State.setIrq_bit (n : Nat) (hn : n < 18) (s : State) : (s.setIrq n).gaf.irqStatus.getLsbD n = true := by
  unfold State.setIrq
  split
  · assumption
  · have : (s.gaf.irqStatus ||| BitVec.ofNat 18 (2 ^ n)).getLsbD n = true := by
      rw [BitVec.getLsbD_or, BitVec.getLsbD_ofNat, Nat.testBit_two_pow_self]
      simp [hn]
    dsimp only
    split
    · exact this
    · exact this

/-- Closing a command clears no bit of DEV_IRQ_STATUS. -/
theorem State.closed_irq (s0 s : State) (n : Nat) (h : s.gaf.irqStatus.getLsbD n = true) :
    (s0.closed s).gaf.irqStatus.getLsbD n = true := by
  unfold State.closed
  obtain ⟨v, hv, -⟩ := State.flush_eq s
  rw [hv]
  unfold State.keepFixed State.noteStatus
  split
  · exact h
  · unfold State.setIrq
    have k : (s.gaf.irqStatus ||| BitVec.ofNat 18 (2 ^ 17)).getLsbD n = true := by rw [BitVec.getLsbD_or, h]; rfl
    split
    · exact h
    · dsimp only
      split
      · exact k
      · exact k

@[simp] theorem State.setIrq_mbx (n : Nat) (s : State) : (s.setIrq n).mbx = s.mbx := by
  obtain ⟨q, o, h⟩ := State.setIrq_eq n s
  rw [h]

@[simp] theorem State.announceReset_mbx (k : Completion) (s : State) : (State.announceReset k s).mbx = s.mbx := by
  obtain ⟨b, h, -⟩ := State.announceReset_eq k s
  rw [h]

/-- An entry stands in its place before PROD moves on (R56). -/
theorem State.writeEntry_mb (n : Nat) (k : Completion) (v : State) :
    (State.writeEntry n k v).mb n = { v.mb n with
      ring := (v.mb n).ring.put ((v.mb n).prod.toNat % 64) (k.stamp v.nowNs), prod := (v.mb n).prod + 1 } := by
  unfold State.writeEntry State.mb
  dsimp only
  split
  · rw [State.setIrq_mbx, State.announceReset_mbx]
    exact Table.get_put_self _ _ _ _
  · rw [State.announceReset_mbx]
    exact Table.get_put_self _ _ _ _

/-- Operations that have started and wait for nothing of the Gaffer's stay as they are. -/
theorem State.pump_started (s : State) (h : ∀ o ∈ s.gaf.ops, o.started = true ∧ o.wait ≠ .turn) : s.pump = s := by
  have one : ∀ n, State.tryOp s n = s := by
    intro n
    unfold State.tryOp
    split
    · rfl
    · rename_i o ho
      have hm := h o (List.mem_of_find?_eq_some ho)
      have : s.canStart o = false := by
        unfold State.canStart
        simp [hm.1, hm.2]
      rw [this]; rfl
  unfold State.pump
  split
  · generalize s.gaf.ops.map (·.seq) = l
    induction l with
    | nil => rfl
    | cons x l ih => rw [List.foldl_cons, one, ih]
  · rfl

/-- Handing a completion to its path changes the same. -/
theorem State.sendEntry_eq (o : Op) (k : Completion) (v : State) :
    ∃ q b m e, State.sendEntry o k v = { v with gaf := { v.gaf with irqStatus := q, bootAt := b }, mbx := m, emitted := e } ∧
      (k.boot = false → b = v.gaf.bootAt) ∧ (∀ n, n ≠ o.h.mb.val → m.get { } n = v.mb n) := by
  unfold State.sendEntry
  dsimp only
  split
  · obtain ⟨b, hb, hk⟩ := State.announceReset_eq (k.stamp v.nowNs) (State.setMb o.h.mb.val { v.mb o.h.mb.val with
      kept := ({ k.stamp v.nowNs with boot := false } :: (v.mb o.h.mb.val).kept).take 256 } v)
    rw [hb]
    exact ⟨_, b, _, _, rfl, hk, fun j hj => Table.get_put_of_ne _ _ _ _ _ hj⟩
  · split
    · exact ⟨_, _, _, _, rfl, fun _ => rfl, fun j hj => Table.get_put_of_ne _ _ _ _ _ hj⟩
    · exact State.writeEntry_eq _ _ _

/-- A command that comes alone becomes the one operation in flight. -/
theorem State.accept_alone (h : CmdHead) (c : HostCmd) (s : State) (a : s.comesAlone h c = true) :
    State.accept { s with part := { s.part with pcieUp := s.part.pcieUp || h.path == .pcie } }
      { h, cmd := c, moeSrc := s.moeSources.headD 0 } = s.begun h c := by
  have tag := State.tagInFlight_alone h c s a
  simp only [State.comesAlone, Bool.and_eq_true, List.isEmpty_iff, Bool.or_eq_true, Bool.not_eq_true'] at a
  obtain ⟨⟨⟨-, ops⟩, -⟩, kept⟩ := a
  unfold State.accept
  generalize pu : (s.part.pcieUp || h.path == Path.pcie) = p
  have tag' : State.tagInFlight { s with part := { s.part with pcieUp := p } } h.tag = false := tag h.tag
  have kept' : (if (h.path == Path.moe) = true then State.keptOf { h := h, cmd := c, moeSrc := s.moeSources.headD 0 }
      { s with part := { s.part with pcieUp := p } } else none) = none := by
    split
    · rename_i m
      rcases kept with k | k
      · simp only [beq_iff_eq] at m k
        rw [m] at k
        cases k
      · unfold State.keptOf
        rw [List.find?_eq_none]
        intro x hx
        have := List.any_eq_false.mp k x hx
        exact this
    · rfl
  simp only [tag', kept', ops, List.any_nil, Bool.and_false, if_false, Bool.false_eq_true, State.modGaf, List.nil_append]
  unfold State.begun
  rw [pu]
  rfl

/-- A command that comes alone is carried out at once. -/
theorem State.hostRow_alone (h : CmdHead) (c : HostCmd) (s : State) (a : s.comesAlone h c = true) :
    s.hostRow h c = ((((s.begun h c).command (s.opFor h c)).1).applyReply s.gaf.opSeq ((s.begun h c).command (s.opFor h c)).2).netOut := by
  have hheld := State.held_alone h c s a h.mb.val
  have acc := State.accept_alone h c s a
  have a' := a
  simp only [State.comesAlone, Bool.and_eq_true, List.isEmpty_iff] at a'
  obtain ⟨⟨⟨reach, ops⟩, -⟩, -⟩ := a'
  have up : s.gafferUp = true := by
    simp only [State.reachable, Bool.and_eq_true] at reach
    exact reach.1
  have pump : (s.begun h c).pump = (((s.begun h c).command (s.opFor h c)).1).applyReply s.gaf.opSeq ((s.begun h c).command (s.opFor h c)).2 := by
    refine State.pump_one _ (s.opFor h c) up rfl ?_
    have hm : ((s.begun h c).mb h.mb.val).held = [] := hheld
    simp [State.canStart, State.begun, State.opFor, State.mb] at hm ⊢
    simp [hm]
  unfold State.hostRow
  rw [if_pos reach, ← pump, ← acc]
  cases e : h.path
  · have up' : (s.part.pcieUp || Path.pcie == Path.pcie) = true := by simp
    rw [up']
    rfl
  · have up' : (s.part.pcieUp || Path.moe == Path.pcie) = s.part.pcieUp := by simp
    rw [up']
    rfl

/-- Its completion is handed on where it is decided at once. -/
theorem State.applyReply_done (o : Op) (r : Result) (detail : Nat) (data extra : Bytes) (hb : Bool) (v : State)
    (ops : v.gaf.ops = [o]) (out : o.outcome = none) : v.applyReply o.seq (.done r detail data hb extra) = v.finished o r detail data hb extra := by
  unfold State.applyReply State.finishOp State.settle
  simp only [ops, List.map_cons, List.map_nil, beq_self_eq_true, out, Option.isNone_none, Bool.and_self, if_true, List.length_cons,
    List.length_nil, Nat.zero_add]
  unfold State.settleN State.settleN
  simp only [settleOne, List.any_nil, if_false, Bool.false_eq_true, List.append_nil]
  rfl

/-- It stays in flight where it waits. -/
theorem State.applyReply_wait (o : Op) (w : Wait) (v : State) (ops : v.gaf.ops = [o]) :
    v.applyReply o.seq (.wait w) = v.waiting o w := by
  unfold State.applyReply State.waiting
  simp [ops]

/-- A command that comes alone and passes is carried out. -/
theorem State.command_passes (h : CmdHead) (c : HostCmd) (s : State) (p : s.passes h c = true) :
    (s.begun h c).command (s.opFor h c) = (s.begun h c).withHost (s.opFor h c) := by
  simp only [State.passes, Bool.and_eq_true, Option.isNone_iff_eq_none, beq_iff_eq] at p
  obtain ⟨⟨⟨⟨⟨len, known⟩, flags⟩, rsv⟩, feat⟩, mode⟩ := p
  unfold State.command
  simp only [State.opFor] at *
  cases c <;> simp_all [firstBad]

/-- A command taken alone whose completion is decided at once. -/
theorem State.hostRow_done (h : CmdHead) (c : HostCmd) (s v : State) (r : Result) (detail : Nat) (data extra : Bytes) (hb : Bool)
    (t : s.takes h c = true) (out : (s.begun h c).carryOut (s.opFor h c) = (v, .done r detail data hb extra))
    (ops : v.gaf.ops = [s.opFor h c]) : s.hostRow h c = (v.finished (s.opFor h c) r detail data hb extra).netOut := by
  simp only [State.takes, Bool.and_eq_true] at t
  have w : (s.begun h c).withHost (s.opFor h c) = (v, .done r detail data hb extra) := by
    unfold State.withHost
    rw [out]
    cases c <;> rfl
  rw [State.hostRow_alone h c s t.1, State.command_passes h c s t.2, w]
  exact congrArg State.netOut (State.applyReply_done (s.opFor h c) r detail data extra hb v ops rfl)

/-- A command taken alone that waits. -/
theorem State.hostRow_wait (h : CmdHead) (c : HostCmd) (s v : State) (w : Wait) (t : s.takes h c = true)
    (out : (s.begun h c).carryOut (s.opFor h c) = (v, .wait w)) (flash : w ≠ .flash) (ops : v.gaf.ops = [s.opFor h c]) :
    s.hostRow h c = (v.waiting (s.opFor h c) w).netOut := by
  simp only [State.takes, Bool.and_eq_true] at t
  have e : (s.begun h c).withHost (s.opFor h c) = (v, .wait w) := by
    unfold State.withHost
    rw [out]
    cases c <;> cases w <;> first | rfl | exact absurd rfl flash
  rw [State.hostRow_alone h c s t.1, State.command_passes h c s t.2, e]
  exact congrArg State.netOut (State.applyReply_wait (s.opFor h c) w v ops)

/-- A FW_UPDATE taken alone that waits for the flash: its bytes, if it reads any, were delivered. -/
theorem State.hostRow_flash (h : CmdHead) (op : Byte) (rsv : BitVec 24) (off : U32) (b : BufDesc) (img : Bytes) (s v : State)
    (t : s.takes h (.fwUpdate op rsv off b img) = true)
    (out : (s.begun h (.fwUpdate op rsv off b img)).carryOut (s.opFor h (.fwUpdate op rsv off b img)) = (v, .wait .flash))
    (met : op = 1 → b.kind = 1 → (s.begun h (.fwUpdate op rsv off b img)).hostMeets b = .answers)
    (ops : v.gaf.ops = [s.opFor h (.fwUpdate op rsv off b img)]) :
    s.hostRow h (.fwUpdate op rsv off b img) = (v.waiting (s.opFor h (.fwUpdate op rsv off b img)) .flash).netOut := by
  simp only [State.takes, Bool.and_eq_true] at t
  have e : (s.begun h (.fwUpdate op rsv off b img)).withHost (s.opFor h (.fwUpdate op rsv off b img)) = (v, .wait .flash) := by
    unfold State.withHost
    rw [out]
    simp only [State.opFor, Bool.and_eq_true, decide_eq_true_eq]
    split
    · rename_i q
      rw [met q.1 q.2]
    · rfl
  rw [State.hostRow_alone h _ s t.1, State.command_passes h _ s t.2, e]
  exact congrArg State.netOut (State.applyReply_wait _ _ v ops)

/-- A host command taken alone whose completion is decided at once, as an outcome. -/
theorem State.goOn_ends (dt : Nat) (h : CmdHead) (c : HostCmd) (s : State) (r : Result) (detail : Nat) (data extra : Bytes) (hb : Bool)
    (f : State → State) (t : (s.arrived dt).takes h c = true)
    (out : ((s.arrived dt).begun h c).carryOut ((s.arrived dt).opFor h c) = (f ((s.arrived dt).begun h c), .done r detail data hb extra))
    (ops : (f ((s.arrived dt).begun h c)).gaf.ops = [(s.arrived dt).opFor h c]) :
    goOn dt (State.hostRow h c) s = .next (s.endsAs dt h c r detail data hb extra f) := by
  unfold goOn State.run State.endsAs
  rw [State.hostRow_done h c (s.arrived dt) _ r detail data extra hb t out ops]

/-- A host command taken alone that waits, as an outcome. -/
theorem State.goOn_waits (dt : Nat) (h : CmdHead) (c : HostCmd) (s : State) (w : Wait)
    (f : State → State) (t : (s.arrived dt).takes h c = true)
    (out : ((s.arrived dt).begun h c).carryOut ((s.arrived dt).opFor h c) = (f ((s.arrived dt).begun h c), .wait w)) (flash : w ≠ .flash)
    (ops : (f ((s.arrived dt).begun h c)).gaf.ops = [(s.arrived dt).opFor h c]) :
    goOn dt (State.hostRow h c) s = .next (s.startsWait dt h c w f) := by
  unfold goOn State.run State.startsWait
  rw [State.hostRow_wait h c (s.arrived dt) _ w t out flash ops]

/-- A host command taken alone with any answer but a wait for the flash, as an outcome. -/
theorem State.goOn_reply (dt : Nat) (h : CmdHead) (c : HostCmd) (s : State) (x : State × Reply) (t : (s.arrived dt).takes h c = true)
    (out : ((s.arrived dt).begun h c).carryOut ((s.arrived dt).opFor h c) = x) (flash : x.2 ≠ .wait .flash)
    (ops : x.1.gaf.ops = [(s.arrived dt).opFor h c]) : goOn dt (State.hostRow h c) s = .next (s.endsReply dt h c x) := by
  obtain ⟨v, r⟩ := x
  cases r with
  | done r d data hb ex => exact State.goOn_ends dt h c s r d data ex hb (fun _ => v) t out ops
  | wait w =>
    refine State.goOn_waits dt h c s w (fun _ => v) t out ?_ ops
    intro e
    exact flash (by rw [e])

/-- A returned buffer changes host memory and the counter of free values alone, and never waits for the flash. -/
theorem State.deliver_eq (b : BufDesc) (data inl : Bytes) (s : State) :
    ∃ m n, (s.deliver b data inl).1 = { s with hostMem := m, free := n } ∧ (s.deliver b data inl).2 ≠ .wait .flash := by
  unfold State.deliver
  dsimp only
  split
  · split
    · exact ⟨_, _, rfl, by simp⟩
    · split
      · exact ⟨_, _, rfl, by simp⟩
      · exact ⟨_, _, rfl, by simp⟩
      · unfold spoilBuf
        split
        · exact ⟨_, _, rfl, by simp⟩
        · exact ⟨_, _, rfl, by simp⟩
  · exact ⟨_, _, rfl, by simp⟩

/-- After an answer nothing is in flight. -/
theorem State.finished_idle (o : Op) (r : Result) (d : Nat) (data : Bytes) (v : State) : (v.finished o r d data false []).gaf.ops = [] := by
  unfold State.finished
  obtain ⟨q, b, m, e, w, -⟩ := State.sendEntry_eq o
    { mkCompletion o.h o.cmd.opcode r d data (if false then 2 else 0) [] with boot := o.cmd.boots && r == .ok }
    { v with gaf := { v.gaf with ops := [] } }
  simp only [if_false, Bool.false_eq_true] at w ⊢
  rw [w]

/-- The one operation in flight ends. -/
theorem State.finishOp_one (o : Op) (r : Result) (d : Nat) (data : Bytes) (v : State) (ops : v.gaf.ops = [o]) (out : o.outcome = none) :
    v.finishOp o.seq r d data = v.finished o r d data false [] := State.applyReply_done o r d data [] false v ops out

/-- The one operation in flight ends where it is one of those that a unit has waited for. -/
theorem State.finishWaiting_one (o : Op) (p : Op → Bool) (f : Op → Result × Nat × Bytes) (v : State) (ops : v.gaf.ops = [o])
    (st : o.started = true) (out : o.outcome = none) (hp : p o = true) :
    v.finishWaiting p f = v.finished o (f o).1 (f o).2.1 (f o).2.2 false [] := by
  unfold State.finishWaiting
  simp only [ops, st, out, hp, List.filter_cons, Option.isNone_none, Bool.and_self, if_true, List.filter_nil, List.foldl_cons, List.foldl_nil]
  exact State.finishOp_one o _ _ _ v ops out

/-- With one operation in flight that has started and waits for a unit, what follows a command is what it drove out. -/
theorem State.settleOut_started (o : Op) (v : State) (ops : v.gaf.ops = [o]) (st : o.started = true) (wt : o.wait ≠ .turn) :
    v.settleOut = v.netOut := by
  unfold State.settleOut
  rw [State.pump_started v (by rw [ops]; intro x hx; rw [List.mem_singleton] at hx; rw [hx]; exact ⟨st, wt⟩)]

end Sys2Proof.Machine
end

