-- ==== Sys2Proof/Laws/Mem.lean ====
section
/-!
SUPPORT. Laws of sparse memories: a byte reads as it was written, a write leaves every other byte, and every operation keeps the
canonical form.
-/
namespace Sys2Proof

variable (d x : Byte) (m : Mem) (a b lo : Nat)

/-- In a canonical memory nothing lies below its bound. -/
theorem Mem.read_below (h : Mem.wfFrom d lo m = true) (hb : b < lo) : Mem.read d m b = d := by
  cases m with
  | nil => rfl
  | cons c r =>
    obtain ⟨j, v⟩ := c
    simp only [Mem.wfFrom, Bool.and_eq_true, decide_eq_true_eq] at h
    simp [Mem.read, show j ≠ b by omega, show b < j by omega]

/-- Lowering the bound keeps the form. -/
theorem Mem.wfFrom_mono (h : Mem.wfFrom d lo m = true) (hb : b ≤ lo) : Mem.wfFrom d b m = true := by
  cases m with
  | nil => rfl
  | cons c r =>
    obtain ⟨j, v⟩ := c
    simp only [Mem.wfFrom, Bool.and_eq_true, decide_eq_true_eq] at h ⊢
    exact ⟨⟨by omega, h.1.2⟩, h.2⟩

/-- A write at or above the bound keeps the form. -/
theorem Mem.wfFrom_write (h : Mem.wfFrom d lo m = true) (ha : lo ≤ a) : Mem.wfFrom d lo (Mem.write d m a x) = true := by
  induction m generalizing lo with
  | nil =>
    simp only [Mem.write]
    split
    · rfl
    · simp [Mem.wfFrom, ha, bne_iff_ne, ‹¬x = d›]
  | cons c r ih =>
    obtain ⟨j, v⟩ := c
    have h' := h
    simp only [Mem.wfFrom, Bool.and_eq_true, decide_eq_true_eq] at h
    simp only [Mem.write]
    split
    · split
      · exact h'
      · simp only [Mem.wfFrom, Bool.and_eq_true, decide_eq_true_eq, bne_iff_ne]
        exact ⟨⟨ha, ‹_›⟩, ⟨by omega, bne_iff_ne.mp h.1.2⟩, h.2⟩
    · split
      · subst_vars
        split
        · exact Mem.wfFrom_mono d r lo (j + 1) h.2 (by omega)
        · simp only [Mem.wfFrom, Bool.and_eq_true, decide_eq_true_eq, bne_iff_ne]
          exact ⟨⟨ha, ‹_›⟩, h.2⟩
      · simp only [Mem.wfFrom, Bool.and_eq_true, decide_eq_true_eq]
        exact ⟨h.1, ih (j + 1) h.2 (by omega)⟩

/-- A write keeps the canonical form. -/
theorem Mem.wf_write (h : Mem.wf d m = true) : Mem.wf d (Mem.write d m a x) = true :=
  Mem.wfFrom_write d x m a 0 h (Nat.zero_le _)

/-- Writing a string keeps the canonical form. -/
theorem Mem.wf_writeBytes (bs : Bytes) (h : Mem.wf d m = true) : Mem.wf d (Mem.writeBytes d m a bs) = true := by
  induction bs generalizing m a with
  | nil => exact h
  | cons y ys ih => exact ih _ _ (Mem.wf_write d y m a h)

/-- Filtering keeps the canonical form. -/
theorem Mem.wfFrom_filter (p : Nat × BitVec 8 → Bool) (h : Mem.wfFrom d lo m = true) : Mem.wfFrom d lo (m.filter p) = true := by
  induction m generalizing lo with
  | nil => rfl
  | cons c r ih =>
    obtain ⟨j, v⟩ := c
    simp only [Mem.wfFrom, Bool.and_eq_true, decide_eq_true_eq] at h
    simp only [List.filter_cons]
    split
    · simp only [Mem.wfFrom, Bool.and_eq_true, decide_eq_true_eq]
      exact ⟨h.1, ih _ h.2⟩
    · exact Mem.wfFrom_mono d _ lo (j + 1) (ih _ h.2) (by omega)

/-- Erasing keeps the canonical form. -/
theorem Mem.wf_eraseRange (n : Nat) (h : Mem.wf d m = true) : Mem.wf d (Mem.eraseRange m a n) = true :=
  Mem.wfFrom_filter d m 0 _ h

/-- A byte reads as it was written. -/
theorem Mem.read_write_self (h : Mem.wfFrom d lo m = true) : Mem.read d (Mem.write d m a x) a = x := by
  induction m generalizing lo with
  | nil =>
    simp only [Mem.write]
    split <;> simp_all [Mem.read]
  | cons c r ih =>
    obtain ⟨j, v⟩ := c
    simp only [Mem.wfFrom, Bool.and_eq_true, decide_eq_true_eq] at h
    simp only [Mem.write]
    split
    · split
      · subst_vars; simp [Mem.read, show j ≠ a by omega, ‹a < j›]
      · simp [Mem.read]
    · split
      · subst_vars
        split
        · subst_vars; exact Mem.read_below _ r j (j + 1) h.2 (by omega)
        · simp [Mem.read]
      · simp [Mem.read, show j ≠ a by omega, show ¬a < j by omega, ih (j + 1) h.2]

/-- A write leaves every other byte. -/
theorem Mem.read_write_of_ne (h : Mem.wfFrom d lo m = true) (hb : b ≠ a) : Mem.read d (Mem.write d m a x) b = Mem.read d m b := by
  induction m generalizing lo with
  | nil =>
    simp only [Mem.write]
    split
    · rfl
    · simp [Mem.read, hb.symm]
  | cons c r ih =>
    obtain ⟨j, v⟩ := c
    simp only [Mem.wfFrom, Bool.and_eq_true, decide_eq_true_eq] at h
    simp only [Mem.write]
    split
    · split
      · rfl
      · simp only [Mem.read, hb.symm, if_false]
        split
        · simp [show j ≠ b by omega, show b < j by omega]
        · rfl
    · split
      · have hj : j ≠ b := by omega
        split
        · rw [Mem.read]
          simp only [hj, if_false]
          split
          · exact Mem.read_below d r b (j + 1) h.2 (by omega)
          · rfl
        · simp [Mem.read, hj, ‹a = j›]
      · simp only [Mem.read]
        split
        · rfl
        · split
          · rfl
          · exact ih (j + 1) h.2

/-- Writing a string below an address leaves the byte there, and so does writing it above. -/
theorem Mem.read_writeBytes_outside (bs : Bytes) (h : Mem.wf d m = true) (hb : b < a ∨ a + bs.length ≤ b) :
    Mem.read d (Mem.writeBytes d m a bs) b = Mem.read d m b := by
  induction bs generalizing m a with
  | nil => rfl
  | cons y ys ih =>
    simp only [List.length_cons] at hb
    rw [Mem.writeBytes, ih _ _ (Mem.wf_write d y m a h) (by omega), Mem.read_write_of_ne d y m a b 0 h (by omega)]

/-- A written string reads back byte by byte. -/
theorem Mem.read_writeBytes_inside (bs : Bytes) (i : Nat) (h : Mem.wf d m = true) (hi : i < bs.length) :
    Mem.read d (Mem.writeBytes d m a bs) (a + i) = bs.getD i 0 := by
  induction bs generalizing m a i with
  | nil => simp at hi
  | cons y ys ih =>
    rw [Mem.writeBytes]
    cases i with
    | zero =>
      show Mem.read d (Mem.writeBytes d (Mem.write d m a y) (a + 1) ys) a = y
      rw [Mem.read_writeBytes_outside d _ (a + 1) a ys (Mem.wf_write d y m a h) (by omega), Mem.read_write_self d y m a 0 h]
    | succ i =>
      rw [show a + (i + 1) = a + 1 + i by omega, ih _ _ _ (Mem.wf_write d y m a h) (by simpa using hi)]
      rfl

end Sys2Proof
end

