-- ==== Sys2Proof/Laws/Registers.lean ====
section
/-!
SUPPORT. What the operations of BAR0 do: the bytes of a stored number, and how many held completions a moved CONS lets into the ring.
-/
namespace Sys2Proof.Machine

@[simp] theorem leBytes_length (w n : Nat) : (leBytes w n).length = w := by
  induction w generalizing n with
  | zero => rfl
  | succ w ih => simp [leBytes, ih]

/-- Byte `i` of a number stored little-endian. -/
theorem leBytes_getD (w n i : Nat) (h : i < w) : (leBytes w n).getD i 0 = BitVec.ofNat 8 (n / 256 ^ i) := by
  induction w generalizing n i with
  | zero => omega
  | succ w ih =>
    cases i with
    | zero => simp [leBytes]
    | succ i =>
      have := ih (n / 256) i (by omega)
      simp only [leBytes, List.getD_cons_succ, this]
      rw [Nat.div_div_eq_div_mul, Nat.pow_succ, Nat.mul_comm]

/-- A string is stored where it is written, and nowhere else. -/
theorem Mem.read_writeBytes (d : BitVec 8) (m : Mem) (a b : Nat) (bs : Bytes) (h : Mem.wf d m = true) :
    Mem.read d (Mem.writeBytes d m a bs) b = if a ≤ b ∧ b < a + bs.length then bs.getD (b - a) 0 else Mem.read d m b := by
  split
  · obtain ⟨i, rfl⟩ := Nat.exists_eq_add_of_le (by omega : a ≤ b)
    rw [Mem.read_writeBytes_inside _ _ _ _ _ h (by omega)]
    simp
  · exact Mem.read_writeBytes_outside _ _ _ _ _ h (by omega)

@[simp] theorem State.setMb_mb (n : Nat) (m : Mailbox) (s : State) (k : Nat) : (s.setMb n m).mb k = if k = n then m else s.mb k := by
  unfold State.setMb State.mb
  exact Table.get_put _ _ _ _ _

theorem State.writeEntry_ops (n : Nat) (c : Completion) (s : State) : (State.writeEntry n c s).gaf.ops = s.gaf.ops := by
  obtain ⟨q, b, m, e, h, -⟩ := State.writeEntry_eq n c s
  rw [h]

/-- Held completions are written in order while the ring has room (R57). -/
theorem State.writeHeld_spec (n : Nat) (cs : List Completion) (s : State) :
    let t := State.writeHeld n cs s
    let room := 64 - ((s.mb n).prod - (s.mb n).cons).toNat
    t.gaf.ops = s.gaf.ops ∧ (∀ k, k ≠ n → t.mb k = s.mb k) ∧ (t.mb n).cons = (s.mb n).cons ∧
    (t.mb n).prod = (s.mb n).prod + BitVec.ofNat 32 (min room cs.length) ∧ (t.mb n).held = cs.drop room := by
  induction cs generalizing s with
  | nil =>
    refine ⟨rfl, fun k hk => ?_, ?_, ?_, ?_⟩ <;> simp [State.writeHeld]
    simp [hk]
  | cons c cs ih =>
    unfold State.writeHeld
    dsimp only
    split
    · rename_i hf
      have hr : 64 - ((s.mb n).prod - (s.mb n).cons).toNat = 0 := by
        simp only [Mailbox.full, ge_iff_le, decide_eq_true_eq] at hf
        omega
      rw [hr]
      refine ⟨rfl, fun k hk => ?_, ?_, ?_, ?_⟩ <;> simp
      simp [hk]
    · rename_i hf
      simp only [Mailbox.full, ge_iff_le, decide_eq_true_eq, not_le] at hf
      have wm := State.writeEntry_mb n c s
      obtain ⟨q, b, m, e, h, -, hm⟩ := State.writeEntry_eq n c s
      obtain ⟨i1, i2, i3, i4, i5⟩ := ih (State.writeEntry n c s)
      have room : 64 - (((s.mb n).prod + 1) - (s.mb n).cons).toNat + 1 = 64 - ((s.mb n).prod - (s.mb n).cons).toNat := by
        have : (((s.mb n).prod + 1) - (s.mb n).cons).toNat = ((s.mb n).prod - (s.mb n).cons).toNat + 1 := by
          bv_omega
        omega
      rw [wm] at i3 i4 i5
      dsimp only at i3 i4 i5
      refine ⟨i1.trans (State.writeEntry_ops n c s), fun k hk => (i2 k hk).trans ?_, i3, ?_, ?_⟩
      · rw [h]; exact hm k hk
      · rw [i4, ← room, List.length_cons]
        rw [show min (64 - (((s.mb n).prod + 1) - (s.mb n).cons).toNat + 1) (cs.length + 1) =
          min (64 - (((s.mb n).prod + 1) - (s.mb n).cons).toNat) cs.length + 1 by omega]
        rw [BitVec.ofNat_add, BitVec.add_assoc]
        congr 1
        rw [BitVec.add_comm]
        rfl
      · rw [i5, ← room]
        rfl

end Sys2Proof.Machine
end

