-- ==== Sys2Proof/Laws/Batch.lean ====
section
/-!
SUPPORT. What taking in a batch does: commands with free tags become operations in their order (R47, R48, R53).
-/
namespace Sys2Proof.Machine

theorem Table.any_put {α : Type} (q : α → Bool) (t : Table α) (k : Nat) (v : α) (hv : q v = false)
    (ht : (t.any fun x => q x.2) = false) : ((Table.put t k v).any fun x => q x.2) = false := by
  induction t with
  | nil => simp [Table.put, hv]
  | cons e r ih =>
    obtain ⟨i, w⟩ := e
    simp only [List.any_cons, Bool.or_eq_false_iff] at ht
    simp only [Table.put]
    split
    · simp [hv, ht.1]
      simpa using ht.2
    · split
      · simp [hv]
        simpa using ht.2
      · simp only [List.any_cons, Bool.or_eq_false_iff]
        exact ⟨ht.1, ih ht.2⟩

theorem Table.any_get {α : Type} (q : α → Bool) (d : α) (t : Table α) (k : Nat) (hd : q d = false)
    (ht : (t.any fun x => q x.2) = false) : q (Table.get d t k) = false := by
  induction t with
  | nil => simpa [Table.get] using hd
  | cons e r ih =>
    obtain ⟨i, w⟩ := e
    simp only [List.any_cons, Bool.or_eq_false_iff] at ht
    simp only [Table.get]
    split
    · exact ht.1
    · exact ih ht.2

/-- A command with a free tag becomes an operation. -/
theorem State.accept_fresh (s : State) (i : Incoming) (cut : i.cut = none) (tag : s.tagInFlight i.h.tag = false)
    (kept : i.h.path = .moe → s.keptOf i = none) : ∃ o q, State.accept s i = s.modGaf (fun g => { g with ops := g.ops ++ [o], opSeq := q }) ∧
      o.h = i.h ∧ o.cmd = i.cmd := by
  unfold State.accept
  have k : (if (i.h.path == Path.moe) = true then s.keptOf i else none) = none := by
    split
    · rename_i hh
      exact kept (eq_of_beq hh)
    · rfl
  have o : (s.gaf.ops.any fun o => o.h.tag == i.h.tag && o.cmd.opcode == i.cmd.opcode) = false := by
    unfold State.tagInFlight at tag
    simp only [Bool.or_eq_false_iff, List.any_eq_false] at tag ⊢
    intro o ho
    have := tag.1 o ho
    simp [this]
  dsimp only
  rw [cut, tag, k, o]
  simp only [Bool.and_false, Bool.false_eq_true, if_false]
  exact ⟨_, _, rfl, rfl, rfl⟩

/-- A batch of commands with free tags becomes operations, in order. -/
theorem State.accept_batch (is_ : List Incoming) (s : State) (fr : s.fresh is_) :
    ∃ l q, is_.foldl State.accept s = s.modGaf (fun g => { g with ops := g.ops ++ l, opSeq := q }) ∧ opsFor l is_ := by
  induction is_ generalizing s with
  | nil => exact ⟨[], s.gaf.opSeq, by simp [State.modGaf], rfl⟩
  | cons i is_ ih =>
    obtain ⟨h, nd⟩ := fr
    simp only [List.map_cons, List.nodup_cons] at nd
    obtain ⟨c, t, k⟩ := h i (by simp)
    obtain ⟨o, q, e, oh, oc⟩ := State.accept_fresh s i c t k
    obtain ⟨l, q', e', ol⟩ := ih (State.accept s i) ⟨fun j hj => by
      obtain ⟨c', t', k'⟩ := h j (by simp [hj])
      refine ⟨c', ?_, fun m => ?_⟩
      · rw [e]
        unfold State.tagInFlight State.modGaf at *
        simp only [Bool.or_eq_false_iff] at t' ⊢
        refine ⟨?_, t'.2⟩
        rw [List.any_append, t'.1]
        have ne : ¬ i.h.tag = j.h.tag := fun x => nd.1 (x ▸ List.mem_map_of_mem hj)
        simp [oh, ne]
      · rw [e]
        exact k' m, nd.2⟩
    refine ⟨o :: l, q', ?_, ?_⟩
    · rw [List.foldl_cons, e', e]
      simp [State.modGaf]
    · unfold opsFor at *
      simp [oh, oc, ol]

theorem parseBatch_path (mb : Fin 16) (p : Path) (q : U32) (src : BitVec 128) (b : Bytes) (fuel off : Nat) :
    ∀ i ∈ parseBatch mb p q src b fuel off, i.h.path = p := by
  induction fuel generalizing off with
  | zero => simp [parseBatch]
  | succ n ih =>
    unfold parseBatch
    split
    · simp
    · dsimp only
      split
      · simp
      · intro i hi
        rcases List.mem_cons.mp hi with rfl | hi
        · rfl
        · exact ih _ i hi

/-- A pass serves the mailboxes it is given in order: every one is idle after it, and the commands become operations in that order. -/
theorem State.serveBoxes (ns : List (Fin 16)) (s : State) (nd : ns.Nodup) (fr : s.fresh (ns.flatMap s.batchOf)) :
    ∃ l q m, ns.foldl State.serveBox s = { s with gaf := { s.gaf with ops := s.gaf.ops ++ l, opSeq := q }, mbx := m } ∧
      opsFor l (ns.flatMap s.batchOf) ∧
      ∀ k, Table.get { } m k = if ∃ n ∈ ns, n.val = k then { s.mb k with busy := false } else s.mb k := by
  induction ns generalizing s with
  | nil => exact ⟨[], s.gaf.opSeq, s.mbx, by simp, rfl, fun k => by simp [State.mb]⟩
  | cons n ns ih =>
    simp only [List.nodup_cons] at nd
    obtain ⟨h, ndt⟩ := fr
    simp only [List.flatMap_cons, List.map_append] at h ndt
    obtain ⟨nd1, nd2, dis⟩ := List.nodup_append.mp ndt
    -- serving the first
    have first : ∃ l q, State.serveBox s n = { s with gaf := { s.gaf with ops := s.gaf.ops ++ l, opSeq := q }, mbx := (State.serveBox s n).mbx } ∧
        opsFor l (s.batchOf n) ∧ (∀ k, (State.serveBox s n).mb k = if k = n.val then { s.mb k with busy := false } else s.mb k) ∧
        (∀ t, (s.mbx.any fun m => m.2.held.any fun c => c.tag == t) = false →
          ((State.serveBox s n).mbx.any fun m => m.2.held.any fun c => c.tag == t) = false) := by
      unfold State.serveBox State.batchOf
      dsimp only
      by_cases hb : (s.mb n.val).busy = true
      · rw [hb]
        simp only [Bool.not_true, Bool.false_eq_true, if_false, if_true]
        have hm : ∀ t, (s.mbx.any fun m => m.2.held.any fun c => c.tag == t) = false →
            ((Table.put s.mbx n.val { s.mb n.val with busy := false }).any fun m => m.2.held.any fun c => c.tag == t) = false := by
          intro t ht
          refine Table.any_put (fun (m : Mailbox) => m.held.any fun c => c.tag == t) _ _ _ ?_ ht
          exact Table.any_get (fun (m : Mailbox) => m.held.any fun c => c.tag == t) _ _ _ (by rfl) ht
        have hbat : s.batchOf n = parseBatch n .pcie 0 0 (Mem.readBytes 0 (s.mb n.val).half 0 (s.mb n.val).bytes) 257 0 := by
          unfold State.batchOf
          dsimp only
          rw [hb]
          rfl
        rw [← hbat]
        obtain ⟨l, q, e, ol⟩ := State.accept_batch (s.batchOf n) (s.setMb n.val { s.mb n.val with busy := false }) ⟨fun i hi => by
            obtain ⟨c, t, -⟩ := h i (by simp [hi])
            refine ⟨c, ?_, fun m => ?_⟩
            · unfold State.tagInFlight State.setMb at *
              simp only [Bool.or_eq_false_iff] at t ⊢
              exact ⟨t.1, hm _ t.2⟩
            · rw [hbat] at hi
              have := parseBatch_path _ _ _ _ _ _ _ i hi
              rw [this] at m
              exact absurd m (by decide), nd1⟩
        refine ⟨l, q, ?_, ol, fun k => ?_, fun t ht => ?_⟩
        · rw [e]; rfl
        · rw [e]
          show (State.setMb _ _ s).mb k = _
          rw [State.setMb_mb]
          split
          · subst_vars; rfl
          · rfl
        · rw [e]; exact hm t ht
      · have hb' : (s.mb n.val).busy = false := by simpa using hb
        rw [hb']
        simp only [Bool.not_false, if_true]
        refine ⟨[], s.gaf.opSeq, by simp, rfl, fun k => ?_, fun t ht => ht⟩
        split
        · subst_vars
          generalize s.mb n.val = m at *
          cases m
          simp_all
        · rfl
    obtain ⟨l, q, e, ol, em, eh⟩ := first
    have bo : ∀ k ∈ ns, (State.serveBox s n).batchOf k = s.batchOf k := by
      intro k hk
      have : k ≠ n := fun x => nd.1 (x ▸ hk)
      unfold State.batchOf
      dsimp only
      rw [em k.val, if_neg (fun x => this (Fin.ext x))]
    have bf : ns.flatMap (State.serveBox s n).batchOf = ns.flatMap s.batchOf := List.flatMap_congr bo
    obtain ⟨l', q', m', e', ol', em'⟩ := ih (State.serveBox s n) nd.2 (by
      rw [bf]
      refine ⟨fun i hi => ?_, nd2⟩
      obtain ⟨c, t, -⟩ := h i (by simp at hi ⊢; exact .inr hi)
      refine ⟨c, ?_, fun m => ?_⟩
      · unfold State.tagInFlight at t ⊢
        simp only [Bool.or_eq_false_iff] at t ⊢
        refine ⟨?_, eh _ t.2⟩
        rw [e]
        rw [List.any_append, t.1, Bool.false_or, List.any_eq_false]
        intro o ho hh
        have hx : (o.h, o.cmd) ∈ l.map (fun o => (o.h, o.cmd)) := List.mem_map_of_mem ho
        rw [ol] at hx
        obtain ⟨j, hj, ej⟩ := List.mem_map.mp hx
        have tj : j.h.tag = i.h.tag := by
          have : j.h = o.h := congrArg Prod.fst ej
          rw [this]; simpa using hh
        exact dis _ (List.mem_map_of_mem hj) _ (List.mem_map_of_mem hi) tj
      · obtain ⟨k, hk, hik⟩ := List.mem_flatMap.mp hi
        unfold State.batchOf at hik
        dsimp only at hik
        split at hik
        · have := parseBatch_path _ _ _ _ _ _ _ i hik
          rw [this] at m
          exact absurd m (by decide)
        · simp at hik)
    refine ⟨l ++ l', q', m', ?_, ?_, fun k => ?_⟩
    · rw [List.foldl_cons, e', e]
      simp
    · unfold opsFor at *
      rw [List.map_append, ol, ol', bf]
      simp
    · rw [em' k, em k]
      by_cases h1 : k = n.val
      · subst h1
        have h2 : ¬ ∃ x ∈ ns, x.val = n.val := by
          rintro ⟨x, hx, e⟩
          exact nd.1 (Fin.ext e ▸ hx)
        simp [h2]
      · have h3 : ¬ n.val = k := fun x => h1 x.symm
        simp [h1, h3]

end Sys2Proof.Machine
end

