-- ==== Sys2Proof/Laws/Field.lean ====
section
/-!
SUPPORT. What the binary outputs can change as they take their commands (R359, R360): the field I/O and the events.
-/
namespace Sys2Proof.Machine

/-- A change of the field I/O and the event system alone. -/
def FieldOnly (s t : State) : Prop := ∃ f e, t = { s with fio := f, ev := e }

theorem FieldOnly.refl (s : State) : FieldOnly s s := ⟨s.fio, s.ev, rfl⟩

theorem FieldOnly.trans {s t u : State} (h : FieldOnly s t) (k : FieldOnly t u) : FieldOnly s u := by
  obtain ⟨f, e, rfl⟩ := h
  obtain ⟨f', e', rfl⟩ := k
  exact ⟨f', e', rfl⟩

theorem State.boClear_fieldOnly (n : Nat) (s : State) : FieldOnly s (s.boClear n) := by
  unfold State.boClear
  dsimp only
  split
  · exact FieldOnly.refl s
  · exact ⟨_, _, rfl⟩

/-- An output takes its command. -/
theorem State.boTake_fieldOnly (s : State) (n : Nat) : FieldOnly s (s.boTake n) := by
  unfold State.boTake
  split
  · exact FieldOnly.refl s
  · dsimp only
    split
    · exact FieldOnly.refl s
    · split
      · refine FieldOnly.trans ?_ (State.boClear_fieldOnly n _)
        exact ⟨_, _, rfl⟩
      · exact ⟨_, _, rfl⟩

/-- Every output takes its command. -/
theorem State.outputs_fieldOnly (s : State) : FieldOnly s s.outputs := by
  unfold State.outputs
  generalize (s.recs 0x90A).map (·.1) = l
  have key : ∀ (l : List Nat) (t : State), FieldOnly t (l.foldl State.boTake t) := by
    intro l
    induction l with
    | nil => exact FieldOnly.refl
    | cons n l ih => exact fun t => (State.boTake_fieldOnly t n).trans (ih _)
  exact key l s

@[simp] theorem State.outputs_gaf (s : State) : s.outputs.gaf = s.gaf := by
  obtain ⟨f, e, h⟩ := State.outputs_fieldOnly s
  rw [h]

@[simp] theorem State.outputs_mbx (s : State) : s.outputs.mbx = s.mbx := by
  obtain ⟨f, e, h⟩ := State.outputs_fieldOnly s
  rw [h]

@[simp] theorem State.outputs_part (s : State) : s.outputs.part = s.part := by
  obtain ⟨f, e, h⟩ := State.outputs_fieldOnly s
  rw [h]

@[simp] theorem State.outputs_cfg (s : State) : s.outputs.cfg = s.cfg := by
  obtain ⟨f, e, h⟩ := State.outputs_fieldOnly s
  rw [h]

end Sys2Proof.Machine
end

