-- ==== Sys2Proof/Laws/Ingest.lean ====
section
/-!
SUPPORT. The stream table: what freezing, the state machine of R126 and an accepted frame change and leave.
-/
namespace Sys2Proof.Machine

/-! ### The stream table -/

theorem State.modStream_stream (n m : Nat) (f : Stream → Stream) (s : State) : (s.modStream n f).stream m = if m = n then f (s.stream n) else s.stream m := by
  unfold State.modStream State.stream; dsimp only; rw [Table.get_put]

theorem State.writeTick_streams (n : Nat) (k : Nat × Nat) (v : Nat × Nat × Bool → Int × Quality) (s : State) :
    (s.writeTick n k v).sv.streams = s.sv.streams ∧ (s.writeTick n k v).time = s.time ∧ (s.writeTick n k v).cfg = s.cfg := by
  unfold State.writeTick
  generalize s.svChans n = l
  induction l generalizing s with
  | nil => exact ⟨rfl, rfl, rfl⟩
  | cons c l ih => exact ⟨(ih _).1.trans rfl, (ih _).2.1.trans rfl, (ih _).2.2.trans rfl⟩

/-- What freezing a tick with all its samples leaves of an entry. -/
def Stream.held (a b : Stream) : Prop :=
  a.state = b.state ∧ a.src = b.src ∧ a.lastArrival = b.lastArrival ∧ a.frames = b.frames
theorem Stream.held_trans {a b c : Stream} (h : a.held b) (k : b.held c) : a.held c :=
  ⟨h.1.trans k.1, h.2.1.trans k.2.1, h.2.2.1.trans k.2.2.1, h.2.2.2.trans k.2.2.2⟩
theorem Stream.held_refl (a : Stream) : a.held a := ⟨rfl, rfl, rfl, rfl⟩
theorem Stream.passAhead_held (r n : Nat) (st : Stream) : (st.passAhead r n).held st := by
  induction n generalizing st with
  | zero => exact Stream.held_refl _
  | succ n ih =>
    unfold Stream.passAhead
    split
    · exact Stream.held_refl _
    · dsimp only
      split
      · exact Stream.held_trans (ih _) ⟨rfl, rfl, rfl, rfl⟩
      · exact Stream.held_refl _
theorem Stream.noteWhole_held (r : Nat) (k : Nat × Nat) (st : Stream) : (st.noteWhole r k).held st := by
  unfold Stream.noteWhole
  split
  · exact ⟨rfl, rfl, rfl, rfl⟩
  · split
    · exact Stream.held_trans (Stream.passAhead_held _ _ _) ⟨rfl, rfl, rfl, rfl⟩
    · exact ⟨rfl, rfl, rfl, rfl⟩
theorem Stream.prune_held (f r : Nat) (st : Stream) : (st.prune f r).held st := by
  unfold Stream.prune
  split <;> exact ⟨rfl, rfl, rfl, rfl⟩
theorem Stream.passAhead_nil (r n : Nat) (st : Stream) (h : st.ahead = []) : st.passAhead r n = st := by
  cases n with
  | zero => rfl
  | succ n =>
    unfold Stream.passAhead
    split
    · rfl
    · dsimp only; rw [h, if_neg (by simp)]

/-- One entry changed as `held` says, the others not. -/
def State.streamHeld (n : Nat) (s t : State) : Prop := (t.stream n).held (s.stream n) ∧ (∀ m, m ≠ n → t.stream m = s.stream m)
theorem State.streamHeld_trans {n : Nat} {s t u : State} (h : State.streamHeld n s t) (k : State.streamHeld n t u) : State.streamHeld n s u :=
  ⟨Stream.held_trans k.1 h.1, fun m hm => (k.2 m hm).trans (h.2 m hm)⟩
theorem State.streamHeld_refl (n : Nat) (s : State) : State.streamHeld n s s := ⟨Stream.held_refl _, fun _ _ => rfl⟩
theorem State.modStream_held (n : Nat) (f : Stream → Stream) (s : State) (h : ∀ x, (f x).held x) : State.streamHeld n s (s.modStream n f) := by
  refine ⟨?_, fun m hm => ?_⟩
  · rw [State.modStream_stream, if_pos rfl]; exact h _
  · rw [State.modStream_stream, if_neg hm]
theorem State.streamHeld_foldl {α : Type} (n : Nat) (f : State → α → State) (h : ∀ s a, State.streamHeld n s (f s a)) (l : List α) (s : State) :
    State.streamHeld n s (l.foldl f s) := by
  induction l generalizing s with
  | nil => exact State.streamHeld_refl _ _
  | cons a l ih => exact State.streamHeld_trans (h s a) (ih _)

theorem State.freezeWhole_held (n : Nat) (b : Bytes) (k : Nat × Nat) (s : State) : State.streamHeld n s (s.freezeWhole n b k) := by
  unfold State.freezeWhole
  dsimp only
  split
  · exact State.streamHeld_refl _ _
  · split
    · exact State.streamHeld_refl _ _
    · rename_i xs _
      have w : ∀ v, State.streamHeld n s (s.writeTick n k v) := by
        intro v
        have e := (State.writeTick_streams n k v s).1
        refine ⟨?_, fun m _ => ?_⟩
        · unfold State.stream; rw [e]; exact Stream.held_refl _
        · unfold State.stream; rw [e]
      exact State.streamHeld_trans (w _) (State.modStream_held n _ _ fun x => Stream.held_trans (Stream.prune_held _ _ _) (Stream.noteWhole_held _ _ _))

theorem State.svAsdu_held (n : Nat) (b : Bytes) (f : SvFrame) (bad : Bool) (s : State) (a : SvAsdu) : State.streamHeld n s (s.svAsdu n b f bad a) := by
  unfold State.svAsdu
  dsimp only
  split
  · exact State.modStream_held n _ _ fun x => ⟨rfl, rfl, rfl, rfl⟩
  · split
    · exact State.modStream_held n _ _ fun x => ⟨rfl, rfl, rfl, rfl⟩
    · exact State.modStream_held n _ _ fun x => ⟨rfl, rfl, rfl, rfl⟩

theorem State.freezeReady_held (n : Nat) (b : Bytes) (s : State) : State.streamHeld n s (s.freezeReady n b) := by
  unfold State.freezeReady
  exact State.streamHeld_foldl n _ (fun s a => State.freezeWhole_held n b _ s) _ s

theorem State.streamLost_sv (n c k : Nat) (s : State) : (s.streamLost n c k).sv = s.sv ∧ (s.streamLost n c k).time = s.time := ⟨rfl, rfl⟩

/-- The state machine of R126 touches its entry alone, and leaves its hits. -/
theorem State.streamFrame_other (n : Nat) (b : Bytes) (c a z : Nat) (s : State) :
    (∀ m, m ≠ n → (s.streamFrame n b c a z).stream m = s.stream m) ∧ ((s.streamFrame n b c a z).stream n).frames = (s.stream n).frames ∧
    (s.streamFrame n b c a z).time = s.time := by
  have md : ∀ (v : State) (f : Stream → Stream), (∀ x, (f x).frames = x.frames) → (∀ m, m ≠ n → (v.modStream n f).stream m = v.stream m) ∧
      ((v.modStream n f).stream n).frames = (v.stream n).frames ∧ (v.modStream n f).time = v.time := by
    intro v f h
    refine ⟨fun m hm => ?_, ?_, rfl⟩
    · rw [State.modStream_stream, if_neg hm]
    · rw [State.modStream_stream, if_pos rfl, h]
  have tr : ∀ (v w x : State), ((∀ m, m ≠ n → w.stream m = v.stream m) ∧ (w.stream n).frames = (v.stream n).frames ∧ w.time = v.time) →
      ((∀ m, m ≠ n → x.stream m = w.stream m) ∧ (x.stream n).frames = (w.stream n).frames ∧ x.time = w.time) →
      (∀ m, m ≠ n → x.stream m = v.stream m) ∧ (x.stream n).frames = (v.stream n).frames ∧ x.time = v.time :=
    fun v w x p q => ⟨fun m hm => (q.1 m hm).trans (p.1 m hm), q.2.1.trans p.2.1, q.2.2.trans p.2.2⟩
  have po : ∀ (v w : State) (i j k : Nat), ((∀ m, m ≠ n → w.stream m = v.stream m) ∧ (w.stream n).frames = (v.stream n).frames ∧ w.time = v.time) →
      (∀ m, m ≠ n → (w.streamLost i j k).stream m = v.stream m) ∧ ((w.streamLost i j k).stream n).frames = (v.stream n).frames ∧ (w.streamLost i j k).time = v.time :=
    fun v w i j k p => p
  unfold State.streamFrame
  dsimp only
  have odd : ∀ p : Bool, (∀ m, m ≠ n → (if p = true then s.modStream n fun st => { st with confRevErr := satAdd 32 st.confRevErr 1 } else s).stream m = s.stream m) ∧
      ((if p = true then s.modStream n fun st => { st with confRevErr := satAdd 32 st.confRevErr 1 } else s).stream n).frames = (s.stream n).frames ∧
      (if p = true then s.modStream n fun st => { st with confRevErr := satAdd 32 st.confRevErr 1 } else s).time = s.time := by
    intro p; cases p
    · exact ⟨fun _ _ => rfl, rfl, rfl⟩
    · rw [if_pos rfl]; exact md _ _ fun _ => rfl
  split
  · exact tr _ _ _ (odd _) (md _ _ fun _ => rfl)
  · exact tr _ _ _ (odd _) (md _ _ fun _ => rfl)
  · exact odd _
  · split
    · exact po _ _ _ _ _ (tr _ _ _ (odd _) (md _ _ fun _ => rfl))
    · split
      · split
        · exact po _ _ _ _ _ (tr _ _ _ (odd _) (md _ _ fun _ => rfl))
        · exact tr _ _ _ (odd _) (md _ _ fun _ => rfl)
      · exact tr _ _ _ (odd _) (md _ _ fun _ => rfl)
  · split
    · exact odd _
    · split
      · exact tr _ _ _ (odd _) (md _ _ fun _ => rfl)
      · exact po _ _ _ _ _ (tr _ _ _ (odd _) (md _ _ fun _ => rfl))

end Sys2Proof.Machine
end

