-- ==== Sys2Proof/Laws/Power.lean ====
section
/-!
SUPPORT. Shedding leaves the monitors as they are: the actions of a stage change other units (R445, R446), and the stage rises to its target
(R444).
-/
namespace Sys2Proof.Machine

theorem State.foldl_pwr {α : Type} (f : State → α → State) (h : ∀ s a, (f s a).pwr = s.pwr) (xs : List α) (s : State) :
    (xs.foldl f s).pwr = s.pwr := by
  induction xs generalizing s with
  | nil => rfl
  | cons x xs ih => exact (ih _).trans (h s x)

theorem State.settleN_pwr (n : Nat) (s : State) : (s.settleN n).pwr = s.pwr := by
  induction n generalizing s with
  | zero => rfl
  | succ n ih =>
    unfold State.settleN
    split
    · rfl
    · rename_i o c rest _
      rw [ih]
      obtain ⟨q, b, m, e, h, -⟩ := State.sendEntry_eq o c { s with gaf := { s.gaf with ops := rest } }
      rw [h]

theorem State.finishOp_pwr (seq : Nat) (r : Result) (d : Nat) (data : Bytes) (hb : Bool) (x : Bytes) (s : State) :
    (s.finishOp seq r d data hb x).pwr = s.pwr := State.settleN_pwr _ _

theorem State.finishWaiting_pwr (p : Op → Bool) (f : Op → Result × Nat × Bytes) (s : State) : (s.finishWaiting p f).pwr = s.pwr :=
  State.foldl_pwr _ (fun _ _ => State.finishOp_pwr _ _ _ _ _ _ _) _ s

theorem State.evMode_pwr (a b : Mode) (c : SafeCause) (t : Fine) (s : State) : (s.evMode a b c t).pwr = s.pwr := rfl
theorem State.pendMode_pwr (m : Mode) (b : ModeBy) (s : State) : (s.pendMode m b).pwr = s.pwr := rfl
theorem State.preempt_pwr (m : Mode) (s : State) : (s.preempt m).pwr = s.pwr := State.finishWaiting_pwr _ _ s

theorem State.requestSafe_pwr (c : SafeCause) (s : State) : (s.requestSafe c).pwr = s.pwr := by
  unfold State.requestSafe
  dsimp only
  repeat' split
  all_goals first
    | rfl
    | simp only [State.evMode_pwr, State.pendMode_pwr, State.modGaf_pwr, State.preempt_pwr]

theorem State.latchCause_pwr (c : Nat) (bits : BitVec 12) (s : State) : (s.latch_ c bits).pwr = s.pwr := by
  unfold State.latch_
  have ab : ∀ d b, (s.abandon c d b).pwr = s.pwr := by
    intro d b
    unfold State.abandon
    split
    · rw [State.finishOp_pwr, State.modCv_pwr]
    · rfl
  have tr : ∀ s : State, (s.traceTrig 3 0).pwr = s.pwr := by
    intro s
    unfold State.traceTrig
    dsimp only
    split <;> rfl
  dsimp only
  split
  · rfl
  · split
    · rw [ab]
    · split
      · rw [State.modCv_pwr]
        split
        · rw [ab]
        · rw [tr, ab]
      · rw [State.post_pwr, State.modCv_pwr, State.modCv_pwr]
        split
        · rw [ab]
        · rw [tr, ab]

theorem State.release_pwr (id : Nat) (s : State) : (s.release id).pwr = s.pwr := by
  obtain ⟨n, v, o, c, h⟩ := State.release_netOnly id s
  rw [h]

theorem State.portDown_pwr (p : Nat) (s : State) : (s.portDown p).pwr = s.pwr := by
  have q : (s.dropQueued p).pwr = s.pwr := by
    unfold State.dropQueued
    dsimp only
    rw [State.foldl_pwr _ (fun s id => State.release_pwr id s)]
    rw [State.modPort_pwr]
  unfold State.portDown
  dsimp only
  rw [State.modPort_pwr]
  exact q

theorem State.portStart_pwr (p : Nat) (s : State) : (s.portStart p).pwr = s.pwr := by
  unfold State.portStart
  rw [State.modPort_pwr, State.portDown_pwr]

theorem State.shedPorts_pwr (s : State) : s.shedPorts.pwr = s.pwr := by
  refine State.foldl_pwr _ (fun s p => ?_) _ s
  split
  · rw [State.modPort_pwr, State.portDown_pwr]
  · rfl

theorem State.unshedPorts_pwr (s : State) : s.unshedPorts.pwr = s.pwr := by
  refine State.foldl_pwr _ (fun s p => ?_) _ s
  split
  · rw [State.portStart_pwr, State.modPort_pwr]
  · rfl

theorem State.shedGroups_pwr (s : State) : s.shedGroups.pwr = s.pwr := by
  refine State.foldl_pwr _ (fun s p => ?_) _ s
  dsimp only
  split
  · rfl
  · rw [State.modGrp_pwr, State.modGrp_pwr]

theorem State.enterParison_pwr (n : Nat) (k : Bool) (s : State) : (s.enterParison n k).pwr = s.pwr := by
  unfold State.enterParison
  split <;> rfl

theorem State.armGroup_pwr (n : Nat) (m : ArmMode) (s : State) : (s.armGroup n m).pwr = s.pwr := by
  unfold State.armGroup
  split
  · rfl
  · split
    · rfl
    · rw [State.enterParison_pwr, State.modGrp_pwr]
      rfl

theorem State.unshedGroups_pwr (s : State) : s.unshedGroups.pwr = s.pwr := by
  refine State.foldl_pwr _ (fun s p => ?_) _ s
  dsimp only
  split
  · rfl
  · split
    · rw [State.armGroup_pwr, State.modGrp_pwr]
    · rw [State.modGrp_pwr]

/-- What a stage sheds leaves the power state (R445). -/
theorem State.shedAction_pwr (n : Nat) (s : State) : (s.shedAction n).pwr = s.pwr := by
  unfold State.shedAction
  split
  · unfold State.traceStop
    rw [State.modTrace_pwr, State.shedGroups_pwr]
  · exact State.shedPorts_pwr s
  · rw [State.requestSafe_pwr, State.latchCause_pwr, State.latchCause_pwr]
  · rfl

/-- What the fall from a stage reverses leaves the power state (R446). -/
theorem State.unshedAction_pwr (n : Nat) (s : State) : (s.unshedAction n).pwr = s.pwr := by
  unfold State.unshedAction
  split
  · split
    · rfl
    · unfold State.traceResume
      dsimp only
      rw [State.modTrace_pwr, State.unshedGroups_pwr]
  · exact State.unshedPorts_pwr s
  · split
    · rfl
    · rfl
  · rfl

/-- Rising one stage. -/
theorem State.riseOne_pwr (k : Nat) (s : State) :
    (s.riseOne k).pwr = { s.pwr with stage := s.pwr.stage + 1, holders := s.pwr.holders.put (s.pwr.stage + 1) k } := by
  unfold State.riseOne
  dsimp only
  rw [State.shedAction_pwr]
  rfl

/-- Rising stage by stage (R444). -/
theorem State.rise_pwr (k n : Nat) (s : State) : ∃ h, (State.rise k n s).pwr = { s.pwr with stage := s.pwr.stage + n, holders := h } := by
  induction n generalizing s with
  | zero => exact ⟨_, rfl⟩
  | succ n ih =>
    obtain ⟨h, e⟩ := ih (s.riseOne k)
    refine ⟨h, ?_⟩
    unfold State.rise
    rw [e, State.riseOne_pwr]
    simp only [Nat.add_assoc, Nat.add_comm 1 n]

/-- The stage rises to the target and does not fall with it (R444, R446). -/
theorem State.retarget_pwr (s : State) : ∃ h b, s.retarget.pwr =
    { s.pwr with stage := max s.pwr.stage s.demanded, holders := h, target := s.demanded, below := b } ∧
    (max s.pwr.stage s.demanded ≤ s.demanded → b = none) ∧
    (s.demanded < s.pwr.stage → b = if s.pwr.target < s.demanded then some s.now else some (s.pwr.below.getD s.now)) := by
  unfold State.retarget State.demanded
  dsimp only
  generalize s.demands.foldl (fun m d => max m d.2) 0 = t
  generalize hx : (s.modPwr fun p => _) = x
  have hs : x.pwr.stage = s.pwr.stage := by rw [← hx]; rfl
  have hp : ∃ h, x.pwr = { s.pwr with holders := h } := ⟨_, by rw [← hx]; rfl⟩
  have hn : x.now = s.now := by rw [← hx]; rfl
  obtain ⟨h0, hp⟩ := hp
  by_cases lt : x.pwr.stage < t
  · rw [if_pos lt]
    rw [hs] at lt
    generalize ((s.demands.find? fun d => d.2 == t).map (·.1)).getD 0xFF = trig
    obtain ⟨h, e⟩ := State.rise_pwr trig (t - x.pwr.stage) x
    have e' : (State.rise trig (t - x.pwr.stage) x).pwr = { s.pwr with stage := s.pwr.stage + (t - s.pwr.stage), holders := h } := by
      rw [e, hs, hp]
    rw [State.modPwr_pwr, e']
    dsimp only
    have e1 : s.pwr.stage + (t - s.pwr.stage) = t := by omega
    rw [e1, if_pos (Nat.le_refl t)]
    rw [Nat.max_eq_right (by omega)]
    exact ⟨h, none, rfl, fun _ => rfl, fun l => by omega⟩
  · rw [if_neg lt]
    rw [hs] at lt
    rw [State.modPwr_pwr, hp, hn]
    dsimp only
    rw [Nat.max_eq_left (by omega)]
    refine ⟨h0, _, rfl, fun l => if_pos l, fun l => if_neg (by omega)⟩

theorem foldl_max_le (ds : List (Nat × Nat)) (m : Nat) : m ≤ ds.foldl (fun m d => max m d.2) m ∧ (∀ d ∈ ds, d.2 ≤ ds.foldl (fun m d => max m d.2) m) ∧
    ((∀ d ∈ ds, d.2 = 0) → ds.foldl (fun m d => max m d.2) m = m) := by
  induction ds generalizing m with
  | nil => simp
  | cons d ds ih =>
    obtain ⟨a, b, c⟩ := ih (max m d.2)
    refine ⟨le_trans (Nat.le_max_left _ _) a, fun e he => ?_, fun h => ?_⟩
    · rcases List.mem_cons.mp he with rfl | he
      · exact le_trans (Nat.le_max_right _ _) a
      · exact b e he
    · show ds.foldl _ (max m d.2) = m
      have h0 : d.2 = 0 := h d (by simp)
      rw [c (fun e he => h e (by simp [he])), h0]; omega

theorem State.leapWrite_pwr (s : State) : s.leapWrite.pwr = s.pwr := by
  unfold State.leapWrite; split
  · rfl
  · rfl
theorem State.casWrite_pwr (s : State) : s.casWrite.pwr = s.pwr := by
  unfold State.casWrite; split
  · split <;> rfl
  · rfl

-- Demands by band (R444). -/
theorem Rail.demand_band0 (r : Rail) (n w d : Fine) (h : r.band = 0) : r.demand n w d = 0 := by unfold Rail.demand; rw [h]; rfl
theorem Rail.demand_band1 (r : Rail) (n w d : Fine) (h : r.band = 1) : r.demand n w d = if r.since1.any fun t => t + w ≤ n then 2 else 1 := by
  unfold Rail.demand; rw [h]; rfl
theorem Rail.demand_band2 (r : Rail) (n w d : Fine) (h : r.band = 2) : r.demand n w d = if r.since2.any fun t => t + d ≤ n then 4 else 3 := by
  unfold Rail.demand; rw [h]; rfl
theorem Rail.demand_band3 (r : Rail) (n w d : Fine) (h : r.band = 3) : r.demand n w d = 5 := by unfold Rail.demand; rw [h]; rfl

theorem Rail.demand_bounds (r : Rail) (n w d : Fine) (m : Nat) (dm : r.demand n w d ≤ m) :
    (r.band = 1 → 1 ≤ m) ∧ (r.band = 2 → 3 ≤ m) ∧ (r.band = 3 → 5 ≤ m) ∧
      (∀ t, r.band = 1 → r.since1 = some t → t + w ≤ n → 2 ≤ m) ∧ (∀ t, r.band = 2 → r.since2 = some t → t + d ≤ n → 4 ≤ m) := by
  refine ⟨fun b => ?_, fun b => ?_, fun b => ?_, fun t b h l => ?_, fun t b h l => ?_⟩
  · rw [Rail.demand_band1 _ _ _ _ b] at dm; refine le_trans ?_ dm; split <;> decide
  · rw [Rail.demand_band2 _ _ _ _ b] at dm; refine le_trans ?_ dm; split <;> decide
  · rw [Rail.demand_band3 _ _ _ _ b] at dm; exact dm
  · rw [Rail.demand_band1 _ _ _ _ b, h, if_pos (by simpa using l)] at dm; exact dm
  · rw [Rail.demand_band2 _ _ _ _ b, h, if_pos (by simpa using l)] at dm; exact dm

theorem hold_over (o : Option Fine) (st : Nat) (w n b : Fine) (pos : 0 < st) (hb : o = some b) (le : b + w ≤ n) :
    (decide (0 < st) && o.any fun t => decide (t + w ≤ n)) = true := by
  subst hb; simp [pos, le]
theorem hold_runs (o : Option Fine) (st : Nat) (w n : Fine) (no : st = 0 ∨ ∀ b, o = some b → n < b + w) :
    ¬ (decide (0 < st) && o.any fun t => decide (t + w ≤ n)) = true := by
  rcases no with h | h
  · simp [h]
  · cases hb : o with
    | none => simp
    | some b => have := h b hb; simp; intro _; exact this

theorem getD_modAt {α : Type} (i n : Nat) (f : α → α) (d : α) (l : List α) (h : i < l.length) :
    (modAt i f l).getD n d = if n = i then f (l.getD n d) else l.getD n d := by
  induction l generalizing i n with
  | nil => simp at h
  | cons x xs ih =>
    cases i with
    | zero => cases n <;> simp [modAt]
    | succ i =>
      cases n with
      | zero => simp [modAt]
      | succ n =>
        have := ih i n (by simpa using h)
        simpa [modAt] using this

theorem State.preempt_idle (m : Mode) (s : State) (h : s.gaf.ops = []) : s.preempt m = s := by
  unfold State.preempt State.finishWaiting
  rw [h]; rfl

theorem State.requestSafe_safe (c : SafeCause) (u : State) (nr : u.part.inReset = false) (ops : u.gaf.ops = []) (nb : u.gaf.mode ≠ .boot)
    (rh : u.gaf.romHold = false) (sh : u.gaf.mode ≠ .safeHold) : u.requestSafe c = { u with gaf := { u.gaf with pend :=
      match u.gaf.pend with
      | some { mode := m, by_ := .safe d, at_ := t, waits := w } => some (if d.rank < c.rank then ⟨m, .safe c, t, w⟩ else ⟨m, .safe d, t, w⟩)
      | _ => some { mode := .safeHold, by_ := .safe c, at_ := nextTickStart u.rate u.now } } } := by
  unfold State.requestSafe
  rw [if_neg (by simp [nr, nb, rh]), if_neg (by simpa using sh), State.preempt_idle _ _ ops]
  dsimp only
  cases hp : u.gaf.pend with
  | none => rfl
  | some p =>
    obtain ⟨m, b, t, w⟩ := p
    cases b with
    | safe d =>
      dsimp only
      by_cases l : d.rank < c.rank
      · rw [if_pos l, if_pos l]; rfl
      · rw [if_neg l, if_neg l, ← hp]
    | arbiter => rfl
    | host => rfl
    | recover => rfl
    | boot => rfl

theorem State.requestSafe_held (c : SafeCause) (u : State) (nr : u.part.inReset = false) (ops : u.gaf.ops = [])
    (rh : u.gaf.romHold = false) (sh : u.gaf.mode = .safeHold) (c1 : c ≠ .power) (c2 : c ≠ .modeSet) :
    (u.requestSafe c).gaf = { u.gaf with safeCause := if u.gaf.safeCause.rank < c.rank then c else u.gaf.safeCause, powerDriven := false, pend := none } := by
  unfold State.requestSafe
  rw [if_neg (by simp [nr, sh, rh]), if_pos (by simpa using sh)]
  dsimp only
  rw [if_neg (by simpa using c1), if_neg (by simpa using c2), State.preempt_idle _ _ ops]
  generalize ((if u.gaf.safeCause.rank < c.rank then c else u.gaf.safeCause) != u.gaf.safeCause || u.gaf.powerDriven) = b at *
  cases b
  · rw [if_neg (by decide)]; rfl
  · rw [if_pos rfl]; rfl

/-- Corrected words of the scrub are counted by region. -/
theorem State.scrubHits_corrected (hits : List EccHit) (u : State) (h : ∀ x ∈ hits, x.corrected = true) :
    (∀ r, (hits.foldl State.scrubHit u).lehr.corrected.get 0 r = u.lehr.corrected.get 0 r + hits.countP fun h => h.region.val == r) ∧
    (hits.foldl State.scrubHit u).lehr = { u.lehr with corrected := (hits.foldl State.scrubHit u).lehr.corrected } ∧
    (hits.foldl State.scrubHit u).gaf = u.gaf ∧ (hits.foldl State.scrubHit u).time = u.time := by
  induction hits generalizing u with
  | nil => exact ⟨fun r => rfl, rfl, rfl, rfl⟩
  | cons x xs ih =>
    have one : (u.scrubHit x).lehr = { u.lehr with corrected := u.lehr.corrected.modify 0 x.region.val (· + 1) } ∧ (u.scrubHit x).gaf = u.gaf ∧
        (u.scrubHit x).time = u.time := by
      have hc := h x (by simp)
      unfold State.scrubHit State.countEcc
      simp only [hc, if_true, Bool.not_true, Bool.false_eq_true, if_false]
      split <;> exact ⟨rfl, rfl, rfl⟩
    obtain ⟨a, b, c, d⟩ := ih (u.scrubHit x) (fun y hy => h y (by simp [hy]))
    refine ⟨fun r => ?_, ?_, by rw [← one.2.1]; exact c, by rw [← one.2.2]; exact d⟩
    · show ((xs.foldl State.scrubHit (u.scrubHit x)).lehr.corrected).get 0 r = _
      rw [a r, one.1, List.countP_cons]
      show Table.get 0 (Table.put u.lehr.corrected x.region.val (Table.get 0 u.lehr.corrected x.region.val + 1)) r + _ = _
      rw [Table.get_put]
      by_cases e : r = x.region.val
      · subst e; simp; omega
      · rw [if_neg e, if_neg (by simpa using fun q => e q.symm)]; rfl
    · show (xs.foldl State.scrubHit (u.scrubHit x)).lehr = _
      rw [b, one.1]; rfl

/-- One uncorrectable word that the scrub finds. -/
theorem State.scrubHit_uncorrected (h : EccHit) (u : State) (hc : h.corrected = false) (hr : h.region ≠ 1) :
    (u.scrubHit h).lehr = { u.lehr with uncorrected := u.lehr.uncorrected.modify 0 h.region.val (· + 1) } ∧ (u.scrubHit h).gaf = u.gaf ∧
    (h.region = 0 → (h.unit.toNat, h.obj) ∈ (u.scrubHit h).eng.badCluster) ∧
    (h.region = 3 → (u.scrubHit h).conv.bad = true) ∧ (h.region = 5 → h.obj < 8 → h.obj ∈ (u.scrubHit h).log.bad) := by
  unfold State.scrubHit
  rw [hc]
  simp only [Bool.not_false, if_true]
  have cl : (u.countEcc h).lehr = { u.lehr with uncorrected := u.lehr.uncorrected.modify 0 h.region.val (· + 1) } ∧ (u.countEcc h).gaf = u.gaf := by
    unfold State.countEcc; rw [hc]; exact ⟨rfl, rfl⟩
  generalize u.countEcc h = v at cl
  have keep : ∀ w : State, w.lehr = v.lehr → w.gaf = v.gaf → w.lehr = { u.lehr with uncorrected := u.lehr.uncorrected.modify 0 h.region.val (· + 1) } ∧ w.gaf = u.gaf :=
    fun w a b => ⟨a.trans cl.1, b.trans cl.2⟩
  have key : ∀ (p : Prop) [Decidable p] (x y : State), x.lehr = v.lehr → x.gaf = v.gaf → y.lehr = v.lehr → y.gaf = v.gaf →
      (if p then x else y).lehr = v.lehr ∧ (if p then x else y).gaf = v.gaf := by
    intro p _ x y a b c d
    by_cases q : p
    · rw [if_pos q]; exact ⟨a, b⟩
    · rw [if_neg q]; exact ⟨c, d⟩
  have lg : (v.eccEffect h).lehr = v.lehr ∧ (v.eccEffect h).gaf = v.gaf := by
    obtain ⟨⟨n, hn⟩, unit, word, obj, c⟩ := h
    unfold State.eccEffect
    interval_cases n
    · exact ⟨rfl, rfl⟩
    · exact absurd rfl hr
    · dsimp only
      by_cases q : obj < 65536
      · rw [if_pos q]; exact ⟨rfl, rfl⟩
      · rw [if_neg q]
        by_cases q' : (v.acq.chans.find? (obj - 65536)).isSome = true
        · rw [if_pos q']; exact ⟨rfl, rfl⟩
        · rw [if_neg q']; exact ⟨rfl, rfl⟩
    · exact ⟨rfl, rfl⟩
    · exact ⟨rfl, rfl⟩
    · exact key (obj < 8) _ _ rfl rfl rfl rfl
    · exact ⟨rfl, rfl⟩
    · exact ⟨rfl, rfl⟩
  refine ⟨(keep _ lg.1 lg.2).1, (keep _ lg.1 lg.2).2, fun q => ?_, fun q => ?_, fun q l => ?_⟩
  · unfold State.eccEffect; rw [q]; exact List.mem_cons_self
  · unfold State.eccEffect; rw [q]; rfl
  · unfold State.eccEffect; rw [q]; dsimp only; rw [if_pos l]; exact List.mem_cons_self

theorem any_since (o : Option (Int × Fine)) (k n : Nat) (m : Int) (t : Fine) (e : o = some (m, t)) {α : Type} (a b : α) :
    (if (o.any fun l => decide (l.2 + k < n)) = true then a else b) = if t + k < n then a else b := by
  subst e
  by_cases l : t + k < n
  · rw [if_pos l, if_pos (by simpa using l)]
  · rw [if_neg l, if_neg (by simpa using l)]

/-- A skew measurement older than 60 s is stale (R164). -/
theorem State.skewStale_eq (n : Nat) (u : State) (m : Int) (t : Fine) (e : (u.link n).lehr = some (m, t)) :
    u.skewStale n = if t + 60 * secF < u.now then u.modLink n fun k => { k with stale := true } else u :=
  any_since (u.link n).lehr (60 * secF) u.now m t e _ _

end Sys2Proof.Machine
end

