-- ==== Sys2Proof/Laws/Time.lean ====
section
/-!
SUPPORT. What references, time inputs and the note of synchronisation change and leave (R84, R85, R92, R102 to R104).
-/
namespace Sys2Proof.Machine

/-! ### Domains -/

@[simp] theorem TimeUnit.setDom_dom (t : TimeUnit) (x : Dom) (d : Domain) : (t.setDom x d).dom x = d := by cases x <;> rfl
@[simp] theorem TimeUnit.setDom_pps (t : TimeUnit) (x : Dom) (d : Domain) : (t.setDom x d).pps = t.pps := by cases x <;> rfl
@[simp] theorem TimeUnit.setDom_irig (t : TimeUnit) (x : Dom) (d : Domain) : (t.setDom x d).irig = t.irig := by cases x <;> rfl

theorem State.stepDom_inputs (x : Dom) (k : Int) (s : State) :
    (s.stepDom x k).time.pps = s.time.pps ∧ (s.stepDom x k).time.irig = s.time.irig := by
  unfold State.stepDom
  dsimp only
  split
  · exact ⟨TimeUnit.setDom_pps .., TimeUnit.setDom_irig ..⟩
  · exact ⟨TimeUnit.setDom_pps .., TimeUnit.setDom_irig ..⟩

/-- A step gives the domain its new count. -/
theorem State.stepDom_dom (x : Dom) (k : Int) (s : State) : (s.stepDom x k).time.dom x = Domain.step k (s.time.dom x) := by
  unfold State.stepDom
  dsimp only
  split
  · exact TimeUnit.setDom_dom ..
  · exact TimeUnit.setDom_dom ..

/-- A reference leaves the time inputs. -/
theorem State.reference_inputs (x : Dom) (ofs : Int) (iv : Nat) (s : State) :
    (s.reference x ofs iv).time.pps = s.time.pps ∧ (s.reference x ofs iv).time.irig = s.time.irig := by
  have md : ∀ (v : State) (f : Domain → Domain), (v.modDom x f).time.pps = v.time.pps ∧ (v.modDom x f).time.irig = v.time.irig :=
    fun v f => ⟨TimeUnit.setDom_pps .., TimeUnit.setDom_irig ..⟩
  unfold State.reference
  dsimp only
  split
  · split
    · exact ⟨(State.stepDom_inputs ..).1.trans (md _ _).1, (State.stepDom_inputs ..).2.trans (md _ _).2⟩
    · exact md _ _
  · split
    · exact ⟨(State.stepDom_inputs ..).1.trans (md _ _).1, (State.stepDom_inputs ..).2.trans (md _ _).2⟩
    · exact md _ _
  · exact md _ _
  · split
    · unfold State.toHoldover
      exact ⟨(md _ _).1.trans (md _ _).1, (md _ _).2.trans (md _ _).2⟩
    · exact md _ _

theorem State.ppsReference_inputs (x : Dom) (s : State) :
    (s.ppsReference x).time.pps = s.time.pps ∧ (s.ppsReference x).time.irig = s.time.irig := by
  unfold State.ppsReference
  dsimp only
  split
  · split
    · split
      · exact State.reference_inputs ..
      · exact ⟨rfl, rfl⟩
    · exact ⟨rfl, rfl⟩
  · split
    · exact State.reference_inputs ..
    · exact ⟨rfl, rfl⟩
  · exact ⟨rfl, rfl⟩

theorem State.irigReference_inputs (x : Dom) (k : Int) (s : State) :
    (s.irigReference x k).time.pps = s.time.pps ∧ (s.irigReference x k).time.irig = s.time.irig := by
  unfold State.irigReference
  split
  · exact State.reference_inputs ..
  · exact ⟨rfl, rfl⟩

/-- Noting the loss of synchronisation changes nothing else. -/
theorem State.noteSync_eq (b : Bool) (s : State) : s.noteSync b =
    { s with time := { s.time with syncLostAt := if b = true ∧ s.timeSync = false then some s.now else if s.timeSync = true then none else s.time.syncLostAt } } := by
  unfold State.noteSync
  cases b <;> cases h : s.timeSync <;> rfl

/-- A state with and without its good count and servo; the state of a slewed domain. -/
theorem Domain.servo_keeps (ofs : Int) (bw : Nat) (d : Domain) :
    (d.servo ofs bw).state = d.state ∧ (d.servo ofs bw).good = d.good ∧ (d.servo ofs bw).lastRef = d.lastRef ∧ (d.servo ofs bw).count = d.count :=
  ⟨rfl, rfl, rfl, rfl⟩

/-- What a reference without a step makes of its domain (R85). -/
theorem State.reference_dom (x : Dom) (ofs : Int) (iv : Nat) (s : State) (h : s.hostServo x = true ∨ ofs.natAbs ≤ 65536000000) :
    let d := s.time.dom x
    let e := (s.reference x ofs iv).time.dom x
    ((d.state = .free ∨ d.state = .holdover) → e.state = .acquiring ∧ e.good = if ofs.natAbs ≤ s.lockThr x then 1 else 0) ∧
    (d.state = .acquiring → s.lockThr x < ofs.natAbs → e.state = .acquiring ∧ e.good = 0) ∧
    (d.state = .acquiring → ofs.natAbs ≤ s.lockThr x → d.good < 15 → e.state = .acquiring ∧ e.good = d.good + 1) ∧
    (d.state = .acquiring → ofs.natAbs ≤ s.lockThr x → 15 ≤ d.good → e.state = .locked) ∧
    (d.state = .locked → 4 * s.lockThr x < ofs.natAbs → e.state = .holdover) ∧
    (d.state = .locked → ofs.natAbs ≤ 4 * s.lockThr x → e.state = .locked ∧ e.lastRef = some d.count) := by
  dsimp only
  have st : ∀ (b : Bool) (d : Domain) (bw : Nat), (if b = true then d else d.servo ofs bw).state = d.state ∧
      (if b = true then d else d.servo ofs bw).good = d.good := by
    intro b d bw; cases b <;> exact ⟨rfl, rfl⟩
  have ns : (!s.hostServo x && decide (1000000 * 65536 < ofs.natAbs)) = false := by
    rcases h with h | h
    · rw [h]; rfl
    · rw [decide_eq_false (by omega)]; exact Bool.and_false _
  have hd : (State.toHoldover x (s.modDom x fun d => { d with lastRef := some d.count, interval := iv })).time.dom x =
      (if s.hostServo x = true then id else Domain.holdInc) { s.time.dom x with
        lastRef := some (s.time.dom x).count, interval := iv, state := .holdover, holdAt := (s.time.dom x).count, good := 0 } := by
    unfold State.toHoldover
    show TimeUnit.dom (TimeUnit.setDom _ _ _) _ = _
    rw [TimeUnit.setDom_dom]
    show (if s.hostServo x = true then _ else _) = _
    have : (s.modDom x fun d => { d with lastRef := some d.count, interval := iv }).time.dom x =
      { s.time.dom x with lastRef := some (s.time.dom x).count, interval := iv } := TimeUnit.setDom_dom ..
    rw [this]
    split <;> rfl
  refine ⟨fun q => ?_, fun q l => ?_, fun q l g => ?_, fun q l g => ?_, fun q l => ?_, fun q l => ?_⟩
  · have b2 : b2n (decide (ofs.natAbs ≤ s.lockThr x)) = if ofs.natAbs ≤ s.lockThr x then 1 else 0 := by
      unfold b2n; split <;> simp_all
    unfold State.reference
    rcases q with q | q <;>
    · dsimp only
      rw [q]; dsimp only
      rw [if_neg (by rw [ns]; decide)]
      show (TimeUnit.dom (TimeUnit.setDom _ _ _) _).state = _ ∧ (TimeUnit.dom (TimeUnit.setDom _ _ _) _).good = _
      rw [TimeUnit.setDom_dom, ← b2]
      exact ⟨(st _ _ _).1, (st _ _ _).2⟩
  · unfold State.reference
    dsimp only
    rw [q]; dsimp only
    show (TimeUnit.dom (TimeUnit.setDom _ _ _) _).state = _ ∧ (TimeUnit.dom (TimeUnit.setDom _ _ _) _).good = _
    rw [TimeUnit.setDom_dom]
    dsimp only
    rw [if_neg (Nat.not_le.mpr l)]
    exact ⟨(st _ _ _).1.trans q, (st _ _ _).2⟩
  · unfold State.reference
    dsimp only
    rw [q]; dsimp only
    show (TimeUnit.dom (TimeUnit.setDom _ _ _) _).state = _ ∧ (TimeUnit.dom (TimeUnit.setDom _ _ _) _).good = _
    rw [TimeUnit.setDom_dom]
    dsimp only
    rw [if_pos l, if_neg (show ¬ 16 ≤ (s.time.dom x).good + 1 by omega)]
    exact ⟨(st _ _ _).1.trans q, (st _ _ _).2⟩
  · unfold State.reference
    dsimp only
    rw [q]; dsimp only
    show (TimeUnit.dom (TimeUnit.setDom _ _ _) _).state = _
    rw [TimeUnit.setDom_dom]
    dsimp only
    rw [if_pos l, if_pos (show 16 ≤ (s.time.dom x).good + 1 by omega)]
    exact (st _ _ _).1
  · unfold State.reference
    dsimp only
    rw [q]; dsimp only
    rw [if_pos l]
    show (TimeUnit.dom (State.time (State.toHoldover x (s.modDom x fun d => { d with lastRef := some d.count, interval := iv }))) x).state = _
    rw [hd]
    split
    · rfl
    · unfold Domain.holdInc; split <;> rfl
  · unfold State.reference
    dsimp only
    rw [q]; dsimp only
    rw [if_neg (by omega)]
    show (TimeUnit.dom (TimeUnit.setDom _ _ _) _).state = _ ∧ (TimeUnit.dom (TimeUnit.setDom _ _ _) _).lastRef = _
    rw [TimeUnit.setDom_dom]
    dsimp only
    cases s.hostServo x <;> exact ⟨q, rfl⟩

theorem elim_late (o : Option Nat) (k n r : Nat) (e : o = some r) : (o.elim true fun r => decide (r + k < n)) = decide (r + k < n) := by
  subst e; rfl
theorem late_neg (o : Option Nat) (k n r : Nat) (e : o = some r) (h : n ≤ r + k) : (o.elim true fun r => decide (r + k < n)) = false := by
  rw [elim_late o k n r e]; exact decide_eq_false (Nat.not_lt.mpr h)
theorem late_pos (o : Option Nat) (k n r : Nat) (e : o = some r) (h : r + k < n) : (o.elim true fun r => decide (r + k < n)) = true := by
  rw [elim_late o k n r e]; exact decide_eq_true h
theorem due_yes (a k b : Nat) (h : a + k ≤ b) : decide (a + k ≤ b) = true := decide_eq_true h
theorem due_no (a k b : Nat) (h : b < a + k) : decide (a + k ≤ b) = false := decide_eq_false (Nat.not_le.mpr h)

/-- A reference is late where more than 3 intervals have passed (R85). -/
theorem Domain.refLate_pos (d : Domain) (r : Nat) (b : d.lastRef = some r) (c : r + 3 * d.interval * 2 ^ 32 < d.count) : d.refLate = true :=
  late_pos d.lastRef (3 * d.interval * 2 ^ 32) d.count r b c
theorem Domain.refLate_neg (d : Domain) (r : Nat) (b : d.lastRef = some r) (c : d.count ≤ r + 3 * d.interval * 2 ^ 32) : d.refLate = false :=
  late_neg d.lastRef (3 * d.interval * 2 ^ 32) d.count r b c

/-- The stamp of the last edge in the domain that judges the spacing. -/
theorem State.ppsTimeout_eq (u : State) : u.ppsTimeout =
    if (u.time.pps.valid && decide (3 * secF ≤ (u.time.dom u.ppsDom).t80 - if u.ppsDom = .a then u.time.pps.lastA else u.time.pps.lastB)) = true
    then { u with time := { u.time with pps := { u.time.pps with valid := false, good := 0 } } } else u := by
  unfold State.ppsTimeout
  dsimp only
  cases u.ppsDom <;> rfl

/-- The 1PPS input after an on-time edge (R102, R104). -/
theorem State.ppsEdge_pps (u : State) (high low : Nat) (rising : Bool) (on : u.ppsOn = true) (ne : rising ≠ u.time.pps.reversed) :
    let p := u.time.pps
    let gap : Int := ((u.time.dom u.ppsDom).t80 : Int) - (if u.ppsDom = .a then p.lastA else p.lastB : Nat)
    let ok := p.seen && decide ((gap - (secF : Int)).natAbs ≤ 100000 * 65536)
    let long := if (if p.reversed then high else low) < (if p.reversed then low else high) then p.longHigh + 1 else 0
    (u.ppsEdge high low rising).time.pps = { p with
        lastW := u.now, lastA := u.time.domA.t80, lastB := u.time.domB.t80, seen := true
        good := if ok then p.good + 1 else 0
        valid := ok || p.valid
        longHigh := if 3 ≤ long then 0 else long
        reversed := if 3 ≤ long then !p.reversed else p.reversed } := by
  dsimp only
  have c : (!u.ppsOn || rising == u.time.pps.reversed) = false := by simp [on, ne]
  have key : ∀ (v : State) (b : Bool), (if b = true then (v.ppsReference .a).ppsReference .b else v).time.pps = v.time.pps := by
    intro v b; cases b
    · rfl
    · exact (State.ppsReference_inputs ..).1.trans (State.ppsReference_inputs ..).1
  unfold State.ppsEdge
  rw [if_neg (by rw [c]; decide)]
  cases hd : u.ppsDom <;>
  · dsimp only
    rw [key]
    rfl

theorem ite_irig (c : Prop) [Decidable c] (a b : State) (v : IrigIn) (h1 : a.time.irig = v) (h2 : b.time.irig = v) : (if c then a else b).time.irig = v := by
  split
  · exact h1
  · exact h2

theorem any_next (o : Option Nat) (k n : Nat) : (o.any fun l => l + k == n) = true ↔ ∃ l, o = some l ∧ n = l + k := by
  cases o with
  | none => simp
  | some l =>
    refine ⟨fun h => ⟨l, rfl, (beq_iff_eq.mp h).symm⟩, fun ⟨m, e, h⟩ => ?_⟩
    injection e with e; subst e; exact beq_iff_eq.mpr h.symm

/-- The IRIG-B input after a frame that decodes (R103, R104). -/
theorem State.irigFrame_irig (f : IrigFrame) (u : State) (on : u.irigOn = true) (cf : u.irigCf = false ∨ f.worseThan1us = false)
    (dec : f.inverted = u.time.irig.reversed ∨ 1 ≤ u.time.irig.inverted) :
    let t := (u.irigFrame f).time.irig
    t.last = some (u.irigTai f) ∧ t.lastW = u.now ∧ t.inverted = 0 ∧ t.reversed = f.inverted ∧
    (t.valid = true ↔ ∃ l, u.time.irig.last = some l ∧ u.irigTai f = l + 1000000000) := by
  dsimp only
  have fin : (u.irigFrame f).time.irig = { u.time.irig with
      inverted := 0, reversed := f.inverted, lastW := u.now, lastA := u.time.domA.t80, lastB := u.time.domB.t80, last := some (u.irigTai f)
      valid := u.time.irig.last.any fun l => l + 1000000000 == u.irigTai f } := by
    unfold State.irigFrame
    dsimp only
    rw [if_neg (by simp [on])]
    have rv : (if 2 ≤ (if (f.inverted == u.time.irig.reversed) = true then 0 else u.time.irig.inverted + 1) then !u.time.irig.reversed
        else u.time.irig.reversed) = f.inverted ∧
        (if 2 ≤ (if (f.inverted == u.time.irig.reversed) = true then 0 else u.time.irig.inverted + 1) then 0
        else (if (f.inverted == u.time.irig.reversed) = true then 0 else u.time.irig.inverted + 1)) = 0 ∧
        (!(f.inverted == u.time.irig.reversed) && !decide (2 ≤ (if (f.inverted == u.time.irig.reversed) = true then 0 else u.time.irig.inverted + 1))) = false := by
      by_cases e : f.inverted = u.time.irig.reversed
      · rw [e]; simp
      · have k := dec.resolve_left e
        have e' : (f.inverted == u.time.irig.reversed) = false := by simpa using e
        have e2 : (if (f.inverted == u.time.irig.reversed) = true then 0 else u.time.irig.inverted + 1) = u.time.irig.inverted + 1 := by rw [e']; rfl
        rw [e2, if_pos (by omega), if_pos (by omega), decide_eq_true (by omega : 2 ≤ u.time.irig.inverted + 1), Bool.not_true, Bool.and_false]
        refine ⟨?_, rfl, rfl⟩
        clear e' e2
        revert e; cases f.inverted <;> cases u.time.irig.reversed <;> simp
    rw [rv.1, rv.2.1, if_neg]
    · have nt : ∀ (y : Dom) (w : State) (n : Option (Nat × Bool)) (c : Bool),
          (if c = true then w.modDom y fun d => { d with leap := n } else w).time.irig = w.time.irig := by
        intro y w n c; cases c
        · rfl
        · exact TimeUnit.setDom_irig ..
      have base : ∀ (v : State) (b : Bool) (k : Int), (if b = true then (v.irigReference .a k).irigReference .b k else v).time.irig = v.time.irig := by
        intro v b k
        cases b
        · rfl
        · exact (State.irigReference_inputs ..).2.trans (State.irigReference_inputs ..).2
      refine ite_irig _ _ _ _ ?_ ?_
      · exact (nt _ _ _ _).trans ((nt _ _ _ _).trans ((base _ _ _).trans rfl))
      · exact (base _ _ _).trans rfl
    · rw [rv.2.2]
      intro q
      rw [Bool.false_or] at q
      rw [Bool.and_eq_true] at q
      rcases cf with h | h
      · exact absurd (h.symm.trans q.1) (by decide)
      · exact absurd (h.symm.trans q.2) (by decide)
  rw [fin]
  refine ⟨rfl, rfl, rfl, rfl, ?_⟩
  exact any_next ..

/-! ### PTP -/

/-- Sending a PTP message changes no register of the time unit but the stamps that are awaited. -/
theorem State.sendPtp_time (p : Nat) (x : Dom) (m : PtpMsg) (st : Bool) (rx : Option Fine) (s : State) :
    (s.sendPtp p x m st rx).time = { s.time with
      ident := if st then s.time.ident + 1 else s.time.ident
      await := if st then s.time.await.put p ((({ ident := s.time.ident, dom := x.num, msg := m } : AwaitStamp) :: s.time.await.get [] p).take 64)
        else s.time.await } := by
  have n : ∀ v : State, ∀ i f c l q y z, ((v.netSettle).enqueue i f c l q y z).time = v.time := by
    intro v i f c l q y z
    obtain ⟨a, b, c', d, e⟩ := (State.netSettle_netOnly v).trans (State.enqueue_netOnly i f c l q y z v.netSettle)
    rw [e]
  unfold State.sendPtp
  dsimp only
  rw [n]
  cases st <;> rfl

theorem State.modPtp_ptp (p : Nat) (x : Dom) (f : PtpPort → PtpPort) (s : State) : (s.modPtp p x f).ptp p x = f (s.ptp p x) :=
  Table.get_put_self ..

theorem State.sendPtp_ptp (p : Nat) (x : Dom) (m : PtpMsg) (st : Bool) (rx : Option Fine) (s : State) (q : Nat) (y : Dom) :
    (s.sendPtp p x m st rx).ptp q y = s.ptp q y := by
  unfold State.ptp; rw [State.sendPtp_time]

/-- Taking a stamp leaves the queues. -/
theorem State.takeStamp_tsq (p : Nat) (t : TxStamp) (s : State) : (s.takeStamp p t).time.tsq = s.time.tsq := by
  unfold State.takeStamp
  split
  · rfl
  · split
    · rfl
    · dsimp only
      split
      · rw [State.sendPtp_time]
      · rfl
      · rw [State.sendPtp_time]
      · rfl

/-- A drain empties every queue and keeps the drop counters (R98). -/
theorem State.tsqDrain_tsq (u : State) (f : u.fwRuns = true) (r : u.part.inReset = false) (p : Nat) (h : p < 16) :
    (u.tsqDrain.time.tsq.get { } p).items = [] ∧ (u.tsqDrain.time.tsq.get { } p).drops = (u.time.tsq.get { } p).drops := by
  unfold State.tsqDrain
  rw [f, r, if_neg (by decide)]
  have one : ∀ (l : List TxStamp) (v : State) (k : Nat), (l.foldl (fun s t => State.takeStamp k t s) v).time.tsq = v.time.tsq := by
    intro l
    induction l with
    | nil => intro v k; rfl
    | cons a l ih => intro v k; exact (ih _ k).trans (State.takeStamp_tsq k a v)
  have all : ∀ (f : State → Nat → State), (∀ v k j, ((f v k).time.tsq.get ({ } : Tsq) j) =
      if j = k then { v.time.tsq.get ({ } : Tsq) k with items := [] } else v.time.tsq.get { } j) → ∀ (l : List Nat) (v : State) (j : Nat),
      ((l.foldl f v).time.tsq.get ({ } : Tsq) j) = if j ∈ l then { v.time.tsq.get ({ } : Tsq) j with items := [] } else v.time.tsq.get { } j := by
    intro f step l
    induction l with
    | nil => intro v j; simp
    | cons k l ih =>
      intro v j
      rw [List.foldl_cons, ih, step]
      by_cases a : j = k
      · subst a; simp
      · rw [if_neg a]
        by_cases b : j ∈ l
        · rw [if_pos b, if_pos (List.mem_cons_of_mem k b)]
        · rw [if_neg b, if_neg fun q => (List.mem_cons.mp q).elim a b]
  have fin : ∀ t : Tsq, t = { u.time.tsq.get ({ } : Tsq) p with items := [] } → t.items = [] ∧ t.drops = (u.time.tsq.get ({ } : Tsq) p).drops := by
    intro t e; rw [e]; exact ⟨rfl, rfl⟩
  refine fin _ ?_
  refine (all _ (fun v k j => ?_) (List.range 16) u p).trans (if_pos (by simpa using h))
  dsimp only
  rw [one]
  dsimp only
  by_cases e : (Table.get ({ } : Tsq) v.time.tsq k).items.isEmpty = true
  · rw [if_pos e]
    by_cases q : j = k
    · subst q; rw [if_pos rfl]
      have : (Table.get ({ } : Tsq) v.time.tsq j).items = [] := by simpa using e
      generalize Table.get ({ } : Tsq) v.time.tsq j = w at this ⊢
      cases w; dsimp only at this; subst this; rfl
    · rw [if_neg q]
  · rw [if_neg e, Table.get_put]

theorem State.leapWrite_time (s : State) : s.leapWrite.time = s.time := by unfold State.leapWrite; split <;> rfl
theorem State.leapWrite_held (s : State) (w : s.pwr.warn = true) : s.leapWrite = s := by
  unfold State.leapWrite; rw [w, Bool.or_true, Bool.true_or, if_pos rfl]
/-- UTC_LEAP is written where nothing holds it back (R103, R463). -/
theorem State.leapWrite_made (s : State) (o : s.store.leapOwed = true) (w : s.pwr.warn = false) (c : s.store.calCommit = none) :
    s.leapWrite.store.leapOwed = false ∧ s.leapWrite.store.calCommit.isSome = true := by
  unfold State.leapWrite
  rw [o, w, c, if_neg (by decide)]
  unfold State.startCal State.countErase State.modStore Store.setCal
  dsimp only
  exact ⟨by split <;> rfl, rfl⟩

theorem dueFrom_yes (last iv now : Nat) (h : last + iv ≤ now) : dueFrom last iv now = true := by
  unfold dueFrom; rw [decide_eq_true h]; rfl
theorem dueFrom_no (last iv now : Nat) (h : last ≤ now) (k : now < last + iv) : dueFrom last iv now = false := by
  unfold dueFrom; rw [decide_eq_false (Nat.not_le.mpr k), decide_eq_false (Nat.not_lt.mpr h)]; rfl

theorem any_due {α : Type} (o : Option Fine) (k n : Nat) (a b : α) (t : Fine) (e : o = some t) (h : t + k ≤ n) :
    (if (o.any fun t => decide (t + k ≤ n)) = true then a else b) = a := by
  subst e; exact if_pos (decide_eq_true h)
theorem any_early (o : Option Fine) (k n : Nat) (h : ∀ t, o = some t → n < t + k) :
    (o.any fun t => decide (t + k ≤ n)) = false := by
  cases o with
  | none => rfl
  | some t => exact decide_eq_false (Nat.not_le.mpr (h t rfl))
theorem any_past (o : Option Fine) (k n : Nat) (t : Fine) (e : o = some t) (h : t + k ≤ n) :
    (o.any fun t => decide (t + k ≤ n)) = true := by
  subst e; exact decide_eq_true h

theorem tickLt_yes (a b : Nat × Nat) (h : a.1 < b.1 ∨ (a.1 = b.1 ∧ a.2 < b.2)) : tickLt a b = true := by
  unfold tickLt
  rcases h with h | ⟨h, k⟩
  · simp [h]
  · simp [h, k]
theorem tickLt_no (a b : Nat × Nat) (h : ¬ (a.1 < b.1 ∨ (a.1 = b.1 ∧ a.2 < b.2))) : tickLt a b = false := by
  cases e : tickLt a b
  · rfl
  · refine absurd ?_ h
    unfold tickLt at e
    simpa using e

end Sys2Proof.Machine
end

