-- ==== Sys2Proof/WellFormed.lean ====
section
/-!
DEFINITION. Which commands are well formed: the operands that report something of the hardware have as many parts as
the hardware has. A command of the host that breaks a rule is well formed; it gets the result code of R59.
-/
namespace Sys2Proof

/-- One entry for each of the lanes of a link, and one sample list and over-range list for each converter (R138). -/
def JesdBlock.wf (b : JesdBlock) : Bool :=
  b.headersOk.length == 4 && b.markers.length == 4 && b.inverted.length == 4 &&
  b.samples.length == b.overrange.length && b.samples.length ≤ 8 &&
  (b.samples.zip b.overrange).all fun p => p.1.length == p.2.length

/-- An SV frame carries NO_ASDU ASDUs, each with as many qualities as values (R119). -/
def SvFrame.wf (f : SvFrame) : Bool :=
  f.asdus.length == f.noAsdu && f.asdus.all fun a => a.vals.length == a.quals.length

/-- A hub reports at most 128 sub-modules (R304). -/
def HubStatus.wf (f : HubStatus) : Bool := f.body.length ≤ 128

/-- A time of year lies in the year (R103). -/
def IrigFrame.wf (f : IrigFrame) : Bool := f.utcOfYear < 367 * 86400 * 1000000000

/-- A batch of at most 4,096 bytes (R71). -/
def MoeDatagram.wf (d : MoeDatagram) : Bool := d.batch.length ≤ 4096

/-- Whether a command's operands are ones that the hardware can report. -/
def Instr.wf : Instr → Bool
  | .commandHalfWrite _ _ off data => 0 < data.length && off.val + data.length ≤ 4096
  | .registerWriteOther _ _ width _ => width == 8 || width == 16 || width == 32 || width == 64
  | .moeDatagramRx _ d => d.wf
  | .railMonitorSample _ levels => levels.length == 7
  | .irigFrame _ f => f.wf
  | .svFrameRx _ f => f.wf
  | .jesdBlockRx _ _ b => b.wf
  | .valveStatusRx _ _ f => f.wf
  | .lifeCheck _ pair => pair < 4
  | .lehrTelemetry _ temps => temps.length == 3
  | .protectedWindow _ _ w => w < 8
  | .fwWrite _ _ _ _ buf img => buf.kind != 1 || img.length == buf.len.toNat
  | _ => true

end Sys2Proof
end

