-- ==== Sys2Proof/Tests/Slice0.lean ====
section
/-!
SUPPORT. Own tests: the ill-formed term that each check of `Instr.wf` refuses, states and operands that meet the hypotheses of each
statement, and a few values from the spec's own examples and tables.
-/
namespace Sys2Proof.Tests
open Sys2Proof.Machine

/-- A device in operation, in a mode, with every feature committed and a configuration. -/
def up (m : Mode) (cfg : List Rec := []) : State :=
  { part := { inReset := false, porLow := false, bootStep := 3, pcieUp := true }
    gaf := { mode := m, fwReady := true, committed := 0xFFFF }
    cfg }

/-- The header of a command of mailbox 0. -/
def hd : CmdHead := { mb := 0, tag := 7 }

/-- A record with a body of zeros. -/
def blank (rtype obj len : Nat) : Rec := { rtype, obj, body := zeros len }

/-- A record whose body begins with some bytes. -/
def recOf (rtype obj len : Nat) (b : Bytes) : Rec := { rtype, obj, body := b ++ zeros (len - b.length) }

/-- No buffer. -/
def noBuf : BufDesc := { addr := 0, len := 0, kind := 0 }
/-- A host buffer of 64 bytes. -/
def hostBuf : BufDesc := { addr := 0x1000, len := 64, kind := 1 }

/-- A started operation that waits. -/
def opOf (w : Wait) (c : HostCmd := .statusGet) : Op := { seq := 3, h := hd, cmd := c, wait := w, started := true }

/-- With one operation in flight. -/
def withOp (w : Wait) (s : State) (c : HostCmd := .statusGet) : State := { s with gaf := { s.gaf with ops := [opOf w c] } }

/-! ### Every check of `Instr.wf` refuses an ill-formed term -/

theorem test_wf_half_write : Instr.wf (.commandHalfWrite 0 0 4095 [1, 2]) = false := by decide
theorem test_wf_half_write_empty : Instr.wf (.commandHalfWrite 0 0 0 []) = false := by decide
theorem test_wf_half_write_last : Instr.wf (.commandHalfWrite 0 0 4095 [1]) = true := by decide
theorem test_wf_width : Instr.wf (.registerWriteOther 0 0 24 0) = false := by decide
theorem test_wf_datagram : Instr.wf (.moeDatagramRx 0
    { port := 0, src := 0, udpPort := 0, magic := 0, version := 0, typ := 0, mailbox := 0, rsv := 0, count := 0, seq := 0, rsv2 := 0,
      batch := List.replicate 4097 0 }) = false := by
  simp only [Instr.wf, MoeDatagram.wf, List.length_replicate]
  decide
theorem test_wf_rails : Instr.wf (.railMonitorSample 0 [750]) = false := by decide
theorem test_wf_irig : Instr.wf (.irigFrame 0 { format := 0, utcOfYear := 367 * 86400 * 1000000000, year := 2020 }) = false := by decide
theorem test_wf_sv : Instr.wf (.svFrameRx 0
    { port := 0, dst := 0, src := 0, appid := 0, vid := none, svid := [], noAsdu := 2, dataLen := 0, confRev := 0, smpSynch := 0,
      asdus := [{ smpCnt := 0, vals := [], quals := [] }] }) = false := by decide
theorem test_wf_sv_quals : Instr.wf (.svFrameRx 0
    { port := 0, dst := 0, src := 0, appid := 0, vid := none, svid := [], noAsdu := 1, dataLen := 0, confRev := 0, smpSynch := 0,
      asdus := [{ smpCnt := 0, vals := [1], quals := [] }] }) = false := by decide
theorem test_wf_jesd_lanes : Instr.wf (.jesdBlockRx 0 0
    { headersOk := [true], markers := [], inverted := [], samples := [], overrange := [] }) = false := by decide
theorem test_wf_jesd_samples : Instr.wf (.jesdBlockRx 0 0
    { headersOk := [true, true, true, true], markers := [true, true, true, true], inverted := [false, false, false, false]
      samples := [[1]], overrange := [] }) = false := by decide
theorem test_wf_status : Instr.wf (.valveStatusRx 0 0 { src := 0, bcycle := 0, uid := 0, body := List.replicate 129 (0, 0) }) = false := by
  simp only [Instr.wf, HubStatus.wf, List.length_replicate]
  decide
theorem test_wf_pair : Instr.wf (.lifeCheck 0 4) = false := by decide
theorem test_wf_temps : Instr.wf (.lehrTelemetry 0 [1, 2]) = false := by decide
theorem test_wf_window : Instr.wf (.protectedWindow 0 0 8) = false := by decide
theorem test_wf_fw : Instr.wf (.fwWrite 0 hd 0 0 { addr := 0, len := 4, kind := 1 } [1]) = false := by decide

/-! ### Hypotheses that are met: the queue, the mailbox interface, session and modes -/

theorem test_w_provided : Instr.provided State.reset.part.reduced (.statusGet 0 hd) = true := by decide
theorem test_w_not_provided : Instr.provided ({ reduced := true } : Part).reduced (.acqOutput 0 16) = false ∧
    Instr.provided true (.acqOutput 0 15) = true ∧ Instr.provided true (.executionComplete 0 32 0 false 0) = false := by decide
theorem test_w_part : State.reset.part.reduced = false ∧ State.reset.part.serial = 0 ∧ State.reset.ev.raised = [] ∧
    step State.reset = .next State.reset := ⟨rfl, rfl, rfl, rfl⟩
theorem test_w_queue : ∀ i ∈ ({ State.reset with pending := [.latticeTick 1] } : State).pending, Instr.provided false i = true := by
  intro i hi
  rw [List.mem_singleton.mp hi]
  rfl
theorem test_w_status_change : ((up .commission).arrived 0).part.inReset = false ∧
    (∃ t, exec (.bootResetTimer 0) (up .commission) = .next t) := ⟨rfl, _, rfl⟩
theorem test_w_reset_stands : State.reset.part.inReset = true ∧ (up .service).part.inReset = false := by decide

theorem test_w_checks : Instr.asHost (.statusGet 3 hd) = some (3, hd, .statusGet) ∧
    ((up .commission).arrived 3).comesAlone hd .statusGet = true ∧ hd.flags.toNat < 4 ∧ hd.rsv = 0 := by decide
theorem test_w_checks_length : HostCmd.lengthErr (.badLength 4 0) = some 0 ∧
    ((up .commission).arrived 0).comesAlone hd (.badLength 4 0) = true := by decide
theorem test_w_checks_flags : 4 ≤ ({ hd with flags := 4 } : CmdHead).flags.toNat ∧
    ((up .commission).arrived 0).comesAlone { hd with flags := 4 } .statusGet = true := by decide
theorem test_w_ring : hd.path = .pcie ∧ (((up .commission).arrived 0).mb 0).held = [] ∧
    ((((up .commission).arrived 0).mb 0).prod - (((up .commission).arrived 0).mb 0).cons).toNat < 64 ∧
    HostCmd.boots .statusGet = false := by decide
theorem test_w_ring_full : (((({ up .commission with mbx := [(0, { prod := 64 })] } : State).arrived 0).mb 0).prod -
    ((({ up .commission with mbx := [(0, { prod := 64 })] } : State).arrived 0).mb 0).cons).toNat ≥ 64 := by decide
theorem test_w_tag : let u := (withOp .mode (up .commission)).arrived 0
    u.reachable hd = true ∧ hd.path = .pcie ∧ u.tagInFlight hd.tag = true ∧ (u.mb 0).held = [] ∧
    (∀ o ∈ u.gaf.ops, o.started = true ∧ o.wait ≠ .turn) := by decide

theorem test_w_hello : ((up .commission).arrived 0).takes hd (.hello 0 1 0 0) = true ∧
    ((up .boot).arrived 0).takes hd (.hello 0 1 0 0) = true := by decide
theorem test_w_hello_major : ((up .commission).arrived 0).takes hd (.hello 0 2 0 0) = true ∧ (2 : U16) ≠ 1 := by decide
theorem test_w_hello_rsv : ((up .commission).arrived 0).takes hd (.hello 0 1 0 1) = true := by decide
theorem test_w_commit_features : ((up .commission).arrived 0).takes hd (.featuresCommit 0) = true ∧
    (∀ i, i < 112 → (0 : BitVec 128).getLsbD (16 + i) = false) := ⟨by decide, fun i _ => by simp⟩
theorem test_w_commit_bit : ((up .commission).arrived 0).takes hd (.featuresCommit 0x10000) = true ∧
    (0x10000 : BitVec 128).getLsbD (16 + 0) = true ∧ (0x80000000000000000000000000000000 : BitVec 128).getLsbD (16 + 111) = true := by decide
theorem test_w_status : ((up .safeHold).arrived 0).takes hd .statusGet = true := by decide

theorem test_w_mode_boot : ((up .commission).arrived 0).takes hd (.modeSet 1 0 0) = true ∧ Mode.ofCode 1 = some .boot := by decide
theorem test_w_mode_same : ((up .commission).arrived 0).takes hd (.modeSet 2 0 0) = true ∧ Mode.ofCode 2 = some .commission ∧
    (up .commission).gaf.mode = .commission := by decide
theorem test_w_mode_pends : let u := (up .service).arrived 0
    u.takes hd (.modeSet 2 0 0) = true ∧ Mode.ofCode 2 = some .commission ∧ u.gaf.pend = none ∧
    u.modeRefused .commission false = none ∧ u.paired = false := by decide
theorem test_w_mode_safe : let u := (up .service).arrived 0
    u.takes hd (.modeSet 6 1 0) = true ∧ Mode.ofCode 6 = some .safeHold ∧ u.gaf.pend = none ∧
    u.modeRefused .safeHold true = none ∧ u.gaf.romHold = false ∧ u.part.inReset = false := by decide
theorem test_w_mode_refused : let u := (up .commission).arrived 0
    u.takes hd (.modeSet 3 0 0) = true ∧ Mode.ofCode 3 = some .service ∧ u.gaf.pend = none ∧ u.modeRefused .service false = some 2 := by decide
theorem test_w_mode_takes : let p : PendMode := { mode := .service, by_ := .host, at_ := 0 }
    let s := { up .commission with gaf := { (up .commission).gaf with pend := some p } }
    (s.arrived 0).gaf.pend = some p ∧ p.waits = false ∧ (s.arrived 0).gaf.ops = [] ∧ p.at_ ≤ (s.arrived 0).now ∧
    (s.arrived 0).now < ({ p with at_ := 1 } : PendMode).at_ := by decide

/-! ### Configuration -/

/-- A transaction of mailbox 0. -/
def txn : Txn := { id := 1, mb := 0, path := .pcie, base := 0, fromEmpty := false }
/-- A device with a transaction open. -/
def inTxn : State := { up .commission with gaf := { (up .commission).gaf with txn := some txn } }

theorem test_w_begin : ((up .commission).arrived 0).takes hd (.configBegin 0 1) = true ∧ (up .commission).gaf.txn = none := by decide
theorem test_w_begin_open : (inTxn.arrived 0).takes hd (.configBegin 0 1) = true ∧ inTxn.gaf.txn = some txn := by decide
theorem test_w_begin_gen : ((up .commission).arrived 0).takes hd (.configBegin 5 0) = true ∧ (5 : U32) ≠ 0 ∧ (5 : U32) ≠ (up .commission).cfgGen := by
  decide
theorem test_w_abort : (inTxn.arrived 0).takes hd (.configAbort 1 0) = true ∧ inTxn.gaf.txn = some txn ∧ txn.id = 1 ∧ txn.mb = hd.mb ∧
    txn.path = hd.path ∧ txn.committing = false := by decide
theorem test_w_abort_other : (inTxn.arrived 0).takes { hd with mb := 1 } (.configAbort 1 0) = true ∧ txn.mb ≠ ({ hd with mb := 1 } : CmdHead).mb := by
  decide
theorem test_w_idle : (inTxn.arrived 0).part.inReset = false ∧ (inTxn.arrived 0).gaf.txn = some txn ∧
    (∀ o ∈ (inTxn.arrived 0).gaf.ops, o.wait = .turn) ∧ (inTxn.arrived 0).now < txn.last + 60 * 1000000000 * 65536 := by decide
theorem test_w_idle_over : let s := { inTxn with time := { (inTxn.time) with domA := { inTxn.time.domA with count := 60 * 1000000000 * 2 ^ 32 } } }
    txn.last + 60 * 1000000000 * 65536 ≤ (s.arrived 0).now ∧ (s.arrived 0).gaf.txn = some txn := by decide

theorem test_w_checks_lacks : ({ up .commission with gaf := { (up .commission).gaf with committed := 0 } } : State).lacks (.valveSleep 1 0) = some 4 := by
  decide
theorem test_w_checks_mode : (up .commission).lacks (.pairRevert 1 0) = none ∧
    (up .commission).modeErr (.pairRevert 1 0) = some (.done .wrongMode 8 [] false []) := by decide

/-- One DEVICE record (0x101) as an envelope. -/
def deviceEnv (t : U32) : Envelope :=
  { txn := t, records := packLe [(2, 0x101), (1, 1), (1, 0), (4, 0), (2, 4), (2, 0), (4, 1)] }
/-- That record. -/
def deviceRaw : RawRec := { off := 8, rtype := 0x101, rver := 1, rop := 0, obj := 0, rlen := 4, rsv := 0, body := [1, 0, 0, 0] }

theorem test_w_staging : (inTxn.arrived 0).takes hd (.staging 0x11 (deviceEnv 1)) = true ∧ (deviceEnv 1).txn ≠ 0 ∧
    envRaws (deviceEnv 1) = .ok [deviceRaw] ∧ ((inTxn.arrived 0).begun hd (.staging 0x11 (deviceEnv 1))).stagingBad 0x11 (deviceEnv 1) false [] = none :=
  ⟨by decide, by decide, rfl, by decide⟩
theorem test_w_staging_bad : ((inTxn.arrived 0).begun hd (.staging 0x11 { deviceEnv 1 with rsv := 1 })).stagingBad 0x11
    { deviceEnv 1 with rsv := 1 } false [] = some 4 ∧ (inTxn.arrived 0).takes hd (.staging 0x11 { deviceEnv 1 with rsv := 1 }) = true := by decide

theorem test_w_commit : let u := (inTxn.arrived 0).begun hd (.configCommit 1 0)
    (inTxn.arrived 0).takes hd (.configCommit 1 0) = true ∧ u.gaf.txn = some txn ∧ u.gaf.commit = none ∧ u.gaf.mode = .commission ∧
    u.pwr.warn = false ∧ u.cascaded = false ∧ u.crossErr (compose (u.txnBase false) []) (sentSettings []) = none := by decide
theorem test_w_commit_placed : let s := { inTxn with gaf := { inTxn.gaf with txn := some { txn with placed := some { } } } }
    (s.arrived 0).takes hd (.configCommit 1 0) = true ∧ s.lostEngine { } = false := by decide
theorem test_w_commit_warn : let s := { inTxn with pwr := { inTxn.pwr with warn := true } }
    (s.arrived 0).takes hd (.configCommit 1 0) = true ∧ s.pwr.warn = true := by decide

/-- A commit that waits for its marker. -/
def com : Commit := { recs := [], place := { }, gen := 1, features := 0, changed := [], txn := none }
theorem test_w_marker : let s := { up .commission with gaf := { (up .commission).gaf with commit := some com } }
    (s.arrived 0).part.inReset = false ∧ (s.arrived 0).gaf.commit = some com ∧ com.marker = none ∧ com.cascade = false ∧ com.master = false ∧
    (s.arrived 0).cascaded = false := by decide
theorem test_w_marker_cal : let c : CalCommit := { items := [], gen := 1, op := none }
    let s := { up .commission with store := { (up .commission).store with calCommit := some c } }
    (s.arrived 0).store.calCommit = some c ∧ c.marker = none := by decide
theorem test_w_effect : let c : Commit := { com with marker := some 0, effect := some 0 }
    let s := { up .commission with gaf := { (up .commission).gaf with commit := some c } }
    (s.arrived 0).gaf.commit = some c ∧ c.marker.isSome = true ∧ c.effect = some 0 ∧ 0 ≤ (s.arrived 0).now ∧ (s.arrived 0).now < 1 ∧
    (s.arrived 0).store.calCommit = none ∧ (s.arrived 0).gaf.ops = [] := by decide
theorem test_w_cal_write : let p := calPayload 1 1 0 (packLe [(2, 3), (2, 0), (4, 0)])
    ((up .commission).arrived 0).takes hd (.calWrite 1 1 0 (packLe [(2, 3), (2, 0), (4, 0)])) = true ∧
    firstBad (calChecks false p) = none ∧ (calEntries p (p.u16 0) 8 []).isOk = true := by decide
theorem test_w_place : (inTxn.arrived 0).takes hd (.place 1 0) = true ∧ (0 : U32).toNat < 4 := by decide
theorem test_w_place_done : let s := withOp (.placing .ok 0 [] (some { }) false) (up .commission)
    (s.arrived 0).gaf.ops = [opOf (.placing .ok 0 [] (some { }) false)] ∧ (opOf (.placing .ok 0 [] (some { }) false)).outcome = none := by decide

theorem test_w_deliver : noBuf.kind = 0 ∧ hostBuf.kind = 1 ∧ ([1] : Bytes).take hostBuf.len.toNat ≠ [] ∧ (up .service).part.pcieUp = true ∧
    hostBuf.host = .answers := by decide
theorem test_w_placement_get : let u := (up .service).arrived 0
    u.takes hd (.placementGet 0 0 0 1 0 hostBuf) = true ∧ bufBad hostBuf 8 hd.path = none ∧ u.place.proven = false ∧
    (0 : U16).toNat < numInsts false := by decide
theorem test_w_placement_get_proven : let s := { up .service with place := { proven := true } }
    (s.arrived 0).takes hd (.placementGet 0 0 0 1 0 hostBuf) = true ∧ (s.arrived 0).place.proven = true := by decide
theorem test_w_settings : let s := up .service [blank 0x501 2 16]
    (s.arrived 0).takes hd (.settingsRead 2 0 0 hostBuf) = true ∧ bufBad hostBuf 4 hd.path = none ∧ bufBad noBuf 4 hd.path = none := by decide
theorem test_w_cal_read : (((up .service).arrived 0).takes hd (.calRead 3 0xFFFF 0 noBuf) = true) ∧ (up .service).store.items = [] ∧
    (up .service).gaf.romHold = false ∧ bufBad noBuf 8 hd.path = none := by decide
theorem test_w_records : ((up .service).arrived 0).takes hd (.recordList 0 3 0 1 noBuf) = true ∧ (up .service).rec_.ddr = true ∧
    ((up .service).arrived 0).takes hd (.recordRead 1 0 0 0 0 hostBuf) = true ∧ bufBad hostBuf 0x10 hd.path = none ∧
    ((up .service).rec_.records.find? fun x => x.num == 1) = none := by decide
theorem test_w_segment : let x : Segment := { state := .closed }
    let s := { up .service with acq := { (up .service).acq with groups := [(0, { segs := [(0, x)] })] } }
    (s.arrived 0).takes hd (.segmentRead 0 0 1 noBuf) = true ∧
    (((s.grp 0).segs.filter fun y => y.2.state == .closed).find? fun y => y.1 == 0) = some (0, x) := by decide
theorem test_w_trace_read : let a : TraceArgs := { nCh := 1, div := 0, pre := 0, trig := 3, trigArg := 0, thresh := 0, nodes := [0] }
    let s := { up .service with conv := { (up .service).conv with trace := { state := .held, args := some a, samples := [(0, [0])] } } }
    (s.arrived 0).takes hd (.traceRead 0 1 1 1 0 noBuf) = true ∧ (s.arrived 0).conv.trace.state = .held ∧
    (0 : U32).toNat < s.conv.trace.samples.reverse.length ∧ (1 : U16).toNat < 2 ^ a.nCh.toNat ∧ bufBad noBuf 0x10 hd.path = none := by decide
theorem test_w_ack : ((up .service).arrived 0).takes hd (.eventAck 0 1 noBuf) = true ∧ seqLe 0 ((up .service).ev.nextSeq - 1) = true ∧
    seqLe 1 ((up .service).ev.nextSeq - 1) = false := by decide

/-! ### Firmware and clocks -/

theorem test_w_fw_write : let b : BufDesc := { addr := 0x1000, len := 0, kind := 1 }
    let u := ((up .service).arrived 0).hostPut b []
    u.takes hd (.fwUpdate 1 0 0 b []) = true ∧ u.pwr.warn = false ∧ b.len.toNat % 4096 = 0 ∧ b.host = .answers ∧ u.part.pcieUp = true ∧
    28672 * 1024 % 4096 = 0 := by decide
theorem test_w_fw : ((up .service).arrived 0).takes hd (.fwUpdate 2 0 0 noBuf []) = true ∧
    ((up .service).arrived 0).takes hd (.fwUpdate 5 0 0 noBuf []) = true ∧ ((up .commission).arrived 0).takes hd (.fwUpdate 3 0 0 noBuf []) = true ∧
    ((up .service).arrived 0).takes hd (.fwUpdate 4 0 0 noBuf []) = true ∧ (up .service).store.trial = false ∧
    (up .service).store.verified = false := by decide
theorem test_w_fw_states : let s (w v t : Bool) := { up .commission with
      pwr := { (up .commission).pwr with warn := w }, store := { (up .commission).store with verified := v, trial := t } }
    ((s true false false).arrived 0).takes hd (.fwUpdate 5 0 0 noBuf []) = true ∧
    ((s false true false).arrived 0).takes hd (.fwUpdate 3 0 0 noBuf []) = true ∧
    ((s false false true).arrived 0).takes hd (.fwUpdate 4 0 0 noBuf []) = true := by decide
theorem test_w_flash : let s (j : FwJob) := { withOp .flash (up .service) with store := { (up .service).store with job := some j } }
    (∀ j, ((s j).arrived 0).gaf.ops = [opOf .flash]) ∧ (opOf .flash).started = true ∧ (opOf .flash).wait = .flash ∧
    (s .erase).store.job = some .erase ∧ (s .verify).store.job = some .verify ∧ imageValid [] 0 true = false := ⟨fun _ => rfl, by decide⟩

/-- A DOMAIN record that leaves the servo to the host. -/
def hostDom (m : Mode) : State := up m [recOf 0x202 0 20 [0, 0, 0, 1]]
theorem test_w_increment : ((hostDom .service).arrived 0).takes hd (.timeIncrementWrite 0 0 0x100000000) = true ∧
    (hostDom .service).hostServo .a = true ∧ 0xFFBE76C9 ≤ (0xFFBE76C9 : U64).toNat ∧ (0x100418937 : U64).toNat ≤ 0x100418937 ∧
    (0xFFBE76C8 : U64).toNat < 0xFFBE76C9 ∧ 0x100418937 < (0x100418938 : U64).toNat ∧ (hostDom .service).hostServo .b = false := by decide
theorem test_w_increment_due : let s := { withOp (.increment .a) (up .service) with time := { (up .service).time with
      domA := { (up .service).time.domA with pend := some (0x100000000, 0) } } }
    (s.arrived 0).gaf.ops = [opOf (.increment .a)] ∧ ((s.arrived 0).time.dom .a).pend = some (0x100000000, 0) ∧
    0 ≤ ((s.arrived 0).time.dom .a).count ∧ ((s.arrived 0).time.dom .a).count < 1 := by decide
theorem test_w_step : ((hostDom .service).arrived 0).takes hd (.timeStep 0 0 0 1 0 0) = true ∧ (hostDom .service).time.src = .a ∧
    ((hostDom .commission).arrived 0).takes hd (.timeStep 0 1 0 1 0 0) = true := by decide

/-! ### Acquisition, set-points, traces, lanes, tasks, pair -/

/-- A device with group 0 of one segment. -/
def grpS (m : Mode) : State := up m [recOf 0x403 0 24 [1]]
theorem test_w_arm : let u := (grpS .service).arrived 0
    u.takes hd (.acqArm 1 0 0 0 none) = true ∧ u.takes hd (.acqArm 2 0 0 1 none) = true ∧ (u.rec? 0x403 0).isSome = true ∧
    u.gflag 0 1 = false ∧ u.now < 1 * 65536 ∧ 0 * 65536 ≤ u.now ∧ (u.grp 0).state = .idle ∧ u.pwr.stage < 2 ∧
    u.segToTake 0 = some (0, false) := by decide
theorem test_w_arm_full : (up .service [recOf 0x403 7 24 [0]]).segToTake 7 = none ∧
    (((up .service [recOf 0x403 7 24 [0]]).arrived 0).takes hd (.acqArm 1 7 0 0 none) = true) := by decide
theorem test_w_armed : let s := { grpS .service with acq := { (grpS .service).acq with groups := [(0, { state := .parison })] } }
    (s.arrived 0).takes hd (.acqArm 1 0 0 0 none) = true ∧ ((s.arrived 0).grp 0).state ≠ .idle ∧
    (s.arrived 0).takes hd (.acqArm 3 0 0 0 none) = true ∧ (s.arrived 0).takes hd (.acqArm 4 0 0 0 none) = true := by decide
theorem test_w_skew : let u := (grpS .service).arrived 0
    u.takes hd (.acqArm 5 0 0 0 none) = true ∧ (u.grpChans 0).length ≤ 5 ∧ u.cascadeTrigs 0 = [] ∧ u.segToTake 0 = some (0, false) := by decide
theorem test_w_arm_effect : let s := withOp (.arm 0) (grpS .service) (.acqArm 1 0 0 0 none)
    (s.arrived 0).gaf.ops = [opOf (.arm 0) (.acqArm 1 0 0 0 none)] ∧ (s.arrived 0).gflag 0 1 = false ∧ ((s.arrived 0).grp 0).pendArm = [] ∧
    0 * 65536 ≤ (s.arrived 0).now ∧ (s.arrived 0).now < 1 * 65536 := by decide

/-- A device with converter 0 on. -/
def convS (m : Mode) : State := up m [recOf 0x701 0 64 [1]]
/-- A set-point of 0 for quantity 0. -/
def sp (c q : Byte) : SetPointArgs := { conv := c, qty := q, apply := 0, value := 0, event := 0, slope := 0, tApply := 0 }
theorem test_w_setpoint : let u := (convS .service).arrived 0
    u.takes hd (.convSetpoint 0 (sp 0 3)) = true ∧ (u.cvRec 0).isSome = true ∧ fpNonNeg (sp 0 3).slope = true ∧
    Fp.le (Fp.abs 0) (limitOf u.cfg 0 3) = true ∧ Fp.isFinite 0 = true ∧ Fp.isFinite 0x7F800000 = false := by decide
theorem test_w_block : let u := (convS .service).arrived 0
    u.takes hd (.convSetpoint 2 (sp 0 0)) = true ∧ u.takes hd (.convSetpoint 1 (sp 0 0)) = true ∧ (u.cv 0).deblock = none ∧
    (u.deblockBad 0 (zeros 64)).isSome = true := by decide
theorem test_w_set_effect : let w : PendSet := { qty := 0, target := 0, slope := 0, at_ := 0, event := none, op := 3 }
    let s := { withOp (.setpoint 0 0) (convS .service) with conv := { convs := [(0, { pend := [w], st := { cause := 0 } })] } }
    ((s.arrived 0).cv 0).pend = [w] ∧ w.op = (opOf (.setpoint 0 0)).seq ∧ ((s.arrived 0).cv 0).st.cause = 0 ∧ w.at_ ≤ outerStart (s.arrived 0).now ∧
    ((s.arrived 0).cv 0).openAt ≤ outerStart (s.arrived 0).now := by decide
theorem test_w_deblock_effect : let w : PendSet := { qty := 0, target := 0, slope := 0, at_ := 0, event := none, op := 3 }
    let s := { withOp (.deblock 0) (convS .service) with conv := { convs := [(0, { deblock := some w, released := true })] } }
    ((s.arrived 0).cv 0).deblock = some w ∧ ((s.arrived 0).cv 0).released = true ∧ w.at_ ≤ (s.arrived 0).now := by decide

/-- Arguments of a trace of one node, at its least and its largest PRE. -/
def tr (pre : U32) : TraceArgs := { nCh := 1, div := 0, pre, trig := 3, trigArg := 0, thresh := 0, nodes := [0x01000000] }
/-- Arguments that DISARM and FORCE take. -/
def trNone : TraceArgs := { nCh := 0, div := 0, pre := 0, trig := 0, trigArg := 0, thresh := 0, nodes := [] }
theorem test_w_trace : let u := (convS .service).arrived 0
    u.takes hd (.traceConfigure 1 (tr 65535)) = true ∧ u.conv.trace.state = .idle ∧ nodeOk u.cfg 0x01000000 = true ∧ (tr 65535).pre.toNat ≤ 65535 ∧
    u.takes hd (.traceConfigure 2 trNone) = true ∧ u.takes hd (.traceConfigure 3 trNone) = true := by decide
theorem test_w_trace_busy : let s := { convS .service with conv := { (convS .service).conv with trace := { state := .armed } } }
    (s.arrived 0).takes hd (.traceConfigure 1 (tr 0)) = true ∧ (s.arrived 0).conv.trace.state ≠ .idle := by decide

/-- A device with lane 0 on, which may sleep. -/
def laneS : State := up .service [recOf 0x801 0 16 [1, 0, 1, 0]]
theorem test_w_lane_bad : ((up .service).arrived 0).takes hd (.valveSleep 1 0) = true ∧ ((up .service).arrived 0).takes hd (.valveWake 1 0 0 0 0) = true ∧
    (((up .service).arrived 0).laneRec 0).any sleepEn = false ∧ bitOf (1 : U32).toNat 0 = true := by decide
theorem test_w_lane : (laneS.arrived 0).takes hd (.valveSleep 0 0) = true ∧ (laneS.arrived 0).takes hd (.valveWake 0 0 0 0 0) = true ∧
    (∀ n, n < 32 → bitOf (0 : U32).toNat n = true → ((laneS.arrived 0).laneRec n).any sleepEn = true) := by decide

/-- A device with logic task 0 on. -/
def taskS : State := up .service [recOf 0x901 0 24 [1]]
theorem test_w_task : (taskS.arrived 0).takes hd (.logicRun 1 1 0) = true ∧ (taskS.arrived 0).fld 0x901 0 0 (·.u8 0) = 1 ∧
    (taskS.arrived 0).takes hd (.logicStop 1 0 0) = true ∧ (taskS.arrived 0).takes hd (.logicRun 128 0 0) = true ∧
    (taskS.arrived 0).fld 0x901 7 0 (·.u8 0) ≠ 1 := by decide

theorem test_w_pair : let u := (up .service).arrived 0
    u.takes hd (.pairRevert 1 0) = true ∧ u.takes hd (.pairRevert 2 0) = true ∧ u.takes hd (.pairRevert 3 0) = true ∧ u.paired = false := by decide
theorem test_w_timeout : let s := withOp (.host 0) (up .service)
    (s.arrived 0).gaf.ops = [opOf (.host 0)] ∧ (opOf (.host 0)).cmd.outBuf = none ∧ (s.arrived 0).now < 0 + 655360000000 ∧
    0 + 655360000000 ≤ (({ s with time := { s.time with domA := { s.time.domA with count := 655360000000 * 65536 } } } : State).arrived 0).now := by
  decide

/-! ### Registers, vectors, resets, batches -/

theorem test_w_bar : ((up .service).arrived 0).barUp = true ∧ State.reset.barUp = false ∧ ((up .service).mb 15).busy = false ∧
    (up .service).isMoe 15 = false ∧ 16 ≤ (4096 : U32).toNat % 8192 ∧ (4096 : U32).toNat % 8192 ≤ 4096 ∧ (4096 : U32).toNat % 16 = 0 ∧
    (up .service).gaf.ops = [] := by decide
theorem test_w_cons : (({ prod := 64 } : Mailbox).prod - (0 : U32)).toNat ≤ 64 ∧ 64 < (({ prod := 64 } : Mailbox).prod - (65 : U32)).toNat := by decide
theorem test_w_ports : (15 : Nat) < numPorts false ∧ numPorts true ≤ (8 : Nat) := by decide
theorem test_w_msix_window : 0x8000 ≤ (0x8000 : BitVec 18).toNat ∧ (0x8118 : BitVec 18).toNat ≤ 0x811F ∧ (0x8118 : BitVec 18).toNat % (64 / 8) = 0 ∧
    ¬ (0x8000 ≤ (0x8120 : BitVec 18).toNat ∧ (0x8120 : BitVec 18).toNat ≤ 0x811F) := by decide
theorem test_w_internal : ({ State.reset with pwr := { rails := List.replicate 7 { level := 0 } } } : State).railsFail = true := by decide
theorem test_w_boot_due : let s := { up .service with gaf := { (up .service).gaf with bootAt := some 0 } }
    (s.arrived 0).gaf.bootAt = some 0 ∧ 0 ≤ (s.arrived 0).now ∧ (s.arrived 0).now < 1 ∧ (s.arrived 0).part.porLow = false := by decide
theorem test_w_release : (State.reset.arrived 0).part.inReset = true ∧ (State.reset.arrived 0).pwr.internalReset = false ∧
    (State.reset.arrived 0).part.porLow = true := by decide
theorem test_w_fw_loaded : let s := { up .boot with part := { (up .boot).part with bootStep := 1 } }
    (s.arrived 0).part.bootStep = 1 ∧ imageValid (s.store.image true) s.store.otpSec true = false ∧
    imageValid (s.store.image false) s.store.otpSec false = false := by decide
theorem test_w_boot_done : let s := { up .boot with part := { (up .boot).part with bootStep := 2 } }
    (s.arrived 0).part.bootStep = 2 ∧ (s.arrived 0).cfgBank = none ∧ (s.arrived 0).cfgValid = false := by decide
theorem test_w_pcie_reset : ((up .service).arrived 0).part.inReset = false ∧ ((up .service).arrived 0).gaf.ops = [] ∧
    (((up .service).arrived 0).mbx.any fun m => m.2.held.any (·.boot)) = false := by decide
theorem test_w_pass : ((up .service).arrived 0).gafferUp = true ∧ State.reset.gafferUp = false := by decide
/-- A command half that holds STATUS_GET with tag 5, rung. -/
def rung : State := { up .service with mbx := [(0, { busy := true, bytes := 16, half := [(0, 4), (2, 5)] })] }
theorem test_w_batch : (rung.arrived 0).batchOf 0 = [{ h := { mb := 0, tag := 5 }, cmd := .statusGet }] ∧
    (rung.arrived 0).batchOf 15 = [] ∧ (rung.arrived 0).tagInFlight 5 = false := ⟨rfl, rfl, by decide⟩

end Sys2Proof.Tests
end

section
/-!
PROOF. Every command on a unit of the part goes on, and a queue of such commands runs to its end (R2): what a step does to the queue and
the part, and the induction over the queue.
-/
namespace Sys2Proof.Machine

/-- The meaning of every command on a unit that the part has is one run: time passes, its effect happens, it is closed. -/
theorem exec_provided (i : Instr) (s : State) (h : Instr.provided s.part.reduced i = true) :
    ∃ dt f, exec i s = .next (State.run dt f s) := by
  cases i with
  | executionComplete dt eng inst rerun upset =>
    have unit : ¬ (s.isL && decide (32 ≤ eng.val)) = true := by simpa [Instr.provided, State.isL, Decidable.imp_iff_not_or] using h
    exact ⟨dt, State.executionComplete eng.val inst.val rerun upset, if_neg unit⟩
  | acqOutput dt ch =>
    have unit : ¬ (s.isL && decide (16 ≤ ch.val)) = true := by simpa [Instr.provided, State.isL, Decidable.imp_iff_not_or] using h
    exact ⟨dt, State.outOfReset fun s => (s.acqOutput ch.val).settleOut, if_neg unit⟩
  | _ => exact ⟨_, _, rfl⟩

/-- A report of a unit that the part lacks stops (R2). -/
theorem exec_notProvided (i : Instr) (s : State) (h : Instr.provided s.part.reduced i = false) : exec i s = .fault .notProvided := by
  unfold Instr.provided at h
  split at h
  · exact if_pos (by simpa [State.isL] using h)
  · exact if_pos (by simpa [State.isL] using h)
  · exact nomatch h

/-- A command on a unit that the part has takes the front of the queue off and leaves the part what it is. -/
theorem step_provided (c : Instr) (q : List Instr) (s : State) (hq : s.pending = c :: q) (h : Instr.provided s.part.reduced c = true) :
    ∃ t, step s = .next t ∧ t.pending = q ∧ t.part.reduced = s.part.reduced ∧ t.part.serial = s.part.serial := by
  obtain ⟨dt, f, e⟩ := exec_provided c { s with pending := q } h
  refine ⟨State.run dt f { s with pending := q }, ?_, State.closed_pending _ _, State.closed_part_reduced _ _, State.closed_part_serial _ _⟩
  unfold step
  rw [hq]
  exact e

/-- The first of several steps, where it goes on. -/
theorem runFor_succ (n : Nat) {s t : State} (h : step s = .next t) : runFor (n + 1) s = runFor n t := by
  simp only [runFor, h]

/-- A queue of commands on units of the part is carried out to its end. -/
theorem runFor_queue (q : List Instr) (s : State) (hq : s.pending = q) (h : ∀ i ∈ q, Instr.provided s.part.reduced i = true) :
    ∃ t, runFor q.length s = .next t ∧ t.pending = [] ∧ t.part.reduced = s.part.reduced ∧ t.part.serial = s.part.serial := by
  induction q generalizing s with
  | nil => exact ⟨s, rfl, hq, rfl, rfl⟩
  | cons c q ih =>
    obtain ⟨t, first, pending, reduced, serial⟩ := step_provided c q s hq (h c List.mem_cons_self)
    obtain ⟨u, rest, empty, reduced', serial'⟩ := ih t pending fun i m => reduced ▸ h i (List.mem_cons_of_mem c m)
    exact ⟨u, (runFor_succ q.length first).trans rest, empty, reduced'.trans reduced, serial'.trans serial⟩

/-- Settles O3: every meaning is a run, but for the two rows that ask for a unit first (R2). -/
theorem everyCommandGoesOn : Obligations.EveryCommandGoesOn := by
  intro i s
  refine ⟨fun h => ?_, exec_notProvided i s⟩
  obtain ⟨dt, f, e⟩ := exec_provided i s h
  exact ⟨State.run dt f s, e⟩

/-- Settles O6, by induction on the queue. -/
theorem queueRunsToItsEnd : Obligations.QueueRunsToItsEnd := fun s => runFor_queue s.pending s rfl

end Sys2Proof.Machine
end

section
/-!
PROOF. When a tick or fast cycle does its work, a tracker changes its state, a firing reaches its target and an event of the Marver fires
(R9, R90, R107, R114 to R117): one lemma for each case of each effect, and the statement from them.
-/
namespace Sys2Proof.Machine

/-- What a meaning answers where its effect is known. -/
theorem goOn_of_eq {dt : Nat} {f : State → State} {s t : State} (h : f (s.arrived dt) = t) : goOn dt f s = .next (s.closed t) := by
  rw [goOn_eq, h]

/-! ### Ticks and fast cycles (R9, R90, R107) -/

/-- A rate that is not committed, or whose second has not come, changes nothing (R108). -/
theorem State.rateSwitch_idle (s : State)
    (h : s.time.rateNew = none ∨ ∃ r sec, s.time.rateNew = some (r, sec) ∧ s.now < sec * secF) : s.rateSwitch = s := by
  unfold State.rateSwitch
  obtain h | ⟨r, sec, h, early⟩ := h
  · rw [h]
  · rw [h]; exact if_pos early

/-- At a fixed rate the numbers of ticks rise with their order. -/
theorem tickNum_lt_of_tickLt (r : Nat) (a b : Nat × Nat) (h : tickLt a b = true) (ha : a.2 < r) : tickNum r a < tickNum r b := by
  have order : a.1 < b.1 ∨ a.1 = b.1 ∧ a.2 < b.2 := by simpa [tickLt] using h
  unfold tickNum
  obtain sec | ⟨sec, num⟩ := order
  · have := Nat.mul_le_mul_right r (Nat.succ_le_of_lt sec)
    rw [Nat.succ_mul] at this
    omega
  · rw [sec]; omega

theorem State.latticeTick_inReset (s : State) (reset : s.part.inReset = true) : s.latticeTick = s := if_pos reset

/-- Out of reset, with no rate to take, a tick is held only against the last one produced. -/
theorem State.latticeTick_running (s : State) (run : s.part.inReset = false) (idle : s.rateSwitch = s) :
    s.latticeTick = if (s.time.tick.any fun l => !tickLt l s.tick) = true then s
      else (State.tickWork s.tick { s with time := { s.time with tick := some s.tick } }).settleOut := by
  unfold State.latticeTick
  rw [run, idle]
  rfl

/-- A tick that has been produced, or lies before one that has, is not produced again. -/
theorem State.latticeTick_produced (s : State) (l : Nat × Nat) (run : s.part.inReset = false) (idle : s.rateSwitch = s)
    (last : s.time.tick = some l) (le : tickNum s.rate s.tick ≤ tickNum s.rate l) (hl : l.2 < s.rate) : s.latticeTick = s := by
  have held : tickLt l s.tick = false := Bool.eq_false_iff.mpr fun lt =>
    absurd (tickNum_lt_of_tickLt s.rate l s.tick lt hl) (Nat.not_lt.mpr le)
  rw [State.latticeTick_running s run idle, last]
  exact if_pos (by simp [held])

/-- A tick after the last one is noted and does its work. -/
theorem State.latticeTick_new (s : State) (run : s.part.inReset = false) (idle : s.rateSwitch = s)
    (new : ∀ l, s.time.tick = some l → l.1 < s.tick.1 ∨ (l.1 = s.tick.1 ∧ l.2 < s.tick.2)) :
    s.latticeTick = (State.tickWork s.tick { s with time := { s.time with tick := some s.tick } }).settleOut := by
  rw [State.latticeTick_running s run idle]
  refine if_neg ?_
  rw [Option.any_eq_true]
  rintro ⟨l, last, held⟩
  rw [tickLt_yes l s.tick (new l last)] at held
  exact nomatch held

theorem State.fastCycle_inReset (s : State) (reset : s.part.inReset = true) : s.fastCycle = s.heartbeat s.cycle := if_pos reset

/-- Out of reset a fast cycle is held only against the last one produced. -/
theorem State.fastCycle_running (s : State) (run : s.part.inReset = false) :
    s.fastCycle = if (s.time.fast.any fun l => decide (cycleNum s.cycle ≤ cycleNum l)) = true then s
      else (State.cycleWork s.cycle { s with time := { s.time with fast := some s.cycle } }).settleOut := by
  unfold State.fastCycle
  rw [run]
  rfl

/-- A fast cycle that has been produced, or lies before one that has, is not produced again. -/
theorem State.fastCycle_produced (s : State) (l : Nat × Nat) (run : s.part.inReset = false) (last : s.time.fast = some l)
    (le : cycleNum s.cycle ≤ cycleNum l) : s.fastCycle = s := by
  rw [State.fastCycle_running s run, last]
  exact if_pos (by simp [le])

/-- A fast cycle after the last one is noted and does its work. -/
theorem State.fastCycle_new (s : State) (run : s.part.inReset = false)
    (new : ∀ l, s.time.fast = some l → cycleNum l < cycleNum s.cycle) :
    s.fastCycle = (State.cycleWork s.cycle { s with time := { s.time with fast := some s.cycle } }).settleOut := by
  rw [State.fastCycle_running s run]
  refine if_neg ?_
  rw [Option.any_eq_true]
  rintro ⟨l, last, le⟩
  exact absurd (new l last) (Nat.not_lt.mpr (of_decide_eq_true le))

/-! ### Trackers (R114) -/

theorem State.trackerLock_locks (n : Nat) (t : Fine) (s : State) (locking : (s.tracker n).state = .locking)
    (within : (s.tracker n).within = some t) (due : t + 100000000 * nsF ≤ s.now) :
    s.trackerLock n = { s with trk := s.trk.put n { s.tracker n with state := .locked } } := by
  unfold State.trackerLock
  dsimp only
  rw [locking, any_past _ _ _ t within due]
  rfl

theorem State.trackerLock_stays (n : Nat) (s : State)
    (h : (s.tracker n).state ≠ .locking ∨ ∀ t, (s.tracker n).within = some t → s.now < t + 100000000 * nsF) : s.trackerLock n = s := by
  unfold State.trackerLock
  refine if_neg ?_
  obtain other | early := h
  · simp [other]
  · rw [any_early _ _ _ early, Bool.and_false]
    exact Bool.false_ne_true

theorem State.coastExpiry_expires (n : Nat) (b : Bytes) (s : State) (rec : s.rec? 0x207 n = some b) (coast : (s.tracker n).state = .coast)
    (due : (s.tracker n).since + b.u16 0x12 * 1000000 * nsF ≤ s.now) :
    s.coastExpiry n = { s with trk := s.trk.put n { s.tracker n with state := .unlocked, freq := trkNominal b } } := by
  unfold State.coastExpiry
  rw [rec]
  dsimp only
  rw [coast, decide_eq_true due]
  rfl

theorem State.coastExpiry_stays (n : Nat) (b : Bytes) (s : State) (rec : s.rec? 0x207 n = some b)
    (h : (s.tracker n).state ≠ .coast ∨ s.now < (s.tracker n).since + b.u16 0x12 * 1000000 * nsF) : s.coastExpiry n = s := by
  unfold State.coastExpiry
  rw [rec]
  refine if_neg ?_
  obtain other | early := h
  · simp [other]
  · simp [early]

/-! ### Firings (R116, R117) -/

theorem State.marverFire_empty (s : State) (h : s.mar.queue = []) : s.marverFire = s := by
  unfold State.marverFire
  rw [h]

/-- A firing waits until its stamp has come. -/
theorem State.marverFire_waits (f : Firing) (q : List Firing) (s : State) (h : s.mar.queue = f :: q)
    (w : s.now < f.stamp ∨ s.part.inReset = true) : s.marverFire = s := by
  unfold State.marverFire
  rw [h]
  exact if_pos (by simpa using w)

/-- The first firing is delivered once its stamp has come. -/
theorem State.marverFire_due (f : Firing) (q : List Firing) (s : State) (h : s.mar.queue = f :: q) (due : f.stamp ≤ s.now)
    (run : s.part.inReset = false) : s.marverFire = State.deliverFiring f { s with mar := { s.mar with queue := q } } := by
  unfold State.marverFire
  rw [h]
  exact if_neg (by simp [due, run])

theorem State.deliverFiring_noRecord (f : Firing) (s : State) (h : s.rec? 0x208 f.event = none) : State.deliverFiring f s = s := by
  unfold State.deliverFiring
  rw [h]

/-- TARGET 1 is a pulse output, which takes the edge where its source is the Marver. -/
theorem State.deliverFiring_pulse (f : Firing) (b : Bytes) (s : State) (rec : s.rec? 0x208 f.event = some b) (kind : b.u8 2 = 1) :
    State.deliverFiring f s = if s.fld 0x206 (b.u8 3) 0 (·.u8 0) = 5 then
      { s with time := { s.time with pulses := s.time.pulses.modify { } (b.u8 3) fun p => { p with marver := f.stamp :: p.marver } } }
      else s := by
  unfold State.deliverFiring
  rw [rec]
  dsimp only
  rw [kind]
  rfl

/-- The other targets. -/
theorem State.deliverFiring_other (f : Firing) (b : Bytes) (s : State) (rec : s.rec? 0x208 f.event = some b) :
    (b.u8 2 = 2 → State.deliverFiring f s = s.fireExternal 4 (2 ^ b.u8 3) f.stamp) ∧
    (b.u8 2 = 4 → State.deliverFiring f s = s.convEvent (b.u8 3) f.stamp) ∧
    (b.u8 2 = 5 → State.deliverFiring f s = s.flagFiring (b.u8 3) f.stamp) ∧
    (b.u8 2 ∈ [3, 6] → State.deliverFiring f s = s) := by
  unfold State.deliverFiring
  rw [rec]
  dsimp only
  refine ⟨fun kind => ?_, fun kind => ?_, fun kind => ?_, fun kind => ?_⟩
  · rw [kind]; rfl
  · rw [kind]; rfl
  · rw [kind]; rfl
  · obtain kind | kind : b.u8 2 = 3 ∨ b.u8 2 = 6 := by simpa using kind
    · rw [kind]; rfl
    · rw [kind]; rfl

/-! ### Marver events (R115, R117) -/

/-- An event that is off, has yet to take effect, or whose angle lies outside the window does nothing. -/
theorem State.marverEvent_misses (c : Nat × Nat) (win : Table (U32 × Nat)) (n : Nat) (b : Bytes) (v : State)
    (h : (v.mar? n).emode = 0 ∨ cycleStart c < (v.mar? n).from_ ∨
      (win.get (0, 0) (b.u8 0)).2 ≤ (BitVec.ofNat 32 (b.u32 8) - (win.get (0, 0) (b.u8 0)).1).toNat) :
    v.marverEvent c win (n, b) = v := by
  unfold State.marverEvent
  refine if_pos ?_
  simpa [or_assoc] using h

/-- An event whose angle the window holds: what becomes of it, and that the queue stands where it does not fire (in mode 2
it fires at count 0 alone). -/
theorem State.marverEvent_hits (c : Nat × Nat) (win : Table (U32 × Nat)) (n : Nat) (b : Bytes) (v : State)
    (on : (v.mar? n).emode ≠ 0) (effect : (v.mar? n).from_ ≤ cycleStart c)
    (inside : (BitVec.ofNat 32 (b.u32 8) - (win.get (0, 0) (b.u8 0)).1).toNat < (win.get (0, 0) (b.u8 0)).2) :
    let e := v.mar? n
    let fires := e.emode != 2 || e.count = 0
    (v.marverEvent c win (n, b)).mar? n = { e with
      count := if e.emode = 2 then (e.count + 1) % max 1 (b.u16 4) else e.count
      emode := if e.emode = 3 then 0 else e.emode
      firings := if fires then satAdd 32 e.firings 1 else e.firings } ∧
    (fires = false → (v.marverEvent c win (n, b)).mar.queue = v.mar.queue) := by
  have taken : ¬ (decide ((v.mar? n).emode = 0) || decide (cycleStart c < (v.mar? n).from_) ||
      !decide ((BitVec.ofNat 32 (b.u32 8) - (win.get (0, 0) (b.u8 0)).1).toNat < (win.get (0, 0) (b.u8 0)).2)) = true := by
    rw [decide_eq_false on, decide_eq_false (Nat.not_lt.mpr effect), decide_eq_true inside]
    decide
  unfold State.marverEvent
  dsimp only
  rw [if_neg taken]
  exact ⟨Table.get_put_self .., fun quiet => if_neg (by rw [quiet]; exact Bool.false_ne_true)⟩

/-- Settles O52, clause by clause from what each row does on the state at its instant (`goOn_of_eq`). -/
theorem ticksCyclesAndFirings : Obligations.TicksCyclesAndFirings := by
  refine ⟨?ticks, ?trackers, ?firings, ?events⟩
  case ticks =>
    intro dt s u k n stays
    refine ⟨fun reset => ⟨goOn_of_eq (u.latticeTick_inReset reset), goOn_of_eq (u.fastCycle_inReset reset)⟩,
      fun run pending => ?_, fun run => ?_⟩
    · have idle := u.rateSwitch_idle pending
      exact ⟨fun l last le hl _ => goOn_of_eq (u.latticeTick_produced l run idle last le hl),
        fun new => goOn_of_eq (u.latticeTick_new run idle new)⟩
    · exact ⟨fun l last le => goOn_of_eq (u.fastCycle_produced l run last le),
        fun new => goOn_of_eq (u.fastCycle_new run new)⟩
  case trackers =>
    intro dt i b s u x put stays
    exact ⟨fun t locking within due => goOn_of_eq (u.trackerLock_locks i.val t locking within due),
      fun h => goOn_of_eq (u.trackerLock_stays i.val h),
      fun rec coast due => goOn_of_eq (u.coastExpiry_expires i.val b rec coast due),
      fun rec h => goOn_of_eq (u.coastExpiry_stays i.val b rec h)⟩
  case firings =>
    intro dt f q b s u v arg
    refine ⟨fun empty => goOn_of_eq (u.marverFire_empty empty), fun head w => goOn_of_eq (u.marverFire_waits f q head w),
      fun head due run => ?_⟩
    have fired : ∀ {t}, State.deliverFiring f v = t → exec (.marverFiring dt) s = .next (s.closed t) :=
      fun h => goOn_of_eq ((u.marverFire_due f q head due run).trans h)
    refine ⟨fun absent => fired (v.deliverFiring_noRecord f absent), fun rec => ?_⟩
    obtain ⟨external, conv, flag, other⟩ := State.deliverFiring_other f b v rec
    exact ⟨fun kind src => fired ((State.deliverFiring_pulse f b v rec kind).trans (if_pos src)),
      fun kind src => fired ((State.deliverFiring_pulse f b v rec kind).trans (if_neg src)),
      fun kind => fired (external kind), fun kind => fired (conv kind), fun kind => fired (flag kind), fun kind => fired (other kind)⟩
  case events =>
    intro c win n b v e w ev after
    refine ⟨v.marverEvent_misses c win n b, fun on effect inside => ?_⟩
    obtain ⟨event, queue⟩ := v.marverEvent_hits c win n b on effect inside
    have event : after.mar? n = _ := event
    rw [event]
    refine ⟨fun mode => ?_, fun mode => ?_, fun mode => ?_, fun mode counting => ?_⟩
    · simp [e, show (v.mar? n).emode = 3 from mode]
    · simp [e, show (v.mar? n).emode = 1 from mode]
    · simp [e, show (v.mar? n).emode = 2 from mode]
    · exact queue (by simp [show (v.mar? n).emode = 2 from mode, show (v.mar? n).count ≠ 0 from counting])

end Sys2Proof.Machine
end

section
/-!
PROOF. The operating modes (R33 to R36, R66, R67): what MODE_SET answers, what the way to SERVICE asks for, and how a pending mode
takes effect.
-/
namespace Sys2Proof.Machine

/-! ### MODE_SET (R66, R67) -/

/-- A command that came alone is no MODE_SET that waits: it has yet to start. -/
theorem State.begun_noModeWaits (h : CmdHead) (c : HostCmd) (u : State) :
    ((u.begun h c).gaf.ops.find? fun o => o.wait == .mode && o.started && o.outcome.isNone) = none := rfl

/-- The fields of a MODE_SET that names a mode, with flag 0 at most and reserved bytes 0, pass. -/
theorem modeSet_fieldsOk {mode fl : Byte} {rsv : U16} {m : Mode} (code : Mode.ofCode mode.toNat = some m) (flags : fl.toNat < 2)
    (zero : rsv = 0) : firstBad [(0, (Mode.ofCode mode.toNat).isSome), (1, onlyBits 1 fl.toNat), (2, rsv == 0)] = none := by
  have bit : onlyBits 1 fl.toNat = true := by
    obtain f | f : fl.toNat = 0 ∨ fl.toNat = 1 := by omega
    · rw [f]; rfl
    · rw [f]; rfl
  rw [code, bit, zero]
  rfl

section
variable {h : CmdHead} {mode fl : Byte} {rsv : U16} {m : Mode} (u : State)

/-- MODE_SET BOOT is answered with the instant of the reset, whatever is pending. -/
theorem State.modeSet_boot (c : HostCmd) (code : Mode.ofCode mode.toNat = some .boot) (flags : fl.toNat < 2) (zero : rsv = 0) :
    (u.begun h c).modeSet mode fl rsv = (u.begun h c, okWith (leBytes 8 ((u.begun h c).now / 65536 + 100000))) := by
  unfold State.modeSet
  rw [State.begun_noModeWaits, modeSet_fieldsOk code flags zero, code]
  rfl

/-- A MODE_SET to the mode in force is answered with the instant since when it is. -/
theorem State.modeSet_inForce (c : HostCmd) (code : Mode.ofCode mode.toNat = some m) (flags : fl.toNat < 2) (zero : rsv = 0)
    (other : m ≠ .boot) (same : m = (u.begun h c).gaf.mode) :
    (u.begun h c).modeSet mode fl rsv = (u.begun h c, okWith (leBytes 8 (u.begun h c).gaf.since)) := by
  unfold State.modeSet
  rw [State.begun_noModeWaits, modeSet_fieldsOk code flags zero, code]
  simp [other, ← same]

/-- With no change pending, a MODE_SET to another mode is answered by the table and the conditions of R33 and R67. -/
theorem State.modeSet_other (c : HostCmd) (code : Mode.ofCode mode.toNat = some m) (flags : fl.toNat < 2) (zero : rsv = 0)
    (other : m ≠ .boot) (new : m ≠ (u.begun h c).gaf.mode) (free : (u.begun h c).gaf.pend = none) :
    (∀ d, (u.begun h c).modeRefused m (fl.getLsbD 0) = some d → (u.begun h c).modeSet mode fl rsv = (u.begun h c, wrongMode d)) ∧
    ((u.begun h c).modeRefused m (fl.getLsbD 0) = none →
      (m = .safeHold → (u.begun h c).modeSet mode fl rsv = ((u.begun h c).requestSafe .modeSet, .wait .mode)) ∧
      (m ≠ .safeHold → (u.begun h c).paired = false → (u.begun h c).modeSet mode fl rsv =
        ((u.begun h c).pendMode m .host, .wait .mode))) := by
  have bit : bitOf fl.toNat 0 = fl.getLsbD 0 := rfl
  unfold State.modeSet
  rw [State.begun_noModeWaits, modeSet_fieldsOk code flags zero, code, free, bit]
  simp only [Option.getD_some, beq_eq_false_iff_ne.mpr other, beq_eq_false_iff_ne.mpr new, Option.any_none, Bool.false_eq_true, if_false]
  refine ⟨fun d refused => by rw [refused], fun permitted => ⟨fun safe => ?_, fun safe alone => ?_⟩⟩
  · rw [permitted, safe]; rfl
  · rw [permitted, alone]
    simp only [beq_eq_false_iff_ne.mpr safe, Bool.false_eq_true, if_false, Bool.false_and]
    rfl

end

/-- SAFE_HOLD that is asked for in a mode other than BOOT and SAFE_HOLD pends for the next tick, where nothing is pending and no
MODE_SET loses to it. -/
theorem State.requestSafe_pends (cause : SafeCause) (v : State) (run : v.part.inReset = false) (boot : v.gaf.mode ≠ .boot)
    (rom : v.gaf.romHold = false) (safe : v.gaf.mode ≠ .safeHold) (free : v.gaf.pend = none) (keep : v.preempt .safeHold = v) :
    v.requestSafe cause = v.pendMode .safeHold (.safe cause) := by
  unfold State.requestSafe
  rw [if_neg (by simp [run, boot, rom]), if_neg (by simpa using safe), keep]
  dsimp only
  rw [free]

/-- Settles O15: the command is carried out alone, and each case of MODE_SET is one answer. -/
theorem modeSetPends : Obligations.ModeSetPends := by
  intro dt h mode fl rsv m s c b takes code flags zero
  have carried : b.carryOut ((s.arrived dt).opFor h c) = b.modeSet mode fl rsv := rfl
  refine ⟨fun boot => ?_, fun other same => ?_, fun other new free => ?_⟩
  · subst boot
    exact State.goOn_ends dt h c s _ _ _ _ _ (fun b => b) takes (carried.trans (State.modeSet_boot _ c code flags zero)) rfl
  · exact State.goOn_ends dt h c s _ _ _ _ _ (fun b => b) takes (carried.trans (State.modeSet_inForce _ c code flags zero other same)) rfl
  · obtain ⟨refused, permitted⟩ := State.modeSet_other _ c code flags zero other new free
    refine ⟨fun ok safe alone => ?_, fun ok safe boot rom run => ?_, fun d no => ?_⟩
    · exact State.goOn_waits dt h c s .mode _ takes (carried.trans ((permitted ok).2 safe alone)) (by decide) rfl
    · have pends := State.requestSafe_pends .modeSet b run boot rom (safe ▸ new.symm) free rfl
      exact State.goOn_waits dt h c s .mode _ takes
        (carried.trans (((permitted ok).1 safe).trans (congrArg (·, Reply.wait .mode) pends))) (by decide) rfl
    · exact State.goOn_ends dt h c s _ _ _ _ _ (fun b => b) takes (carried.trans (refused d no)) rfl

/-! ### The way to SERVICE (R33, R67) -/

/-- Settles O16: from COMMISSION the table permits SERVICE, and the conditions follow in their order. -/
theorem serviceNeedsItsConditions : Obligations.ServiceNeedsItsConditions := by
  intro ov s commission
  unfold State.modeRefused
  rw [commission]
  cases s.cfgValid with
  | false => rfl
  | true =>
    cases s.place.proven with
    | false => rfl
    | true =>
      cases s.timeSync with
      | false => rfl
      | true => rfl

/-! ### A pending mode takes effect (R34, R35, R66) -/

/-- With nothing in flight nothing that waits can end. -/
theorem State.finishWaiting_idle (p : Op → Bool) (f : Op → Result × Nat × Bytes) (s : State) (h : s.gaf.ops = []) :
    s.finishWaiting p f = s := by
  unfold State.finishWaiting
  rw [h]
  rfl

/-- SERVICE noted as the mode in force and told by EV_MODE, before the outputs follow. -/
def State.serviceNoted (p : PendMode) (s : State) : State :=
  State.evMode s.gaf.mode .service p.cause p.at_ (s.modGaf fun g =>
    { g with mode := .service, pend := none, since := p.at_ / nsF, safeCause := p.cause, powerDriven := p.cause == .power })

/-- SERVICE entered from COMMISSION, TEST or STANDBY with nothing in flight: it is noted, and the outputs follow. -/
theorem State.enterMode_service (p : PendMode) (s : State) (idle : s.gaf.ops = []) (service : p.mode = .service)
    (old : s.gaf.mode = .commission ∨ s.gaf.mode = .test ∨ s.gaf.mode = .standby) : s.enterMode p = (s.serviceNoted p).outputs := by
  have idle : (s.serviceNoted p).outputs.gaf.ops = [] := (congrArg Gaffer.ops (s.serviceNoted p).outputs_gaf).trans idle
  unfold State.serviceNoted at idle ⊢
  unfold State.enterMode
  rw [service]
  obtain old | old | old := old
  all_goals
    rw [old] at idle ⊢
    exact (congrArg (State.finishWaiting _ fun _ => (.ok, 0, leBytes 8 (p.at_ / nsF))) (State.preempt_idle .service _ idle)).trans
      (State.finishWaiting_idle (fun o => o.wait == .mode) _ _ idle)

/-- Settles O17: a pending mode is held until its tick, and SERVICE is entered then. -/
theorem modeTakesEffect : Obligations.ModeTakesEffect := by
  intro dt p s u run pend waits idle
  refine ⟨fun early => ?_, fun due service old => ?_⟩
  · have held : u.modeTake = u := by
      unfold State.modeTake
      rw [pend]
      exact if_pos (by simp [early])
    exact goOn_of_eq ((congrArg State.settleOut held).trans (State.settleOut_idle u idle))
  · have taken : u.modeTake = u.enterMode p := by
      unfold State.modeTake
      rw [pend]
      exact if_neg (by simp [waits, due, run])
    have entered := taken.trans (u.enterMode_service p idle service old)
    refine ⟨_, goOn_of_eq ((congrArg State.settleOut entered).trans (State.settleOut_idle _ ?_)), rfl⟩
    exact (congrArg Gaffer.ops (State.outputs_gaf _)).trans idle

end Sys2Proof.Machine
end

section
/-!
PROOF. Errors that ask for SAFE_HOLD (R28, R33, R36, R495), the work of the Lehr in the background (R164, R467 to R469; log entries 33 and
81) and receivers that lock (R299, R488): what each of these does to the state at its instant, and the statement from that.
-/
namespace Sys2Proof.Machine

/-! ### SAFE_HOLD that is asked for (R33, R36, R495) -/

/-- A request for SAFE_HOLD is nothing in BOOT or under the ROM. -/
theorem State.requestSafe_boot (c : SafeCause) (u : State) (h : u.gaf.mode = .boot ∨ u.gaf.romHold = true) : u.requestSafe c = u := by
  unfold State.requestSafe
  refine if_pos ?_
  obtain h | h := h
  · simp [h]
  · simp [h]

section
variable (c : SafeCause) (u : State) (run : u.part.inReset = false) (ops : u.gaf.ops = []) (boot : u.gaf.mode ≠ .boot)
  (rom : u.gaf.romHold = false) (safe : u.gaf.mode ≠ .safeHold)

include run ops boot rom safe

/-- A request for SAFE_HOLD takes the place of any pending change that is not one of its kind. -/
theorem State.requestSafe_first (h : ∀ p d, u.gaf.pend = some p → p.by_ ≠ .safe d) : u.requestSafe c =
    { u with gaf := { u.gaf with pend := some { mode := .safeHold, by_ := .safe c, at_ := nextTickStart u.rate u.now } } } := by
  rw [State.requestSafe_safe c u run ops boot rom safe]
  split
  · next d _ _ pend => exact absurd rfl (h _ d pend)
  · rfl

/-- A request for SAFE_HOLD while one is pending leaves its instant, and the cause of higher rank. -/
theorem State.requestSafe_again (p : PendMode) (d : SafeCause) (pend : u.gaf.pend = some p) (by_ : p.by_ = .safe d) : u.requestSafe c =
    { u with gaf := { u.gaf with pend := some (if d.rank < c.rank then { p with by_ := .safe c } else p) } } := by
  obtain ⟨m, b, t, w⟩ := p
  subst by_
  rw [State.requestSafe_safe c u run ops boot rom safe, pend]

end

/-- A cause of SAFE_HOLD that is not power's, in SAFE_HOLD: the way back is gone, and the cause of higher rank stands. -/
theorem State.requestSafe_stays (s0 u : State) (c : SafeCause) (run : u.part.inReset = false) (ops : u.gaf.ops = [])
    (rom : u.gaf.romHold = false) (held : u.gaf.mode = .safeHold) (power : c ≠ .power) (host : c ≠ .modeSet) :
    (s0.closed (u.requestSafe c)).gaf.powerDriven = false ∧ (s0.closed (u.requestSafe c)).gaf.pend = none ∧
    (s0.closed (u.requestSafe c)).gaf.mode = .safeHold ∧
    (s0.closed (u.requestSafe c)).gaf.safeCause = if u.gaf.safeCause.rank < c.rank then c else u.gaf.safeCause := by
  rw [State.closed_gaf_powerDriven, State.closed_gaf_pend, State.closed_gaf_mode, State.closed_gaf_safeCause,
    State.requestSafe_held c u run ops rom held power host]
  exact ⟨rfl, rfl, held, rfl⟩

/-- An uncorrectable word of the Gaffer is counted, which leaves what a request for SAFE_HOLD looks at. -/
theorem State.gafferEcc_eq (word : U32) (u : State) (run : u.part.inReset = false) : ∃ v : State,
    u.gafferEcc word = v.requestSafe .gafferEcc ∧ v.part = u.part ∧ v.gaf = u.gaf ∧ v.rate = u.rate ∧ v.now = u.now ∧
      v.lehr.uncorrected.get 0 6 = u.lehr.uncorrected.get 0 6 + 1 := by
  refine ⟨u.countEcc { region := 6, unit := 0xFFFF, word, obj := 0, corrected := false }, ?_, rfl, rfl, rfl, rfl, ?_⟩
  · exact if_neg (by rw [run]; exact Bool.false_ne_true)
  · exact Table.get_put_self 0 (u.lehr.uncorrected.get 0 6 + 1) u.lehr.uncorrected 6

/-! ### The Lehr (R164, R467 to R469) -/

/-- A counter of a table that is counted up. -/
theorem Table.get_modify_succ (t : Table Nat) (k j : Nat) :
    Table.get 0 (Table.modify 0 t k (· + 1)) j = Table.get 0 t j + if j = k then 1 else 0 := by
  refine (Table.get_put 0 (Table.get 0 t k + 1) t j k).trans ?_
  by_cases same : j = k
  · rw [if_pos same, if_pos same, same]
  · rw [if_neg same, if_neg same, Nat.add_zero]

/-- One slice of the scrub: its hits act, and the position moves on; the time of a pass is noted where one ends. -/
theorem State.sramScrub_eq (hits : List EccHit) (u : State) (run : u.lehrRuns = true) :
    let v := hits.foldl State.scrubHit u
    ∃ l : Lehr, u.sramScrub hits = { v with lehr := l } ∧ l.corrected = v.lehr.corrected ∧ l.uncorrected = v.lehr.uncorrected ∧
      l.scrubPos = (if v.lehr.scrubPos + 1 < 128 then v.lehr.scrubPos + 1 else 0) ∧
      (v.lehr.scrubPos + 1 < 128 → l.scrubMs = v.lehr.scrubMs) := by
  intro v
  unfold State.sramScrub
  rw [if_neg (by simp [run])]
  dsimp only
  by_cases within : v.lehr.scrubPos + 1 < 128
  · rw [if_pos within]
    exact ⟨_, if_pos within, rfl, rfl, rfl, fun _ => rfl⟩
  · rw [if_neg within]
    exact ⟨_, if_neg within, rfl, rfl, rfl, fun h => absurd h within⟩

section
variable (u : State)

theorem State.sramScrub_stopped (hits : List EccHit) (stop : u.lehrRuns = false) : u.sramScrub hits = u := by
  unfold State.sramScrub
  exact if_pos (by rw [stop]; rfl)

theorem State.ddrScrub_stopped (stop : u.lehrRuns = false) : u.ddrScrub = u := by
  unfold State.ddrScrub
  exact if_neg (by rw [stop]; exact Bool.false_ne_true)

theorem State.flashMaintain_stopped (stop : u.lehrRuns = false) : u.flashMaintain = u := by
  unfold State.flashMaintain
  dsimp only
  exact if_pos (by rw [stop]; rfl)

theorem State.sensors_stopped (temps : List Int) (stop : u.lehrRuns = false) : u.sensors temps = u := by
  unfold State.sensors
  exact if_pos (by rw [stop]; rfl)

theorem State.lehrSkew_stopped (n : Nat) (phase : U32) (stop : u.lehrRuns = false) : u.lehrSkew n phase = u := by
  unfold State.lehrSkew
  exact if_neg (by rw [stop]; decide)

end

/-- An interrupted write of the first configuration slot is erased first, where no bank is being written (R462, R467). -/
theorem State.flashMaintain_cfg0 (u : State) (g : Nat) (run : u.lehrRuns = true) (warn : u.pwr.warn = false) (use : u.ignoresCfg = false)
    (free : u.gaf.commit = none) (broken : u.store.cfg0 = .interrupted g) :
    u.flashMaintain = (u.modStore fun st => { st with cfg0 := .erased }).countErase 0 := by
  unfold State.flashMaintain
  dsimp only
  rw [if_neg (by rw [run, warn]; decide), if_pos (by rw [use, free, broken]; rfl)]

/-- Under BOOT_SRC 0b01 an interrupted write of the second calibration slot is erased, where the first holds none (R451, R462, R467). -/
theorem State.flashMaintain_cal1 (u : State) (a : U32) (b : List CalItem) (g : Nat) (run : u.lehrRuns = true) (warn : u.pwr.warn = false)
    (ignore : u.ignoresCfg = true) (free : u.store.calCommit = none) (whole : u.store.cal0 = .valid a b)
    (broken : u.store.cal1 = .interrupted g) :
    u.flashMaintain = (u.modStore fun st => { st with cal1 := .erased }).countErase 3 := by
  unfold State.flashMaintain
  dsimp only
  rw [if_neg (by rw [run, warn]; decide), if_neg (by rw [ignore]; exact Bool.false_ne_true),
    if_neg (by rw [ignore]; exact Bool.false_ne_true), if_neg (by rw [whole, free]; exact Bool.false_ne_true),
    if_pos (by rw [free, broken]; rfl)]

/-- A sample of the sensors within the second of the last item moves the maximum alone. -/
theorem State.sensors_within (temps : List Int) (u : State) (run : u.lehrRuns = true) (same : u.lehr.itemSec = some (u.now / secF)) :
    u.sensors temps = { u with lehr := { u.lehr with temps, tempMax := some (max (temps.getD 0 0) (u.lehr.tempMax.getD (temps.getD 0 0))) } } := by
  unfold State.sensors
  rw [if_neg (by rw [run]; decide)]
  dsimp only
  rw [if_pos (by rw [same]; exact beq_self_eq_true _)]

/-- The first sample of a second builds the item of the second before, and minima, means and the maximum begin anew. -/
theorem State.sensors_first (temps : List Int) (u : State) (run : u.lehrRuns = true) (new : u.lehr.itemSec ≠ some (u.now / secF)) :
    u.sensors temps = { u.addItem 10 u.supplyItem with
      lehr := { u.lehr with itemSec := some (u.now / secF), temps, tempMax := some (max (temps.getD 0 0) (temps.getD 0 0)) }
      pwr := { u.pwr with rails := u.pwr.rails.map fun r => { r with sum := 0, n := 0, min := r.level }, warnSeen := u.pwr.warn } } := by
  unfold State.sensors
  rw [if_neg (by rw [run]; decide)]
  dsimp only
  rw [if_neg (by simpa using new)]
  rfl

/-! ### Receivers (R299, R488) -/

/-- What a report of a receiver does out of reset. -/
theorem execReceiverLock_eq (dt : Nat) (rx : Receiver) (lock inverted : Bool) (s : State) (run : (s.arrived dt).part.inReset = false) :
    exec (.receiverLock dt rx lock inverted) s = .next (s.closed ((s.arrived dt).receiver rx lock inverted)) :=
  goOn_of_eq (if_neg (by rw [run]; exact Bool.false_ne_true))

/-- The lock of a receiver is noted at its lane alone. -/
theorem State.laneLock_lane (k : Nat) (lock inverted : Bool) (u : State) (n : Nat) : (u.laneLock k lock inverted).lane n =
    if n = k then { u.lane n with locked := lock, polRev := lock && inverted } else u.lane n := by
  by_cases same : n = k
  · rw [if_pos same, same]
    exact Table.get_put_self _ _ _ _
  · rw [if_neg same]
    exact Table.get_put_of_ne _ _ _ _ _ same

/-- Settles O48: what asks for SAFE_HOLD, then the Lehr, then the receivers. -/
theorem errorsAndBackgroundWork : Obligations.ErrorsAndBackgroundWork := by
  refine ⟨?safe, ?lehr, ?receivers⟩
  case safe =>
    intro dt word s u safe set run ops
    obtain ⟨v, ecc, part, gaf, rate, now, counted⟩ := u.gafferEcc_eq word run
    have vrun : v.part.inReset = false := part ▸ run
    have vops : v.gaf.ops = [] := gaf ▸ ops
    have after : exec (.gafferEccError dt word) s = .next (s.closed (v.requestSafe .gafferEcc)) := goOn_of_eq ecc
    refine ⟨fun h => goOn_of_eq (u.requestSafe_boot .lockstep h), fun boot rom other => ⟨fun free => ?_, fun p c pend by_ => ?_⟩,
      fun held rom => ⟨?_, ?_⟩⟩
    · have asked := v.requestSafe_first .gafferEcc vrun vops (gaf ▸ boot) (gaf ▸ rom) (gaf ▸ other) (gaf ▸ free)
      rw [asked] at after
      refine ⟨goOn_of_eq (u.requestSafe_first .lockstep run ops boot rom other free), _, after, ?_, ?_, ?_⟩
      · rw [State.closed_gaf_pend, rate, now]
      · rw [State.closed_gaf_mode, gaf]
      · rw [State.closed_lehr]; exact counted
    · have asked := v.requestSafe_again .gafferEcc vrun vops (gaf ▸ boot) (gaf ▸ rom) (gaf ▸ other) p c (gaf ▸ pend) by_
      rw [asked] at after
      exact ⟨goOn_of_eq (u.requestSafe_again .lockstep run ops boot rom other p c pend by_), _, after, State.closed_gaf_pend _ _⟩
    · exact ⟨_, rfl, State.requestSafe_stays s u .lockstep run ops rom held (by decide) (by decide)⟩
    · have stays := State.requestSafe_stays s v .gafferEcc vrun vops (gaf ▸ rom) (gaf ▸ held) (by decide) (by decide)
      rw [gaf] at stays
      exact ⟨_, after, stays⟩
  case lehr =>
    intro dt hits temps link phase s u put skew
    refine ⟨fun run => ⟨fun ops corrected => ?_, fun h ops one bad region => ?_, fun ddr => ?_, fun g warn use free broken => ?_,
      fun a b g warn ignore free whole broken => ?_, ?_, goOn_of_eq (if_pos run)⟩, fun stop => ⟨?_, ?_, ?_, ?_, fun ops => ?_⟩,
      fun m t last => goOn_of_eq (State.skewStale_eq link.val u m t last)⟩
    · obtain ⟨l, slice, corr, unc, pos, ms⟩ := u.sramScrub_eq hits run
      obtain ⟨count, lehr, gaf, -⟩ := State.scrubHits_corrected hits u corrected
      rw [lehr] at unc pos ms
      refine ⟨_, goOn_of_eq ((congrArg State.settleOut slice).trans (State.settleOut_idle _ ((congrArg Gaffer.ops gaf).trans ops))), ?_⟩
      rw [State.closed_lehr, State.netOut_lehr]
      exact ⟨fun r => corr ▸ count r, unc, pos, ms⟩
    · subst one
      obtain ⟨l, slice, corr, unc, -, -⟩ := u.sramScrub_eq [h] run
      obtain ⟨lehr, gaf, cluster, conv, log⟩ := State.scrubHit_uncorrected h u bad region
      rw [List.foldl_cons, List.foldl_nil, lehr] at corr unc
      refine ⟨_, goOn_of_eq ((congrArg State.settleOut slice).trans (State.settleOut_idle _ ((congrArg Gaffer.ops gaf).trans ops))), ?_⟩
      rw [State.closed_lehr, State.closed_eng, State.closed_conv, State.closed_log, State.netOut_lehr, State.netOut_eng,
        State.netOut_conv, State.netOut_log]
      refine ⟨fun r => ?_, corr, cluster, conv, log⟩
      rw [unc]
      exact Table.get_modify_succ u.lehr.uncorrected h.region.val r
    · exact goOn_of_eq (if_pos (by rw [run, ddr]; rfl))
    · refine ⟨_, goOn_of_eq (u.flashMaintain_cfg0 g run warn use free broken), ?_, ?_⟩
      · exact State.closed_store _ _
      · rw [State.closed_lehr]
        exact Table.get_put_self 0 _ u.lehr.eraseCounts 0
    · refine ⟨_, goOn_of_eq (u.flashMaintain_cal1 a b g run warn ignore free whole broken), ?_, ?_⟩
      · exact State.closed_store _ _
      · rw [State.closed_lehr]
        exact Table.get_put_self 0 _ u.lehr.eraseCounts 3
    · by_cases same : u.lehr.itemSec = some (u.now / secF)
      · refine ⟨_, goOn_of_eq (u.sensors_within temps run same), ?_⟩
        rw [State.closed_lehr, State.closed_pwr]
        exact ⟨rfl, same, fun _ => ⟨rfl, rfl⟩, fun h => absurd same h⟩
      · refine ⟨_, goOn_of_eq (u.sensors_first temps run same), ?_⟩
        rw [State.closed_lehr, State.closed_pwr]
        refine ⟨rfl, rfl, fun h => absurd h same, fun _ => ⟨congrArg some (max_self _), rfl, fun r mem => ?_⟩⟩
        obtain ⟨r, -, rfl⟩ := List.mem_map.mp mem
        exact ⟨rfl, rfl⟩
    · exact goOn_of_eq (u.ddrScrub_stopped stop)
    · exact goOn_of_eq (u.flashMaintain_stopped stop)
    · exact goOn_of_eq (u.sensors_stopped temps stop)
    · exact goOn_of_eq (u.lehrSkew_stopped link.val phase stop)
    · refine ⟨_, goOn_of_eq (congrArg State.settleOut (u.sramScrub_stopped hits stop)), ?_⟩
      rw [State.closed_lehr, State.settleOut_idle u ops, State.netOut_lehr]
  case receivers =>
    intro dt lane m c lock inverted s u run
    have does := fun rx => execReceiverLock_eq dt rx lock inverted s run
    refine ⟨fun has => ⟨_, does _, fun n => ?_⟩, fun lacks => (does _).trans ?_, fun two => ⟨_, does _, fun n => ?_⟩,
      fun four => ⟨_, does _, fun n => ?_⟩⟩
    · have locks : u.receiver (.valve lane) lock inverted = u.laneLock lane.val lock inverted := if_pos has
      show ((s.closed _).valve.lanes.get { } n) = _
      rw [State.closed_valve, locks]
      exact u.laneLock_lane lane.val lock inverted n
    · have ignored : u.receiver (.valve lane) lock inverted = u := if_neg (Nat.not_lt.mpr lacks)
      exact congrArg (fun t => Host.Outcome.next (s.closed t)) ignored
    · rw [State.closed_pair]
      exact getD_modAt m.val n _ false _ (by rw [two]; exact m.isLt)
    · rw [State.closed_cas]
      exact getD_modAt c.val n _ false _ (by rw [four]; exact c.isLt)

end Sys2Proof.Machine
end

section
/-!
PROOF. Resets (R40, R447, R449, R478), the boot of the ROM and of the firmware (R33, R43, R452, R453, R458) and the reset of the PCIe
function (R450): what each does to the state at its instant, and the statement from that.
-/
namespace Sys2Proof.Machine

/-! ### Resets (R40, R447, R449, R478) -/

/-- In a state `t` everything that a reset from `u` clears is clear, and the flash and the OTP stand; `por` says whether the reset acts
as PORST_N and forgets the straps. -/
def State.ClearedFrom (u : State) (por : Bool) (t : State) : Prop :=
  t.part.inReset = true ∧ t.part.straps = (if por then { } else u.part.straps) ∧
  t.devMode = 1 ∧ t.gaf.fwReady = false ∧ t.gaf.fwVer = 0 ∧ t.gaf.alive = 0 ∧ t.gaf.irqMask = 0x3FFFF ∧ t.gaf.ops = [] ∧ t.gaf.txn = none ∧
  t.gaf.committed = 0 ∧ t.gaf.session = false ∧ t.mbx = [] ∧ t.cfg = [] ∧ t.cfgValid = false ∧ t.time = { } ∧ t.net = { } ∧ t.fio = { } ∧
  t.eng = { } ∧ t.conv = { } ∧ t.log = { } ∧ t.store.slotA = u.store.slotA ∧ t.store.slotB = u.store.slotB ∧ t.store.otpSec = u.store.otpSec ∧
  t.store.cfg0 = u.store.cfg0 ∧ t.store.cfg1 = u.store.cfg1 ∧ t.store.cal0 = u.store.cal0 ∧ t.store.cal1 = u.store.cal1

/-- In reset, closing a command captures events and puts back the part's constants and the queue, and sets no interrupt (R43). -/
theorem State.closed_eq_of_inReset (s0 s : State) (h : s.part.inReset = true) : ∃ v, s0.closed s = { s with
    ev := v, pending := s0.pending, part := { s.part with reduced := s0.part.reduced, serial := s0.part.serial } } := by
  obtain ⟨v, flush, -⟩ := State.flush_eq s
  refine ⟨v, ?_⟩
  unfold State.closed
  rw [flush]
  exact if_pos (by rw [Bool.or_eq_true]; exact Or.inl h)

/-- Closing a command leaves what a reset has cleared. -/
theorem State.ClearedFrom.closed {u t : State} {por : Bool} (s0 : State) (h : u.ClearedFrom por t) : u.ClearedFrom por (s0.closed t) := by
  obtain ⟨v, closed⟩ := State.closed_eq_of_inReset s0 t h.1
  rw [closed]
  exact h

/-- A reset clears everything but what R449 keeps; while PORST_N is low it acts as PORST_N. -/
theorem State.enterReset_cleared (u : State) (por : Bool) (h : por = true ∨ u.part.porLow = false) : u.ClearedFrom por (u.enterReset por) := by
  have acts : (por || u.part.porLow) = por := by
    obtain h | h := h
    · rw [h]; rfl
    · rw [h, Bool.or_false]
  unfold State.enterReset
  rw [acts]
  exact ⟨rfl, rfl, rfl, rfl, rfl, rfl, rfl, rfl, rfl, rfl, rfl, rfl, rfl, rfl, rfl, rfl, rfl, rfl, rfl, rfl, rfl, rfl, rfl, rfl, rfl, rfl, rfl⟩

/-- A low level of 1 µs or more on SYSRST_N resets, unless PORST_N governs (R478). -/
theorem State.sysrst_low (n : Nat) (u : State) (long : 1000 ≤ n) :
    (u.part.porLow = false → u.sysrst n = State.otherReset false { u with part := { u.part with sysLow := true } }) ∧
    (u.part.porLow = true → u.sysrst n = { u with part := { u.part with sysLow := true } }) := by
  unfold State.sysrst
  rw [if_neg (Nat.not_lt.mpr long)]
  exact ⟨fun high => if_neg (by rw [high]; exact Bool.false_ne_true), fun low => if_pos low⟩

/-- An announced reset comes at its instant (R66, R457). -/
theorem State.bootReset_eq (u : State) (a : Fine) (run : u.part.inReset = false) (announced : u.gaf.bootAt = some a) :
    u.bootReset = if a ≤ u.now then u.enterReset false else u := by
  unfold State.bootReset
  rw [run, announced]
  simp

/-! ### The boot (R33, R43, R452, R453, R458) -/

/-- What SAFE_HOLD under the ROM holds (R453). -/
def State.HeldByRom (c : SafeCause) (t : State) : Prop :=
  t.gaf.mode = .safeHold ∧ t.gaf.romHold = true ∧ t.gaf.fwReady = true ∧ t.gaf.fwVer = 0 ∧ t.gaf.safeCause = c ∧ t.gaf.committed = 0

/-- The ROM enters SAFE_HOLD, and closing the command leaves it there. -/
theorem State.romSafeHold_held (s0 : State) (c : SafeCause) (u : State) : (s0.closed (u.romSafeHold c)).HeldByRom c := by
  obtain ⟨v, q, o, closed, -⟩ := State.closed_eq s0 (u.romSafeHold c)
  rw [closed]
  exact ⟨rfl, rfl, rfl, rfl, rfl, rfl⟩

/-- A look at the slots of a store raises events alone. -/
theorem State.rollback_netOnly {α : Type} (kind : Nat) (a b : Slot α) (s : State) : NetOnly s (s.rollback kind a b) := by
  unfold State.rollback
  refine NetOnly.foldl _ (fun s x => ?_) [a, b] s
  cases x with
  | interrupted g => exact State.post_netOnly _ s
  | erased => exact NetOnly.refl s
  | valid => exact NetOnly.refl s

/-- The selection of the banks leaves the part, and of the Gaffer all but the committed features (R64, R462). -/
theorem State.selectBanks_keeps (s : State) :
    s.selectBanks.part = s.part ∧ ∃ f, s.selectBanks.gaf = { s.gaf with committed := f } := by
  have cfg : NetOnly s (if s.ignoresCfg then s else s.rollback 0 s.store.cfg0 s.store.cfg1) := by
    by_cases h : s.ignoresCfg = true
    · rw [if_pos h]; exact NetOnly.refl s
    · rw [if_neg h]; exact State.rollback_netOnly 0 s.store.cfg0 s.store.cfg1 s
  have looked := cfg.trans (State.rollback_netOnly 1 s.store.cal0 s.store.cal1 _)
  unfold State.selectBanks
  dsimp only
  obtain ⟨n, v, o, k, looked⟩ := looked
  rw [looked]
  exact ⟨rfl, _, rfl⟩

/-- With no valid image the ROM enters SAFE_HOLD (R453). -/
theorem State.loadFirmware_none (okA okB : Bool) (u : State) (run : u.part.inReset = false) (step : u.part.bootStep = 1)
    (a : imageValid (u.store.image false) u.store.otpSec okA = false) (b : imageValid (u.store.image true) u.store.otpSec okB = false) :
    u.loadFirmware okA okB = u.romSafeHold .noImage := by
  have invalid : ∀ x, imageValid (u.store.image x) u.store.otpSec (if x then okB else okA) = false := fun x => by
    cases x with
    | false => exact a
    | true => exact b
  unfold State.loadFirmware
  rw [run, step]
  simp [invalid]

/-- The image that BOOT_SRC or the boot pointer names runs, or the other where that one is not valid (R452, R458). -/
theorem State.loadFirmware_runs (okA okB b : Bool) (u : State) (run : u.part.inReset = false) (step : u.part.bootStep = 1)
    (valid : imageValid (u.store.image b) u.store.otpSec (if b then okB else okA) = true)
    (order : let first : Bool := u.part.straps.bootSrc == 2 || u.store.active
      b = first ∨ imageValid (u.store.image first) u.store.otpSec (if first then okB else okA) = false) :
    u.loadFirmware okA okB = State.selectBanks
      { u with
        gaf := { u.gaf with fwReady := true, image := b, fwVer := BitVec.ofNat 32 (imageWord (u.store.image b) 8) }
        part := { u.part with bootStep := 2 } } := by
  unfold State.loadFirmware
  rw [run, step]
  dsimp only at order ⊢
  generalize (u.part.straps.bootSrc == 2 || u.store.active) = first at order ⊢
  have found : [first, !first].find? (fun b => imageValid (u.store.image b) u.store.otpSec (if b then okB else okA)) = some b := by
    obtain same | invalid := order
    · rw [← same]
      exact List.find?_cons_of_pos valid
    · have differs : b ≠ first := fun same => nomatch (same ▸ valid).symm.trans invalid
      have other : b = !first := Bool.eq_not.mpr differs
      rw [List.find?_cons_of_neg (by rw [invalid]; exact Bool.false_ne_true), ← other]
      exact List.find?_cons_of_pos valid
  rw [found]
  rfl

/-- The store as the ROM starts: a trial image that was not confirmed is given up, unless the reset is the one of ACTIVATE (R458). -/
def Store.romStarted (st : Store) : Store :=
  if st.trial && !st.activateReset then { st with trial := false, active := !st.active, activateReset := false }
  else { st with activateReset := false }

theorem Store.romStarted_active (st : Store) :
    st.romStarted.active = if st.trial && !st.activateReset then !st.active else st.active := by
  unfold Store.romStarted
  cases (st.trial && !st.activateReset) with
  | false => rfl
  | true => rfl

theorem Store.romStarted_trial (st : Store) : st.romStarted.trial = (st.trial && st.activateReset) := by
  unfold Store.romStarted
  cases ar : st.activateReset with
  | false =>
    cases st.trial with
    | false => rfl
    | true => rfl
  | true => simp

/-- The part as a reset ends: the straps are latched where it acted as PORST_N, and TEST_EN holds the block in reset (R452, R477). -/
def Part.released (p : Part) : Part :=
  let straps := if p.porLow then p.balls else p.straps
  { p with straps, porLow := false, sysLow := false, inReset := straps.testEn }

/-- The end of a reset releases the part; unless TEST_EN is latched the ROM starts, and a failed self-test is SAFE_HOLD (R452, R453). -/
theorem State.resetRelease_eq (ok : Bool) (u : State) (reset : u.part.inReset = true) (intern : u.pwr.internalReset = false)
    (up : u.part.porLow = true ∨ u.railsUp = true) :
    let started : State := { u with
      part := { u.part.released with bootStep := 1, selfTestOk := ok, pcieUp := !u.part.perstLow }, store := u.store.romStarted }
    (u.part.released.inReset = true → u.resetRelease ok = { u with part := u.part.released }) ∧
    (u.part.released.inReset = false → u.resetRelease ok = if ok then started else started.romSafeHold .selfTest) := by
  have may : ¬ (u.pwr.internalReset || (!u.part.porLow && !u.railsUp)) = true := by
    rw [intern]
    obtain h | h := up
    · simp [h]
    · simp [h]
  intro started
  unfold State.resetRelease
  rw [if_neg (by rw [reset]; decide), if_neg may]
  exact ⟨fun test => if_pos test, fun test => if_neg (Bool.eq_false_iff.mp test)⟩

/-- A boot without a configuration asks for COMMISSION (R33). -/
theorem State.bootDone_unconfigured (u : State) (run : u.part.inReset = false) (step : u.part.bootStep = 2) (bank : u.cfgBank = none)
    (unset : u.cfgValid = false) :
    u.bootDone = State.pendMode .commission .boot { u with part := { u.part with bootStep := 3 } } := by
  have same : u.bootApply = u := by
    unfold State.bootApply
    rw [bank]
  unfold State.bootDone
  rw [run, step, same]
  simp [unset]

/-- DEV_ALIVE counts out of reset from the ROM on (R43). -/
theorem State.aliveTick_alive (s0 u : State) (run : u.part.inReset = false) :
    (s0.closed u.aliveTick).gaf.alive = if u.part.bootStep = 0 then u.gaf.alive else u.gaf.alive + 1 := by
  rw [State.closed_gaf_alive]
  unfold State.aliveTick
  rw [run]
  by_cases idle : u.part.bootStep = 0
  · rw [if_pos idle, idle]; rfl
  · rw [if_neg idle, if_pos (by simpa using idle)]; rfl

/-! ### The PCIe function (R450) -/

/-- A mailbox after a reset of the PCIe function: its doorbell block has its reset values, its memories stand. -/
def Mailbox.doorbellReset (m : Mailbox) : Mailbox := { half := m.half, ring := m.ring, kept := m.kept }

/-- The mailboxes of some numbers take their reset values, the others stand; a mailbox that no entry holds has them anyway. -/
theorem Table.get_doorbellReset (p : Nat → Bool) (t : Table Mailbox) (n : Nat) :
    Table.get { } (t.map fun m => if p m.1 then (m.1, m.2.doorbellReset) else m) n =
      if p n then (Table.get { } t n).doorbellReset else Table.get { } t n := by
  induction t with
  | nil => exact (ite_self _).symm
  | cons e r ih =>
    obtain ⟨k, m⟩ := e
    by_cases same : k = n
    · subst same
      cases on : p k with
      | true => simp [Table.get, on]
      | false => simp [Table.get, on]
    · cases on : p k with
      | true => simpa [Table.get, on, same] using ih
      | false => simpa [Table.get, on, same] using ih

/-- A reset of the PCIe function with nothing in flight and no announced reset held back: the mailboxes that are not assigned to MOE, the
session, their transaction and DEV_IRQ_STATUS go. -/
theorem State.pcieReset_idle (v : State) (ops : v.gaf.ops = []) (quiet : (v.mbx.any fun m => m.2.held.any (·.boot)) = false) :
    v.pcieReset = { v with
      gaf := { v.gaf with irqStatus := 0, session := false, txn := if v.gaf.txn.any (fun t => !v.isMoe t.mb.val) then none else v.gaf.txn }
      mbx := v.mbx.map fun m => if !v.isMoe m.1 then (m.1, m.2.doorbellReset) else m } := by
  have quiet : (v.mbx.any fun m => !v.isMoe m.1 && m.2.held.any (·.boot)) = false := by
    rw [List.any_eq_false] at quiet ⊢
    intro m mem
    simp [quiet m mem]
  unfold State.pcieReset State.settle State.modGaf
  simp only [ops, quiet, List.filter_nil, List.any_nil, List.foldl_nil, Bool.or_false, Bool.false_eq_true, if_false]
  rfl

/-- The events that reset the PCIe function change but the part before it (R450, R478). -/
theorem State.pcieEvent_resets (e : PcieEvent) (u : State) (run : u.part.inReset = false)
    (h : e = .hotReset ∨ e = .flr ∨ e = .linkDown ∨ ∃ n, 1000 ≤ n ∧ e = .perstLow n) :
    ∃ p, u.pcieEvent e = State.pcieReset { u with part := p } := by
  have out : ¬ u.part.inReset = true := by rw [run]; exact Bool.false_ne_true
  obtain rfl | rfl | rfl | ⟨n, long, rfl⟩ := h
  · exact ⟨u.part, if_neg out⟩
  · exact ⟨u.part, if_neg out⟩
  · exact ⟨_, if_neg out⟩
  · exact ⟨_, (if_neg (Nat.not_lt.mpr long)).trans (if_neg out)⟩

/-- Settles O45: the resets, then the boot step by step, then the PCIe function. -/
theorem resetsAndBoot : Obligations.ResetsAndBoot := by
  intro dt s u cleared held valid first
  have acted : ∀ v : State, v.ClearedFrom true (v.otherReset true) := fun v => State.enterReset_cleared _ true (Or.inl rfl)
  refine ⟨fun n => ⟨fun short => ⟨goOn_of_eq (if_pos short), goOn_of_eq (if_pos short)⟩, fun long => ⟨?_, fun high => ?_, fun low => ?_⟩⟩,
    fun fails => ?_, fun run a announced => ⟨fun due high => ?_, fun early => ?_⟩, fun ok reset intern up => ?_,
    fun okA okB run step => ⟨fun neither => ?_, fun b ok order => ?_⟩, fun run step bank unset => ?_,
    fun run => ⟨_, rfl, State.aliveTick_alive s u run⟩, fun e resets run ops quiet => ?_⟩
  · exact ⟨_, goOn_of_eq (if_neg (Nat.not_lt.mpr long)), (acted u).closed s⟩
  · exact ⟨_, goOn_of_eq ((u.sysrst_low n long).1 high), State.ClearedFrom.closed s (State.enterReset_cleared _ false (Or.inr high))⟩
  · exact goOn_of_eq ((u.sysrst_low n long).2 low)
  · refine ⟨_, goOn_of_eq (if_pos fails), State.ClearedFrom.closed s (acted u), ?_⟩
    rw [State.closed_pwr]
    rfl
  · have comes : u.bootReset = u.enterReset false := (u.bootReset_eq a run announced).trans (if_pos due)
    exact ⟨_, goOn_of_eq comes, (u.enterReset_cleared false (Or.inr high)).closed s⟩
  · exact goOn_of_eq ((u.bootReset_eq a run announced).trans (if_neg (Nat.not_le.mpr early)))
  · obtain ⟨test, start⟩ := u.resetRelease_eq ok reset intern up
    cases latched : u.part.released.inReset with
    | true =>
      refine ⟨_, goOn_of_eq (test latched), ?_⟩
      rw [State.closed_part_straps, State.closed_part_porLow, State.closed_part_sysLow, State.closed_part_inReset]
      exact ⟨rfl, rfl, rfl, rfl, fun h => nomatch h.symm.trans latched⟩
    | false =>
      have active := u.store.romStarted_active
      have trial := u.store.romStarted_trial
      refine ⟨_, goOn_of_eq (start latched), ?_⟩
      rw [State.closed_part_straps, State.closed_part_porLow, State.closed_part_sysLow, State.closed_part_inReset, State.closed_store,
        State.closed_part_bootStep, State.closed_gaf_mode]
      cases ok with
      | true => exact ⟨rfl, rfl, rfl, rfl, fun _ => ⟨active, trial, fun _ => ⟨rfl, rfl⟩, fun h => nomatch h⟩⟩
      | false =>
        exact ⟨rfl, rfl, rfl, rfl, fun _ => ⟨active, trial, fun h => (nomatch h), fun _ => ⟨rfl, State.romSafeHold_held s _ _⟩⟩⟩
  · have invalid : ∀ b ok, ¬ valid b ok → imageValid (u.store.image b) u.store.otpSec ok = false := fun b ok h => Bool.eq_false_iff.mpr h
    exact ⟨_, goOn_of_eq (u.loadFirmware_none okA okB run step (invalid _ _ neither.2) (invalid _ _ neither.1)), State.romSafeHold_held s _ u⟩
  · have runs := u.loadFirmware_runs okA okB b run step ok (order.imp id fun h => Bool.eq_false_iff.mpr h)
    obtain ⟨part, f, gaf⟩ := State.selectBanks_keeps { u with
      gaf := { u.gaf with fwReady := true, image := b, fwVer := BitVec.ofNat 32 (imageWord (u.store.image b) 8) }
      part := { u.part with bootStep := 2 } }
    refine ⟨_, goOn_of_eq runs, ?_⟩
    rw [State.closed_part_bootStep, State.closed_gaf_fwReady, State.closed_gaf_image, State.closed_gaf_fwVer, State.closed_gaf_romHold,
      State.closed_gaf_mode, part, gaf]
    exact ⟨rfl, rfl, rfl, rfl, rfl, rfl⟩
  · refine ⟨_, goOn_of_eq (u.bootDone_unconfigured run step bank unset), ?_⟩
    rw [State.closed_part_bootStep, State.closed_cfg, State.closed_gaf_pend]
    exact ⟨rfl, rfl, rfl⟩
  · obtain ⟨p, event⟩ := u.pcieEvent_resets e run resets
    refine ⟨_, goOn_of_eq (event.trans (State.pcieReset_idle _ ops quiet)), fun n => ?_, ?_⟩
    · show (s.closed _).mbx.get { } n = _
      rw [State.closed_mbx]
      refine (Table.get_doorbellReset (fun n => !u.isMoe n) u.mbx n).trans ?_
      cases u.isMoe n with
      | false => rfl
      | true => rfl
    · rw [State.closed_gaf_session, State.closed_gaf_txn, State.closed_gaf_mode, State.closed_gaf_pend, State.closed_gaf_committed,
        State.closed_gaf_bootAt, State.closed_conv, State.closed_eng, State.closed_net]
      exact ⟨rfl, rfl, rfl, rfl, rfl, rfl, rfl, rfl, rfl⟩

end Sys2Proof.Machine
end

section
/-!
PROOF. A host command on its way through the mailbox interface: the part at reset (R43, R449), the checks of R59 in their order, and where
its completion goes (R55 to R57).
-/
namespace Sys2Proof.Machine

/-- Settles O5: the values that the state takes at reset (log entry 4). -/
theorem resetHoldsThePart : Obligations.ResetHoldsThePart := ⟨rfl, rfl, rfl, rfl⟩

/-! ### The checks of R59 -/

/-- A row that stands for a host command is that command as it arrives by its path. -/
theorem exec_asHost {i : Instr} {dt : Nat} {h : CmdHead} {c : HostCmd} (s : State) (row : Instr.asHost i = some (dt, h, c)) :
    exec i s = goOn dt (State.hostRow h c) s := by
  unfold Instr.asHost at row
  split at row <;> cases row <;> rfl

/-- No row stands for a command with an opcode that the table does not have. -/
theorem Instr.asHost_known {i : Instr} {dt : Nat} {h : CmdHead} {c : HostCmd} (row : Instr.asHost i = some (dt, h, c)) (n : Nat) :
    c ≠ .unknown n := by
  unfold Instr.asHost at row
  split at row <;> cases row <;> exact HostCmd.noConfusion

/-- The bits of a field below `k` are the only ones set where its number is below `2 ^ k`. -/
theorem onlyBits_eq (k n : Nat) : onlyBits (2 ^ k - 1) n = decide (n < 2 ^ k) := by
  unfold onlyBits
  rw [Nat.and_two_pow_sub_one_eq_mod, Bool.eq_iff_iff, beq_iff_eq, decide_eq_true_eq]
  exact Nat.mod_eq_iff_lt (Nat.two_pow_pos k).ne'

section
variable {o : Op} (s : State)

/-- Step 2 of R59: a length that the opcode does not have. -/
theorem State.command_badLength {n : Nat} (len : o.cmd.lengthErr = some n) : s.command o = (s, .done .badLength n [] false []) := by
  unfold State.command
  split
  · next u => rw [u] at len; exact nomatch len
  · rw [len]

variable (known : ∀ n, o.cmd ≠ .unknown n) (len : o.cmd.lengthErr = none)
include known len

/-- Step 3: a bad field of the header. -/
theorem State.command_badHeader {e : Nat} (bad : firstBad [(8, onlyBits 3 o.h.flags.toNat), (0xC, o.h.rsv == 0)] = some e) :
    s.command o = (s, badField e) := by
  unfold State.command
  split
  · next u => exact absurd u (known _)
  · rw [len, bad]

variable (header : firstBad [(8, onlyBits 3 o.h.flags.toNat), (0xC, o.h.rsv == 0)] = none)
include header

/-- Step 4: a feature that is not committed. -/
theorem State.command_lacks {f : Nat} (feat : s.lacks o.cmd = some f) : s.command o = (s, .done .notNegotiated f [] false []) := by
  unfold State.command
  split
  · next u => exact absurd u (known _)
  · rw [len, header, feat]

/-- Step 5: the mode does not permit the command. -/
theorem State.command_modeErr {r : Reply} (feat : s.lacks o.cmd = none) (mode : s.modeErr o.cmd = some r) : s.command o = (s, r) := by
  unfold State.command
  split
  · next u => exact absurd u (known _)
  · rw [len, header, feat, mode]

end

/-- A command that comes alone and is refused by the checks does nothing but answer. -/
theorem State.goOn_refused (dt : Nat) (h : CmdHead) (c : HostCmd) (s : State) (r : Result) (d : Nat)
    (alone : (s.arrived dt).comesAlone h c = true)
    (answer : ((s.arrived dt).begun h c).command ((s.arrived dt).opFor h c) = ((s.arrived dt).begun h c, .done r d [] false [])) :
    goOn dt (State.hostRow h c) s = .next (s.endsNot dt h c r d) := by
  refine goOn_of_eq ((State.hostRow_alone h c _ alone).trans ?_)
  rw [answer]
  exact congrArg State.netOut (State.applyReply_done ((s.arrived dt).opFor h c) r d [] [] false _ rfl rfl)

/-- Settles O9: each check in turn is the first that fails. -/
theorem hostChecksInOrder : Obligations.HostChecksInOrder := by
  intro i dt h c s row alone b
  rw [exec_asHost s row]
  have known := Instr.asHost_known row
  have flagBits : onlyBits 3 h.flags.toNat = decide (h.flags.toNat < 4) := onlyBits_eq 2 _
  refine ⟨fun n len => ?_, fun len => ⟨fun flags => ?_, fun flags => ⟨fun rsv => ?_, fun rsv => ?_⟩⟩⟩
  · exact State.goOn_refused dt h c s _ _ alone (State.command_badLength b len)
  · refine State.goOn_refused dt h c s _ _ alone (State.command_badHeader b known len ?_)
    simp [firstBad, State.opFor, flagBits, Nat.not_lt.mpr flags]
  · refine State.goOn_refused dt h c s _ _ alone (State.command_badHeader b known len ?_)
    simpa [firstBad, State.opFor, flagBits, flags] using rsv
  · have header : firstBad [(8, onlyBits 3 h.flags.toNat), (0xC, h.rsv == 0)] = none := by simp [firstBad, flagBits, flags, rsv]
    refine ⟨fun f feat => ?_, fun r d feat mode => ?_⟩
    · exact State.goOn_refused dt h c s _ _ alone (State.command_lacks b known len header feat)
    · exact State.goOn_refused dt h c s _ _ alone (State.command_modeErr b known len header feat mode)

/-! ### Where a completion goes (R55 to R57) -/

/-- What a command sends, and closing it, leave the mailboxes. -/
theorem State.closed_netOut_mb (s v : State) (n : Nat) : (s.closed v.netOut).mb n = v.mb n := by
  unfold State.mb
  rw [State.closed_mbx, State.netOut_mbx]

/-- The completion of an operation as its path takes it (R55). -/
def Op.completion (o : Op) (r : Result) (d : Nat) (data : Bytes) (hb : Bool) (extra : Bytes) : Completion :=
  { mkCompletion o.h o.cmd.opcode r d data (if hb then 2 else 0) extra with boot := o.cmd.boots && r == .ok }

theorem State.finished_eq (o : Op) (r : Result) (d : Nat) (data : Bytes) (hb : Bool) (extra : Bytes) (v : State) :
    v.finished o r d data hb extra = State.sendEntry o (o.completion r d data hb extra) { v with gaf := { v.gaf with ops := [] } } := rfl

/-- Over PCIe with room in the ring and nothing held back a completion is written at once (R56). -/
theorem State.sendEntry_room (o : Op) (k : Completion) (v : State) (path : o.h.path = .pcie) (held : (v.mb o.h.mb.val).held = [])
    (room : ((v.mb o.h.mb.val).prod - (v.mb o.h.mb.val).cons).toNat < 64) : v.sendEntry o k = v.writeEntry o.h.mb.val k := by
  have free : ((v.mb o.h.mb.val).ringFull || (v.mb o.h.mb.val).full) = false := by
    rw [Mailbox.ringFull, Mailbox.full, held, decide_eq_false (Nat.not_le.mpr room)]
    rfl
  unfold State.sendEntry
  simp only [path, free, Bool.false_eq_true, if_false]

/-- Over PCIe with a full ring a completion is held back (R57). -/
theorem State.sendEntry_full (o : Op) (k : Completion) (v : State) (path : o.h.path = .pcie)
    (full : ((v.mb o.h.mb.val).prod - (v.mb o.h.mb.val).cons).toNat ≥ 64) :
    v.sendEntry o k = v.setMb o.h.mb.val { v.mb o.h.mb.val with held := (v.mb o.h.mb.val).held ++ [k] } := by
  have taken : ((v.mb o.h.mb.val).ringFull || (v.mb o.h.mb.val).full) = true := by
    rw [Mailbox.full, decide_eq_true full, Bool.or_true]
  unfold State.sendEntry
  simp only [path, taken, if_true]

/-- An entry with NOTIFY sets the bit of its mailbox (R56). -/
theorem State.writeEntry_notifies (n : Nat) (hn : n < 18) (k : Completion) (v : State) (notify : k.notify = true) :
    (v.writeEntry n k).gaf.irqStatus.getLsbD n = true := by
  unfold State.writeEntry
  rw [notify]
  exact State.setIrq_bit n hn _

/-- A completion that announces no reset is written as it was decided, with its instant (R55). -/
theorem Completion.stamp_of_quiet (now : Nat) (k : Completion) (quiet : k.boot = false) : k.stamp now = { k with tDone := now } := by
  unfold Completion.stamp
  rw [quiet]
  rfl

/-- Settles O11: the completion is written into its entry, and its NOTIFY bit is left by all that follows. -/
theorem completionGoesIntoTheRing : Obligations.CompletionGoesIntoTheRing := by
  intro dt h c s r d data extra hb f v m t path held room ends
  let o := (s.arrived dt).opFor h c
  let k := o.completion r d data hb extra
  have written : v.finished o r d data hb extra = State.writeEntry h.mb.val k { v with gaf := { v.gaf with ops := [] } } :=
    (State.finished_eq ..).trans (State.sendEntry_room o k _ path held room)
  have quiet : (c.boots && r == .ok) = false := by
    obtain never | bad := ends
    · rw [never]; rfl
    · rw [beq_eq_false_iff_ne.mpr bad, Bool.and_false]
  refine ⟨?_, fun notify => ?_⟩
  · show (s.closed (v.finished o r d data hb extra).netOut).mb h.mb.val = _
    rw [State.closed_netOut_mb, written, State.writeEntry_mb, Completion.stamp_of_quiet _ k quiet]
    simp only [k, Op.completion, o, State.opFor, quiet]
    rfl
  · refine State.closed_irq s _ _ ?_
    show (v.finished o r d data hb extra).netOut.gaf.irqStatus.getLsbD h.mb.val = true
    rw [State.netOut_gaf, written]
    exact State.writeEntry_notifies _ (by omega) k _ notify

/-- Settles O12: the completion joins those held back, and the ring stands. -/
theorem fullRingHoldsTheCompletion : Obligations.FullRingHoldsTheCompletion := by
  intro dt h c s r d data extra hb f m w path full
  let o := (s.arrived dt).opFor h c
  let v := f ((s.arrived dt).begun h c)
  let k := o.completion r d data hb extra
  have held : v.finished o r d data hb extra =
      State.setMb h.mb.val { m with held := m.held ++ [k] } { v with gaf := { v.gaf with ops := [] } } :=
    (State.finished_eq ..).trans (State.sendEntry_full o k _ path full)
  have box : w = { m with held := m.held ++ [k] } := by
    show (s.closed (v.finished o r d data hb extra).netOut).mb h.mb.val = _
    rw [State.closed_netOut_mb, held, State.setMb_mb, if_pos rfl]
  rw [box]
  exact ⟨rfl, rfl, by simp [Mailbox.ringFull], k, rfl, rfl, rfl⟩

end Sys2Proof.Machine
end

section
/-!
PROOF. The session (R61 to R64) and STATUS_GET (R69): what HELLO and FEATURES_COMMIT answer, and that the bytes of STATUS_GET are those
of the rule.
-/
namespace Sys2Proof.Machine

/-- A host command taken alone that is refused by its own checks does nothing but answer. -/
theorem State.goOn_endsNot (dt : Nat) (h : CmdHead) (c : HostCmd) (s : State) (r : Result) (d : Nat) (takes : (s.arrived dt).takes h c = true)
    (out : ((s.arrived dt).begun h c).carryOut ((s.arrived dt).opFor h c) = ((s.arrived dt).begun h c, .done r d [] false [])) :
    goOn dt (State.hostRow h c) s = .next (s.endsNot dt h c r d) :=
  State.goOn_ends dt h c s r d [] [] false (fun b => b) takes out rfl

section
variable (s : State)

/-- HELLO with the interface version of the device opens a session (R62). -/
theorem State.hello_opens : s.hello 1 0 = ({ s with gaf := { s.gaf with session := true } },
    okWith (packLe [(16, s.offered.toNat), (16, s.gaf.committed.toNat), (2, 1), (2, 0), (2, 16), (2, 0)])) := rfl

/-- HELLO with another major version is refused. -/
theorem State.hello_otherMajor {maj : U16} (rsv : U32) (other : maj ≠ 1) : s.hello maj rsv = (s, badField 0x20) := by
  have bad : firstBad [(0x10, maj == 1), (0x14, rsv == 0)] = some 0x10 := by simpa [firstBad] using other
  unfold State.hello
  rw [bad]
  rfl

/-- HELLO with reserved bits set is refused. -/
theorem State.hello_reserved {rsv : U32} (set : rsv ≠ 0) : s.hello 1 rsv = (s, badField 0x24) := by
  have bad : firstBad [(0x10, (1 : U16) == 1), (0x14, rsv == 0)] = some 0x14 := by simpa [firstBad] using set
  unfold State.hello
  rw [bad]
  rfl

/-- The features that FEATURES_COMMIT commits: what is requested and offered, and the arbiter's own (R63). -/
def State.grantedFeatures (req : BitVec 128) (s : State) : BitVec 128 :=
  (req &&& s.offered) ||| (if s.isArbiter then BitVec.ofNat 128 (2 ^ 14) else 0)

/-- FEATURES_COMMIT that asks for no reserved bit and withdraws no feature in use commits what it grants (R63). -/
theorem State.featuresCommit_commits (req : BitVec 128) (low : ∀ i, i < 112 → req.getLsbD (16 + i) = false)
    (kept : ∀ i, i < 16 → s.gaf.committed.getLsbD i = true → (s.grantedFeatures req).getLsbD i = false → i ∉ s.usedFeatures) :
    s.featuresCommit req = ({ s with gaf := { s.gaf with committed := s.grantedFeatures req } }, okWith (leBytes 16 (s.grantedFeatures req).toNat)) := by
  have high : ((List.range 112).find? fun i => req.getLsbD (16 + i)) = none := by
    rw [List.find?_eq_none]
    intro i mem
    rw [low i (List.mem_range.mp mem)]
    exact Bool.false_ne_true
  have lost : ((List.range 16).find? fun i => s.feat i && !(s.grantedFeatures req).getLsbD i && s.usedFeatures.contains i) = none := by
    rw [List.find?_eq_none]
    intro i mem held
    simp only [Bool.and_eq_true, Bool.not_eq_true', List.contains_iff_mem] at held
    obtain ⟨⟨had, gone⟩, used⟩ := held
    exact kept i (List.mem_range.mp mem) had gone used
  unfold State.grantedFeatures at lost
  unfold State.featuresCommit
  dsimp only
  rw [high, lost]
  rfl

/-- FEATURES_COMMIT that asks for a reserved bit is refused with the lowest of them (R63). -/
theorem State.featuresCommit_reserved (req : BitVec 128) (i : Nat) (lt : i < 112) (set : req.getLsbD (16 + i) = true)
    (first : ∀ j, j < i → req.getLsbD (16 + j) = false) : s.featuresCommit req = (s, badField (0x10000 + 16 + i)) := by
  have high : ((List.range 112).find? fun i => req.getLsbD (16 + i)) = some i := by
    rw [List.find?_range_eq_some]
    exact ⟨set, List.mem_range.mpr lt, fun j lt => by simp [first j lt]⟩
  unfold State.featuresCommit
  dsimp only
  rw [high]

end

/-- Settles O14: the three commands are carried out alone, and each answer is one lemma. -/
theorem sessionCommands : Obligations.SessionCommands := by
  refine ⟨?_, ?_, ?_⟩
  · intro dt h drv maj min rsv s c b takes
    refine ⟨fun major zero => ?_, fun major => ?_, fun major set => ?_⟩
    · subst major zero
      exact State.goOn_ends dt h _ s _ _ _ _ _ _ takes (State.hello_opens b) rfl
    · exact State.goOn_endsNot dt h c s _ _ takes (State.hello_otherMajor b rsv major)
    · subst major
      exact State.goOn_endsNot dt h _ s _ _ takes (State.hello_reserved b set)
  · intro dt h req s c b new takes
    refine ⟨fun low kept => ?_, fun i lt set first => ?_⟩
    · exact State.goOn_ends dt h c s _ _ _ _ _ (fun b => { b with gaf := { b.gaf with committed := new } }) takes
        (State.featuresCommit_commits b req low kept) rfl
    · exact State.goOn_endsNot dt h c s _ _ takes (State.featuresCommit_reserved b req i lt set first)
  · intro dt h s b locked safe rate takes
    refine State.goOn_ends dt h .statusGet s _ _ _ _ _ (fun b => b) takes ?_ rfl
    show b.statusGet = _
    unfold State.statusGet okWith
    simp only [locked, safe, rate, b2n, beq_iff_eq]
    rfl

end Sys2Proof.Machine
end

section
/-!
PROOF. Configuration transactions (R72, R74, R76, R77; log entries 8 and 30): what a command finds that names a transaction it owns, the
commands that open, fill, discard and commit one, and the idle timeout.
-/
namespace Sys2Proof.Machine

/-! ### A command that names a transaction -/

/-- Transaction `t` is open under the number `id`, the sender of `h` owns it, and no commit or placement holds it. -/
structure State.Owns (h : CmdHead) (id : U32) (t : Txn) (s : State) : Prop where
  isOpen : s.gaf.txn = some t
  number : t.id = id
  box : t.mb = h.mb
  path : t.path = h.path
  idle : t.committing = false
  unplaced : s.placing id = none

/-- The transaction notes the instant of a command that names it (R76). -/
def State.touchTxn (t : Txn) (s : State) : State := s.modGaf fun g => { g with txn := some { t with last := s.now } }

/-- No placement runs where every operation waits its turn. -/
theorem State.placing_of_turns (id : U32) (s : State) (turns : ∀ o ∈ s.gaf.ops, o.wait = .turn) : s.placing id = none := by
  unfold State.placing
  rw [List.find?_eq_none]
  intro o mem
  rw [turns o mem]
  simp

/-- A command that came alone finds no placement. -/
theorem State.begun_placing (h : CmdHead) (c : HostCmd) (u : State) (id : U32) : (u.begun h c).placing id = none :=
  State.placing_of_turns id _ fun o mem => by rw [List.mem_singleton.mp mem]; rfl

section
variable {h : CmdHead} {id : U32} {t : Txn} {s : State}

theorem State.openTxn_eq (isOpen : s.gaf.txn = some t) (number : t.id = id) : s.openTxn id = some t := by
  unfold State.openTxn
  rw [isOpen]
  simp [number]

theorem State.Owns.txnBusy (own : s.Owns h id t) : s.txnBusy h id = none := by
  unfold State.txnBusy
  rw [own.isOpen]
  simp [own.number, own.box, own.path, own.idle, own.unplaced]

/-- A transaction of another mailbox is BUSY with that mailbox (R76). -/
theorem State.txnBusy_other (isOpen : s.gaf.txn = some t) (number : t.id = id) (box : t.mb ≠ h.mb) : s.txnBusy h id = some (busy t.mb.val) := by
  unfold State.txnBusy
  rw [isOpen]
  simp [number, box]

/-- The owner's command with good fields is carried out on its transaction, which notes the instant. -/
theorem State.Owns.withTxn (own : s.Owns h id t) (f : Txn → State → State × Reply) :
    s.withTxn h id none f = f { t with last := s.now } (s.touchTxn t) := by
  unfold State.withTxn
  rw [own.txnBusy, State.openTxn_eq own.isOpen own.number]
  rfl

/-- The owner's command with a bad field is refused, and the transaction notes the instant. -/
theorem State.Owns.withTxn_bad (own : s.Owns h id t) (o : Nat) (f : Txn → State → State × Reply) :
    s.withTxn h id (some o) f = (s.touchTxn t, badAt o) := by
  unfold State.withTxn
  rw [own.txnBusy, State.openTxn_eq own.isOpen own.number]
  rfl

/-- A command on a held transaction is answered so, whatever its fields. -/
theorem State.withTxn_busy {r : Reply} (held : s.txnBusy h id = some r) (bad : Option Nat) (f : Txn → State → State × Reply) :
    s.withTxn h id bad f = (s, r) := by
  unfold State.withTxn
  rw [held]

end

/-! ### CONFIG_BEGIN, CONFIG_ABORT and the idle timeout (R74, R76) -/

section
variable (h : CmdHead) (gen fl : U32) {s : State}

/-- CONFIG_BEGIN while a transaction is open is BUSY with the owner's mailbox. -/
theorem State.configBegin_busy {t : Txn} (isOpen : s.gaf.txn = some t) : s.configBegin h gen fl = (s, busy t.mb.val) := by
  unfold State.configBegin
  rw [isOpen]
  rfl

/-- CONFIG_BEGIN opens a transaction of the sender with the next number (log entry 8). -/
theorem State.configBegin_opens (closed : s.gaf.txn = none) (quiet : s.committer = none) (base : gen = 0 ∨ gen = s.cfgGen)
    (flags : fl.toNat < 2) : s.configBegin h gen fl =
      (s.modGaf fun g => { g with
          txn := some { id := s.gaf.nextTxn, mb := h.mb, path := h.path, base := s.cfgGen, fromEmpty := fl.getLsbD 0, last := s.now }
          nextTxn := nextNum s.gaf.nextTxn },
        okWith (packLe [(4, s.gaf.nextTxn.toNat), (4, s.cfgGen.toNat)])) := by
  have bits : onlyBits 1 fl.toNat = true := (onlyBits_eq 1 _).trans (decide_eq_true flags)
  have good : firstBad [(0, gen == 0 || gen == s.cfgGen), (4, onlyBits 1 fl.toNat)] = none := by
    simpa [firstBad, bits] using base
  unfold State.configBegin
  rw [closed, quiet, good]
  rfl

/-- CONFIG_BEGIN on another generation than the one in use is refused. -/
theorem State.configBegin_otherBase (closed : s.gaf.txn = none) (quiet : s.committer = none) (given : gen ≠ 0) (base : gen ≠ s.cfgGen) :
    s.configBegin h gen fl = (s, badField 0x10) := by
  have bad : firstBad [(0, gen == 0 || gen == s.cfgGen), (4, onlyBits 1 fl.toNat)] = some 0 := by
    have no : (gen == 0 || gen == s.cfgGen) = false := by
      rw [beq_eq_false_iff_ne.mpr given, beq_eq_false_iff_ne.mpr base]
      rfl
    rw [no]
    rfl
  unfold State.configBegin
  rw [closed, quiet, bad]
  rfl

end

section
variable {h : CmdHead} {id : U32} {t : Txn} {s : State}

/-- CONFIG_ABORT of the owner discards the transaction. -/
theorem State.Owns.configAbort (own : s.Owns h id t) : s.configAbort h id 0 = (s.modGaf fun g => { g with txn := none }, okNone) :=
  own.withTxn _

/-- CONFIG_ABORT of another mailbox is BUSY with the owner's (R76). -/
theorem State.configAbort_other (rsv : U32) (isOpen : s.gaf.txn = some t) (number : t.id = id) (box : t.mb ≠ h.mb) :
    s.configAbort h id rsv = (s, busy t.mb.val) := State.withTxn_busy (State.txnBusy_other isOpen number box) _ _

end

/-- A transaction that is not held is aborted once 60 s have passed since its last command, and not before (R76). -/
theorem State.txnIdle_eq {t : Txn} {s : State} (run : s.part.inReset = false) (isOpen : s.gaf.txn = some t) (idle : t.committing = false)
    (unplaced : s.placing t.id = none) : s.txnIdle = if s.now < t.last + 60 * secF then s
      else s.modGaf fun g => { g with txn := none, txnTimedOut := (t.id, t.last) :: g.txnTimedOut } := by
  unfold State.txnIdle
  rw [isOpen]
  simp [run, idle, unplaced]

/-- Settles O18: each case is one answer of its command. -/
theorem transactions : Obligations.Transactions := by
  refine ⟨?_, ?_, ?_⟩
  · intro dt h gen fl s c b takes
    refine ⟨fun t isOpen => ?_, fun closed base flags => ?_, fun closed given base => ?_⟩
    · exact State.goOn_endsNot dt h c s _ _ takes (State.configBegin_busy h gen fl isOpen)
    · exact State.goOn_ends dt h c s _ _ _ _ _ (fun b => { b with gaf := { b.gaf with
        txn := some { id := b.gaf.nextTxn, mb := h.mb, path := h.path, base := b.cfgGen, fromEmpty := fl.getLsbD 0, last := b.now }
        nextTxn := nextNum b.gaf.nextTxn } }) takes (State.configBegin_opens h gen fl closed rfl base flags) rfl
    · exact State.goOn_endsNot dt h c s _ _ takes (State.configBegin_otherBase h gen fl closed rfl given base)
  · intro dt h id rsv t s c b takes isOpen number zero
    refine ⟨fun box path idle => ?_, fun box => ?_⟩
    · have own : b.Owns h id t := ⟨isOpen, number, box, path, idle, State.begun_placing h c _ id⟩
      subst zero
      exact State.goOn_ends dt h _ s _ _ _ _ _ (fun b => { b with gaf := { b.gaf with txn := none } }) takes own.configAbort rfl
    · exact State.goOn_endsNot dt h c s _ _ takes (State.configAbort_other rsv isOpen number box)
  · intro dt t s u run isOpen idle turns
    have due := State.txnIdle_eq run isOpen idle (State.placing_of_turns t.id u turns)
    exact ⟨fun early => goOn_of_eq (due.trans (if_pos early)), fun late => goOn_of_eq (due.trans (if_neg (Nat.not_lt.mpr late)))⟩

/-! ### Staging (R72, R74) -/

section
variable {h : CmdHead} {op : Nat} {e : Envelope} {t : Txn} {s : State}

/-- Records that pass are staged after those of earlier commands, and what was placed no longer counts. -/
theorem State.Owns.staging (own : s.Owns h e.txn t) (named : e.txn ≠ 0) {rs : List RawRec} (raws : envRaws e = .ok rs)
    (good : s.stagingBad op e t.fromEmpty t.staged = none) : s.staging op h e =
      (s.modGaf fun g => { g with txn := some { t with last := s.now, staged := t.staged ++ rs.map RawRec.staged, placed := none } },
        okNone) := by
  unfold State.staging
  rw [if_neg named, State.openTxn_eq own.isOpen own.number]
  dsimp only [Option.any_some, Option.elim_some]
  rw [good, own.withTxn, raws]
  rfl

/-- A bad field rejects the command whole: the records staged before stay. -/
theorem State.Owns.staging_bad (own : s.Owns h e.txn t) (named : e.txn ≠ 0) {o : Nat}
    (bad : s.stagingBad op e t.fromEmpty t.staged = some o) : s.staging op h e = (s.touchTxn t, badAt o) := by
  unfold State.staging
  rw [if_neg named, State.openTxn_eq own.isOpen own.number]
  dsimp only [Option.any_some, Option.elim_some]
  rw [bad, own.withTxn_bad]

end

/-- Settles O19: the sender owns the transaction, so its records are taken or refused by their checks. -/
theorem stagingInATransaction : Obligations.StagingInATransaction := by
  intro i dt h op e t s row c b takes named isOpen number box path idle
  have own : b.Owns h e.txn t := ⟨isOpen, number, box, path, idle, State.begun_placing h c _ e.txn⟩
  rw [exec_asHost s row]
  refine ⟨fun rs raws good => ?_, fun o bad => ?_⟩
  · exact State.goOn_ends dt h c s _ _ _ _ _ (fun b => { b with gaf := { b.gaf with
      txn := some { t with last := b.now, staged := t.staged ++ rs.map RawRec.staged, placed := none } } }) takes
      (own.staging named raws good) rfl
  · exact State.goOn_ends dt h c s _ _ _ _ _ (State.touchTxn t) takes (own.staging_bad named bad) rfl

/-! ### A commit begins (R72, R77, R461) -/

/-- Staged records that pass the cross checks and have their placement, in COMMISSION and outside a cascade: the new bank is begun. -/
theorem State.commitRun_starts (fromEmpty : Bool) (staged : List Staged) (placed : Option Placement) (txn : Option U32)
    (at_ : Nat → Nat → Option Nat) (p : Placement) (s : State) (mode : s.gaf.mode = .commission) (alone : s.cascaded = false)
    (good : s.crossErr (compose (s.txnBase fromEmpty) staged) (sentSettings staged) = none)
    (fits : placed = none ∧ s.placeNow (compose (s.txnBase fromEmpty) staged) false = .placed p ∨ placed = some p ∧ s.lostEngine p = false) :
    s.commitRun fromEmpty staged placed txn at_ =
      (s.startBank
        { recs := compose (s.txnBase fromEmpty) staged, place := p, gen := nextGen s.store.cfg0 s.store.cfg1, features := s.gaf.committed
          changed := changedKeys s.allRecs (compose (s.txnBase fromEmpty) staged) staged fromEmpty, txn, master := false }, .wait .commit) := by
  unfold State.commitRun
  dsimp only
  rw [mode, good, alone]
  obtain ⟨none, now⟩ | ⟨some, kept⟩ := fits
  · rw [none, now]
    rfl
  · rw [some]
    dsimp only
    rw [kept]
    rfl

/-- A staging command of its own that nothing holds up is a commit of its records alone (R72; log entry 30). -/
theorem State.implicit_commits {op : Nat} {e : Envelope} {raws : List RawRec} {s : State} (read : envRaws e = .ok raws)
    (closed : s.gaf.txn = none) (quiet : s.gaf.commit = none) (power : s.pwr.warn = false) (good : s.stagingBad op e false [] = none) :
    ∃ at_, s.implicit op e = s.commitRun false (raws.map RawRec.staged) none none at_ := by
  unfold State.implicit
  rw [read, closed, quiet, power, good]
  exact ⟨_, rfl⟩

/-- A device in COMMISSION without a configuration, and one DEVICE record as an envelope without a transaction. -/
def unconfigured : State :=
  { part := { inReset := false, porLow := false, bootStep := 3 }, gaf := { mode := .commission, fwReady := true } }
@[inherit_doc unconfigured] def deviceRecord : Envelope :=
  { txn := 0, records := packLe [(2, 0x101), (1, 1), (1, 0), (4, 0), (2, 4), (2, 0), (4, 1)] }

/-- What O20 asks of a staging command of its own is met: the record is read, passes its checks and is placed. -/
theorem deviceRecord_placed :
    let s := unconfigured.arrived 0
    let h : CmdHead := { mb := 0, tag := 7 }
    let c : HostCmd := .staging 0x11 deviceRecord
    let b := s.begun h c
    s.takes h c = true ∧ b.stagingBad 0x11 deviceRecord false [] = none ∧ ∃ raws p, envRaws deviceRecord = .ok raws ∧
      b.crossErr (compose (b.txnBase false) (raws.map RawRec.staged)) (sentSettings (raws.map RawRec.staged)) = none ∧
      b.placeNow (compose (b.txnBase false) (raws.map RawRec.staged)) false = .placed p :=
  ⟨by decide, by decide, _, _, rfl, by decide, rfl⟩

/-- Settles O20: the command is a commit of its own, which begins the bank. -/
theorem stagingOfItsOwn : Obligations.StagingOfItsOwn := by
  intro i dt h op e raws p s row c b staged recs slot gen commit takes unnamed read closed quiet power good mode cross placed alone
  obtain ⟨at_, run⟩ := State.implicit_commits (s := b) read closed quiet power good
  have starts := State.commitRun_starts false staged none none at_ p b mode alone cross (Or.inl ⟨rfl, placed⟩)
  have carried : b.staging op h e = b.implicit op e := if_pos unnamed
  rw [exec_asHost s row]
  exact State.goOn_waits dt h c s .commit _ takes ((carried.trans run).trans starts) (by decide) rfl

section
variable {h : CmdHead} {id : U32} {t : Txn} {s : State}

/-- CONFIG_COMMIT of the owner under PWR_WARN is BUSY and writes nothing (R77). -/
theorem State.Owns.configCommit_warn (own : s.Owns h id t) (rsv : U32) (power : s.pwr.warn = true) :
    s.configCommit h id rsv = (s, busy 0x10) := by
  unfold State.configCommit
  rw [own.txnBusy, power]
  rfl

/-- CONFIG_COMMIT of the owner runs the commit of what is staged, and a commit that begins holds the transaction. -/
theorem State.Owns.configCommit (own : s.Owns h id t) (power : s.pwr.warn = false) (quiet : s.gaf.commit = none) {v : State}
    (run : (s.touchTxn t).commitRun t.fromEmpty t.staged t.placed (some t.id) (fun _ _ => none) = (v, .wait .commit)) :
    s.configCommit h id 0 = (v.modGaf fun g => { g with txn := some { t with last := s.now, committing := true } }, .wait .commit) := by
  unfold State.configCommit
  have fields : firstBad [(4, (0 : U32) == 0)] = none := rfl
  rw [own.txnBusy, power, quiet, fields]
  simp only [Option.isSome_none, Bool.false_and, Bool.false_eq_true, if_false, own.withTxn, run]
  rfl

end

/-- Settles O21: the commit runs on the transaction as it stands, and holds it. -/
theorem commitStarts : Obligations.CommitStarts := by
  intro dt h id rsv t p s c b recs slot gen commit takes isOpen number box path idle
  have own : b.Owns h id t := ⟨isOpen, number, box, path, idle, State.begun_placing h c _ id⟩
  refine ⟨fun warn => ?_, fun power zero quiet mode placed kept cross alone => ?_⟩
  · exact State.goOn_endsNot dt h c s _ _ takes (own.configCommit_warn rsv warn)
  · subst zero number
    have run := State.commitRun_starts t.fromEmpty t.staged t.placed (some t.id) (fun _ _ => none) p (b.touchTxn t) mode alone cross
      (Or.inr ⟨placed, kept⟩)
    exact State.goOn_waits dt h _ s .commit _ takes (own.configCommit power quiet run) (by decide) rfl

end Sys2Proof.Machine
end

section
/-!
PROOF. The marker of a bank (R459, R461, R465) and the effect of a committed configuration at its tick (R77; log entry 29).
-/
namespace Sys2Proof.Machine

/-! ### The marker makes a bank valid (R77, R461, R465) -/

section
variable {u : State} (run : u.part.inReset = false)
include run

/-- The marker of a configuration bank of a device by itself: the bank is valid, and its effect tick is known. -/
theorem State.bankMarker_config {c : Commit} (commit : u.gaf.commit = some c) (unwritten : c.marker = none) (cascade : c.cascade = false)
    (master : c.master = false) (alone : u.cascaded = false) : u.bankMarker .config = { u with
      store := { u.store.setCfg (freeSlot u.store.cfg0 u.store.cfg1) (.valid c.gen { recs := c.recs, features := c.features, place := c.place })
        with cfgUse := some (freeSlot u.store.cfg0 u.store.cfg1) }
      gaf := { u.gaf with commit := some { c with marker := some u.now, effect := some (nextTickStart u.rate u.now) } } } := by
  unfold State.bankMarker State.cfgMarker
  rw [run, commit]
  dsimp only
  rw [unwritten, cascade, master]
  simp only [Option.isSome_none, Bool.or_self, Bool.false_eq_true, if_false]
  exact if_neg (Bool.eq_false_iff.mp alone)

/-- The marker of a calibration bank: the bank is valid, and its items wait for their tick. -/
theorem State.bankMarker_cal {c : CalCommit} (commit : u.store.calCommit = some c) (unwritten : c.marker = none) :
    u.bankMarker .cal = { u with
      store := { u.store.setCal (freeSlot u.store.cal0 u.store.cal1) (.valid c.gen c.items)
        with calUse := some (freeSlot u.store.cal0 u.store.cal1), calCommit := some { c with marker := some u.now } } } := by
  unfold State.bankMarker State.calMarker
  rw [run, commit]
  dsimp only
  rw [unwritten]
  rfl

end

/-- Settles O22: both markers at their instant. -/
theorem markerMakesTheBankValid : Obligations.MarkerMakesTheBankValid :=
  ⟨fun _ _ _ run commit unwritten cascade master alone => goOn_of_eq (State.bankMarker_config run commit unwritten cascade master alone),
    fun _ _ _ run commit unwritten => goOn_of_eq (State.bankMarker_cal run commit unwritten)⟩

/-! ### A commit takes effect (R77) -/

section
variable {c : Commit} {u : State} (run : u.part.inReset = false) (commit : u.gaf.commit = some c) (master : c.master = false)
include commit master

/-- Only a master names the effect tick of others (R435). -/
theorem State.nameEffect_own : u.nameEffect = u := by
  unfold State.nameEffect
  rw [commit]
  simp [master]

variable {at_ : Fine} (effect : c.effect = some at_)
include run effect

/-- A commit with its marker applies from its effect tick on. -/
theorem State.configApply_due (marker : c.marker.isSome = true) (due : at_ ≤ u.now) :
    u.configApply = (u.keepSync (State.applyCommit c at_)).calApply := by
  unfold State.configApply
  rw [run, State.nameEffect_own commit master]
  dsimp only
  rw [commit]
  simp only [effect, marker, due, decide_true, Bool.and_self, Bool.false_eq_true, if_true, if_false]

/-- Before its effect tick a commit waits, and calibration items may take effect. -/
theorem State.configApply_early (early : u.now < at_) : u.configApply = u.calApply := by
  unfold State.configApply
  rw [run, State.nameEffect_own commit master]
  dsimp only
  rw [commit]
  simp only [effect, Nat.not_le.mpr early, decide_false, Bool.and_false, Bool.false_eq_true, if_false]

end

/-- With no calibration bank being written no items take effect. -/
theorem State.calApply_none (u : State) (quiet : u.store.calCommit = none) : u.calApply = u := by
  unfold State.calApply
  rw [quiet]

/-- Settles O23: the commit is applied at its tick as the statement spells it out, and nothing before. -/
theorem commitTakesEffect : Obligations.CommitTakesEffect := by
  intro dt c at_ s u v w x y run commit master cascade marker effect
  refine ⟨fun due => ?_, fun early quiet idle => ?_⟩
  · have applied : State.applyCommit c at_ u = y := by
      unfold State.applyCommit
      rw [cascade]
      rfl
    have noted : u.configApply = (y.noteSync u.timeSync).calApply := by
      rw [← applied]
      exact State.configApply_due run commit master effect marker due
    exact goOn_of_eq (congrArg State.settleOut noted)
  · have waits : u.configApply = u := (State.configApply_early run commit master effect early).trans (u.calApply_none quiet)
    exact goOn_of_eq ((congrArg State.settleOut waits).trans (State.settleOut_idle u idle))

end Sys2Proof.Machine
end

section
/-!
PROOF. How data returns through a buffer descriptor (R51, R52), and the commands that read back what the device holds: PLACEMENT_GET
(R266), SETTINGS_READ (R79), CAL_READ (R466), RECORD_LIST and RECORD_READ (R408 to R411).
-/
namespace Sys2Proof.Machine

/-! ### Data through a buffer descriptor (R51, R52) -/

/-- Under KIND 0 a descriptor offers no room. -/
theorem bufRoom_none {b : BufDesc} (kind : b.kind = 0) : bufRoom b = 0 := if_pos kind

/-- Under another kind it offers its LENGTH. -/
theorem bufRoom_some {b : BufDesc} (kind : b.kind ≠ 0) : bufRoom b = b.len.toNat := if_neg kind

/-- What a write of returned data answers where the access to host memory ends so (R52). -/
def State.accessEnds (b : BufDesc) (data inline_ : Bytes) (s : State) : HostAnswer → State × Reply
  | .answers => ({ s with hostMem := Mem.writeBytes 0 s.hostMem b.addr.toNat (data.take b.len.toNat) }, .done .ok 0 inline_ true [])
  | .silent => (s, .wait (.host s.now))
  | .aborts => (spoilBuf b s, .done .timeout 0 [] false [])

section
variable {b : BufDesc} (data inline_ : Bytes) (s : State)

/-- Under a kind other than 1 what fits comes beside the completion (R51). -/
theorem State.deliver_beside (kind : b.kind ≠ 1) :
    s.deliver b data inline_ = (s, .done .ok 0 inline_ false (padTo 16 (data.take (bufRoom b)))) := if_neg kind

/-- Under KIND 1 data go to host memory, and the answer is that of the access. -/
theorem State.deliver_host (kind : b.kind = 1) (some_ : data.take b.len.toNat ≠ []) :
    s.deliver b data inline_ = s.accessEnds b data inline_ (s.hostMeets b) := by
  have room : bufRoom b = b.len.toNat := bufRoom_some (by rw [kind]; decide)
  unfold State.deliver
  simp only [kind, room, List.isEmpty_eq_false_iff.mpr some_, Bool.false_eq_true, if_true, if_false]
  cases s.hostMeets b with
  | answers => rfl
  | silent => rfl
  | aborts => rfl

end

/-- With the link up a host access ends as the host says; with it down nothing answers (R52). -/
theorem State.hostMeets_up {s : State} (b : BufDesc) (up : s.part.pcieUp = true) : s.hostMeets b = b.host := if_pos up

theorem State.hostMeets_silent {s : State} {b : BufDesc} (silent : s.part.pcieUp = false ∨ b.host = .silent) : s.hostMeets b = .silent := by
  unfold State.hostMeets
  obtain down | silent := silent
  · rw [down]; rfl
  · rw [silent, ite_self]

/-- Settles O26: the kinds of a descriptor, and under KIND 1 how the access to host memory ends. -/
theorem dataReturnsThroughTheBuffer : Obligations.DataReturnsThroughTheBuffer := by
  intro b data inline_ s
  refine ⟨fun kind => ?_, fun kind some_ up host => ?_, fun kind some_ silent => ?_, fun kind some_ up host => ?_, fun kind => ?_⟩
  · have beside := State.deliver_beside data inline_ s (b := b) (by rw [kind]; decide)
    rw [bufRoom_none kind, List.take_zero] at beside
    exact beside
  · rw [State.deliver_host data inline_ s kind some_, State.hostMeets_up b up, host]
    rfl
  · rw [State.deliver_host data inline_ s kind some_, State.hostMeets_silent silent]
    rfl
  · rw [State.deliver_host data inline_ s kind some_, State.hostMeets_up b up, host]
    rfl
  · have beside := State.deliver_beside data inline_ s (b := b) (by rw [kind]; decide)
    rwa [bufRoom_some (by rw [kind]; decide)] at beside

/-- A command taken alone whose answer is the data it returns (R51). -/
theorem State.goOn_deliver (dt : Nat) (h : CmdHead) (c : HostCmd) (s : State) (buf : BufDesc) (data inline_ : Bytes)
    (takes : (s.arrived dt).takes h c = true)
    (out : ((s.arrived dt).begun h c).carryOut ((s.arrived dt).opFor h c) = ((s.arrived dt).begun h c).deliver buf data inline_) :
    goOn dt (State.hostRow h c) s = .next (s.endsReply dt h c (((s.arrived dt).begun h c).deliver buf data inline_)) := by
  obtain ⟨m, n, kept, flash⟩ := State.deliver_eq buf data inline_ ((s.arrived dt).begun h c)
  exact State.goOn_reply dt h c s _ takes out flash (by rw [kept]; rfl)

/-! ### What each command reads -/

section
variable {h : CmdHead} {buf : BufDesc} {s : State}

/-- PLACEMENT_GET by INST of the placement in use with good fields (R266). -/
theorem State.placementGet_inUse {first n : U16} (lt : first.toNat < numInsts s.isL) (least : 1 ≤ n.toNat) (most : n.toNat ≤ 1024)
    (good : bufBad buf 8 h.path = none) :
    let es := ((List.range n.toNat).map (first.toNat + ·)).filterMap fun k => (s.place.insts.find? k).map fun x => PlacedInst.entry k x
    s.placementGet h 0 0 first n 0 buf = if s.place.proven then s.deliver buf (es.take (bufFits buf 32 es.length)).flatten
      (packLe [(4, s.place.digest.toNat), (4, s.place.inputDigest.toNat), (4, s.cfgGen.toNat), (2, bufFits buf 32 es.length),
        (2, s.place.maxUtil)]) else (s, noRes 0x0601) := by
  intro es
  have fields : firstBad [(0, decide ((0 : Byte).toNat ≤ 2)), (1, decide ((0 : Byte).toNat ≤ 1)),
      (2, decide (first.toNat < if (0 : Byte) == 0 then numInsts s.isL else numEngines s.isL)), (4, within 1 1024 n.toNat),
      (6, (0 : U16) == 0)] = none := by
    simp [firstBad, within, lt, least, most]
  unfold State.placementGet
  dsimp only
  rw [fields, good]
  cases proven : s.place.proven with
  | true => rfl
  | false => rfl

/-- SETTINGS_READ of the committed settings of an INST into a buffer that holds them, or a buffer of another kind (R79). -/
theorem State.settingsRead_committed {inst : U16} {body : Bytes} (rec_ : recIn s.allRecs 0x501 inst.toNat = some body)
    (good : bufBad buf 4 h.path = none) :
    let data := setBody inst.toNat (allSettings (body.u8 0) (valsOf s.allRecs inst.toNat))
    s.settingsRead h inst 0 0 buf = if buf.kind = 1 ∧ buf.len.toNat < data.length then (s, badField 0x1C)
      else s.deliver buf data (packLe [(4, min (bufRoom buf) data.length), (4, 0)]) := by
  intro data
  unfold State.settingsRead
  dsimp only
  rw [rec_, good]
  change (match firstBad [(0, true), (2, true), (3, true), (4, true),
      (0xC, !(buf.kind == 1 && decide (buf.len.toNat < data.length)))] <|> none with
    | some o => (s, badAt o)
    | none => s.deliver buf data (packLe [(4, min (bufRoom buf) data.length), (4, 0)])) = _
  cases cut : (buf.kind == 1 && decide (buf.len.toNat < data.length)) with
  | true => exact (if_pos (by simpa using cut)).symm
  | false => exact (if_neg (by simpa using cut)).symm

/-- Items that fit whole in a buffer are all taken, in order. -/
theorem foldl_pack {α : Type} (bytes : α → Bytes) (room : Nat) (es : List α) (acc : Bytes) (k : Nat)
    (fits : acc.length + (es.map fun x => (bytes x).length).sum ≤ room) :
    es.foldl (fun (a : Bytes × Nat × Bool) c =>
      if a.2.2 && a.1.length + (bytes c).length ≤ room then (a.1 ++ bytes c, a.2.1 + 1, true) else (a.1, a.2.1, false)) (acc, k, true) =
      (acc ++ es.flatMap bytes, k + es.length, true) := by
  induction es generalizing acc k with
  | nil => simp
  | cons x es ih =>
    rw [List.map_cons, List.sum_cons] at fits
    have first : acc.length + (bytes x).length ≤ room := by omega
    rw [List.foldl_cons]
    simp only [first, decide_true, Bool.and_self, if_true]
    rw [ih (acc ++ bytes x) (k + 1) (by rw [List.length_append]; omega), List.flatMap_cons, List.append_assoc, List.length_cons]
    simp [Nat.add_comm, Nat.add_left_comm]

/-- An item of calibration data as CAL_READ returns it. -/
def CalItem.entry (x : CalItem) : Bytes := packLe [(2, x.item), (2, x.obj), (4, x.data.length)] ++ padTo 4 x.data

/-- CAL_READ of all items of a kind, where there is one and they fit (R466). -/
theorem State.calRead_all {item : U16} (path : Path) (least : 1 ≤ item.toNat) (most : item.toNat ≤ 3) (good : bufBad buf 8 path = none)
    (fw : s.gaf.romHold = false) :
    let es := s.store.items.filter fun x => x.item == item.toNat
    (es = [] → s.calRead path item 0xFFFF 0 buf = (s, noRes 0x0D01)) ∧
    (es ≠ [] → (es.map fun x => x.entry.length).sum ≤ bufRoom buf → s.calRead path item 0xFFFF 0 buf =
      s.deliver buf (es.flatMap CalItem.entry) (packLe [(4, s.store.calGen.toNat), (2, es.length)])) := by
  intro es
  have fields : firstBad [(0, calItemOk item.toNat), (2, (0xFFFF : U16).toNat == 0xFFFF || calObjOk s.isL item.toNat (0xFFFF : U16).toNat),
      (4, (0 : U32) == 0)] = none := by
    simp [firstBad, calItemOk, within, least, most]
  have all : (s.store.items.filter fun c => c.item == item.toNat && ((0xFFFF : U16).toNat == 0xFFFF || c.obj == (0xFFFF : U16).toNat)) = es :=
    List.filter_congr fun x _ => by simp
  unfold State.calRead
  dsimp only
  rw [fields, good, all, fw]
  refine ⟨fun none => ?_, fun some_ fits => ?_⟩
  · rw [none]; rfl
  · have packed := foldl_pack CalItem.entry (bufRoom buf) es [] 0 (by simpa using fits)
    unfold CalItem.entry at packed ⊢
    simp only [List.isEmpty_eq_false_iff.mpr some_, packed, Bool.false_eq_true, if_false, List.nil_append, Nat.zero_add]

/-- RECORD_LIST with good fields (R408). -/
theorem State.recordList_eq {first : U32} {kinds : Byte} {n : U16} {path : Path} (ddr : s.rec_.ddr = true) (known : kinds.toNat ≤ 3)
    (least : 1 ≤ n.toNat) (most : n.toNat ≤ 4096) (good : bufBad buf 8 path = none) :
    let rs := s.rec_.records
    let want := rs.filter fun r => decide (first.toNat ≤ r.num) && bitOf kinds.toNat (if r.archive then 1 else 0)
    let fit := min n.toNat (bufFits buf 32 want.length)
    s.recordList first kinds 0 n buf path = s.deliver buf ((want.take fit).flatMap Record.entry)
      (packLe [(4, rs.length), (4, (rs.head?).elim 0 (·.num)), (4, (rs.getLast?).elim 0 (·.num)), (4, s.areaFree false / 2 ^ 20),
        (4, s.areaFree true / 2 ^ 20), (4, s.rec_.missed), (4, s.rec_.overwritten), (2, fit), (10, 0)]) := by
  intro rs want fit
  unfold State.recordList
  rw [ddr, good]
  simp only [Nat.not_lt.mpr known, within, least, most, ne_eq, not_true_eq_false, Bool.not_true, Bool.false_eq_true, if_false, and_self,
    decide_true]
  rfl

/-- RECORD_READ of a record in its native form (R410, R411). -/
theorem State.recordRead_native {num : U32} {off : U64} {path : Path} (ddr : s.rec_.ddr = true) (good : bufBad buf 0x10 path = none) :
    (∀ r, s.rec_.records.find? (fun x => x.num == num.toNat) = some r → s.recordRead num 0 0 0 off buf path =
      s.deliver buf ((r.native.drop off.toNat).take (bufRoom buf))
        (packLe [(4, ((r.native.drop off.toNat).take (bufRoom buf)).length), (8, r.native.length), (1, r.state)])) ∧
    (s.rec_.records.find? (fun x => x.num == num.toNat) = none → s.recordRead num 0 0 0 off buf path = (s, noRes 0xB01)) := by
  unfold State.recordRead
  rw [ddr, good]
  refine ⟨fun r found => ?_, fun none => ?_⟩
  · rw [found]; rfl
  · rw [none]; rfl

end

/-- Settles O27: each command is carried out alone, and reads what its lemma says. -/
theorem readingBack : Obligations.ReadingBack := by
  refine ⟨?_, ?_, ?_, ?_, ?_⟩
  · intro dt h first n buf s c b es fit takes lt least most good
    have read := State.placementGet_inUse (s := b) (first := first) lt least most good
    refine ⟨fun proven => ?_, fun proven => ?_⟩
    · exact State.goOn_deliver dt h c s _ _ _ takes (read.trans (if_pos proven))
    · exact State.goOn_endsNot dt h c s _ _ takes (read.trans (if_neg (Bool.eq_false_iff.mp proven)))
  · intro dt h inst buf body s c b data takes rec_ good
    have read := State.settingsRead_committed rec_ good
    refine ⟨fun room => ?_, fun kind short => ?_⟩
    · refine State.goOn_deliver dt h c s _ _ _ takes (read.trans (if_neg ?_))
      rintro ⟨kind, short⟩
      exact room.elim (· kind) (Nat.not_le.mpr short)
    · exact State.goOn_endsNot dt h c s _ _ takes (read.trans (if_pos ⟨kind, short⟩))
  · intro dt h item buf s c b bytes es takes least most good fw
    obtain ⟨absent, fits⟩ := State.calRead_all (s := b) h.path least most good fw
    exact ⟨fun none => State.goOn_endsNot dt h c s _ _ takes (absent none),
      fun some_ room => State.goOn_deliver dt h c s _ _ _ takes (fits some_ room)⟩
  · intro dt h first kinds n buf s c b rs want fit takes ddr known least most good
    exact State.goOn_deliver dt h c s _ _ _ takes (State.recordList_eq ddr known least most good)
  · intro dt h num off buf r s c b data takes ddr good
    obtain ⟨found, missing⟩ := State.recordRead_native (s := b) (num := num) (off := off) ddr good
    exact ⟨fun some_ => State.goOn_deliver dt h c s _ _ _ takes (found r some_),
      fun none => State.goOn_endsNot dt h c s _ _ takes (missing none)⟩

end Sys2Proof.Machine
end

section
/-!
PROOF. Batches become operations (R47, R48, R50, R53, R70, R71; log entry 27): a pass over the doorbells, and a command datagram over
Ethernet.
-/
namespace Sys2Proof.Machine

/-! ### A pass over the doorbells (R47, R48) -/

/-- A number below 16 is that of one of the mailboxes. -/
theorem exists_finRange_val {m : Nat} (k : Nat) : (∃ n ∈ List.finRange m, n.val = k) ↔ k < m :=
  ⟨fun ⟨n, _, e⟩ => e ▸ n.isLt, fun lt => ⟨⟨k, lt⟩, List.mem_finRange _, rfl⟩⟩

/-- A pass of the firmware takes in the batches of all mailboxes in ascending number: each command with a free tag becomes an operation,
and every mailbox is IDLE. -/
theorem State.doorbellPass_takes (u : State) (up : u.gafferUp = true) (fresh : u.fresh ((List.finRange 16).flatMap u.batchOf)) :
    ∃ l q m, u.doorbellPass = (State.pump { u with gaf := { u.gaf with ops := u.gaf.ops ++ l, opSeq := q }, mbx := m }).netOut ∧
      opsFor l ((List.finRange 16).flatMap u.batchOf) ∧
      ∀ n, Table.get { } m n = if n < 16 then { u.mb n with busy := false } else u.mb n := by
  obtain ⟨l, q, m, served, ops, idle⟩ := State.serveBoxes (List.finRange 16) u (List.nodup_finRange 16) fresh
  refine ⟨l, q, m, (if_pos up).trans (congrArg (fun s => (State.pump s).netOut) served), ops, fun n => ?_⟩
  rw [idle n]
  simp only [exists_finRange_val]

/-- Before the firmware runs and in reset a pass serves nothing. -/
theorem State.doorbellPass_down (u : State) (down : u.gafferUp = false) : u.doorbellPass = u :=
  if_neg (Bool.eq_false_iff.mp down)

/-! ### A command datagram (R70, R71) -/

/-- A datagram comes on a port, from a source and for a mailbox that the MOE_PORT record permits (R70). -/
def State.moePermits (d : MoeDatagram) (s : State) : Bool :=
  s.feat 11 && bitOf (((s.rec? 0xA08 0).getD []).u16 0) d.port.val && d.udpPort.toNat == ((s.rec? 0xA08 0).getD []).u16 2 &&
  s.moeSources.contains d.src && s.isMoe d.mailbox.toNat && d.mailbox.toNat < 16

/-- Its header is not one of R71, or its reserved fields are not 0. -/
def moeMalformed (d : MoeDatagram) : Bool := d.magic != 0x574D || d.version != 1 || d.typ != 1 || d.rsv != 0 || d.rsv2 != 0

/-- Its commands, COUNT of them at most. -/
def moeCommands (d : MoeDatagram) : List Incoming :=
  (parseBatch (Fin.ofNat 16 d.mailbox.toNat) .moe d.seq d.src d.batch 257 0).take d.count.toNat

theorem State.moePermits_iff (d : MoeDatagram) (s : State) : s.moePermits d = true ↔
    s.feat 11 = true ∧ bitOf (((s.rec? 0xA08 0).getD []).u16 0) d.port.val = true ∧ d.udpPort.toNat = ((s.rec? 0xA08 0).getD []).u16 2 ∧
      d.src ∈ s.moeSources ∧ s.isMoe d.mailbox.toNat = true ∧ d.mailbox.toNat < 16 := by
  simp only [State.moePermits, Bool.and_eq_true, beq_iff_eq, List.contains_iff_mem, decide_eq_true_eq, and_assoc]

/-- The header of R71 with reserved fields 0. -/
theorem moeMalformed_iff {d : MoeDatagram} (rsv : d.rsv = 0) (rsv2 : d.rsv2 = 0) :
    moeMalformed d = true ↔ d.magic ≠ 0x574D ∨ d.version ≠ 1 ∨ d.typ ≠ 1 := by
  simp [moeMalformed, rsv, rsv2, or_assoc]

section
variable (d : MoeDatagram) {u : State} (up : u.gafferUp = true) (mac : u.devMac ≠ 0)
include up mac

/-- With the firmware up and an address of its own the device discards a datagram that is not permitted, drops a malformed one, and takes
in the commands of any other. -/
theorem State.moeDatagram_eq : u.moeDatagram d =
    if u.moePermits d = false then { u with net := { u.net with moeReject := satAdd 32 u.net.moeReject 1 } }
    else if moeMalformed d then u else (((moeCommands d).foldl State.accept u).pump).netOut := by
  have served : (!u.gafferUp || u.devMac == 0) = false := by
    rw [up, beq_eq_false_iff_ne.mpr mac]
    rfl
  refine (if_neg (Bool.eq_false_iff.mp served)).trans ?_
  change (if (!u.moePermits d) = true then _ else _) = _
  cases u.moePermits d with
  | false => rfl
  | true => rfl

end

/-- Every command of a batch is of its mailbox, and keeps where it came from. -/
theorem parseBatch_origin (mb : Fin 16) (p : Path) (q : U32) (src : BitVec 128) (b : Bytes) (fuel off : Nat) :
    ∀ i ∈ parseBatch mb p q src b fuel off, i.h.mb = mb ∧ i.moeSeq = q ∧ i.moeSrc = src := by
  induction fuel generalizing off with
  | zero => exact fun i mem => nomatch mem
  | succ fuel ih =>
    unfold parseBatch
    split
    · exact fun i mem => nomatch mem
    · dsimp only
      split
      · intro i mem
        rw [List.mem_singleton.mp mem]
        exact ⟨rfl, rfl, rfl⟩
      · intro i mem
        obtain rfl | rest := List.mem_cons.mp mem
        · exact ⟨rfl, rfl, rfl⟩
        · exact ih _ i rest

/-- A command over MOE whose completion is kept is not executed again: the completion is sent once more (R71). -/
theorem State.accept_replays {s : State} {i : Incoming} {c : Completion} (cut : i.cut = none) (path : i.h.path = .moe)
    (kept : s.keptOf i = some c) : s.accept i = s.emit (.moe i.h.mb.val i.moeSeq i.moeSrc [{ c with cflags := c.cflags ||| 4 }]) := by
  unfold State.accept
  rw [cut, path, kept]
  rfl

/-- The commands of a datagram are of its mailbox, over MOE, and keep its SEQ and source. -/
theorem moeCommands_origin {d : MoeDatagram} {i : Incoming} (mem : i ∈ moeCommands d) :
    i.h.mb = Fin.ofNat 16 d.mailbox.toNat ∧ i.h.path = .moe ∧ i.moeSeq = d.seq ∧ i.moeSrc = d.src := by
  have parsed := List.mem_of_mem_take mem
  obtain ⟨box, seq, src⟩ := parseBatch_origin _ _ _ _ _ _ _ i parsed
  exact ⟨box, parseBatch_path _ _ _ _ _ _ _ i parsed, seq, src⟩

/-! ### A device and a datagram that meet what the statement asks -/

/-- A device in COMMISSION with an address, whose MOE_PORT record permits port 0, UDP port 9 and the source 1 for mailbox 0. -/
def moeDevice : State :=
  { part := { inReset := false, porLow := false, bootStep := 3 }
    gaf := { mode := .commission, fwReady := true, committed := 0xFFFF }
    cfg := [{ rtype := 0xA02, obj := 0, body := [1] ++ zeros 19 },
      { rtype := 0xA08, obj := 0, body := [1, 0, 9, 0, 1, 0, 1, 0] ++ zeros 15 ++ [1] }] }

/-- A datagram for mailbox 0 with one STATUS_GET of TAG 5. -/
def moeStatus : MoeDatagram :=
  { port := 0, src := 1, udpPort := 9, magic := 0x574D, version := 1, typ := 1, mailbox := 0, rsv := 0, count := 1, seq := 3, rsv2 := 0
    batch := [4, 0, 5, 0] ++ zeros 12 }

/-- A completion of that command. -/
def moeKept : Completion := { tag := 5, opcode := 4, result := 0, cflags := 0, detail := 0, data := [], tDone := 0, notify := false }

/-- The datagram is permitted and well formed, and its one command is new to the device, or repeats one whose completion is kept. -/
theorem moeStatus_permitted :
    let kept : State := { moeDevice with mbx := [(0, { kept := [moeKept] })] }
    (moeDevice.arrived 0).gafferUp = true ∧ (moeDevice.arrived 0).devMac ≠ 0 ∧ (moeDevice.arrived 0).moePermits moeStatus = true ∧
      moeMalformed moeStatus = false ∧ (moeDevice.arrived 0).fresh (moeCommands moeStatus) ∧
      (moeCommands moeStatus).map (fun i => (i.h.tag, i.cmd, (kept.arrived 0).keptOf i)) = [(5, .statusGet, some moeKept)] := by
  refine ⟨by decide, by decide, by decide, by decide, ?_, by decide⟩
  unfold State.fresh
  decide

/-- Settles O46: a pass takes in the batches of the mailboxes, and a datagram goes one of the ways of `State.moeDatagram_eq`. -/
theorem batchesBecomeOperations : Obligations.BatchesBecomeOperations := by
  refine ⟨?_, ?_⟩
  · intro dt s u
    refine ⟨fun up fresh => ?_, fun down => goOn_of_eq (u.doorbellPass_down down)⟩
    obtain ⟨l, q, m, pass, ops, idle⟩ := u.doorbellPass_takes up fresh
    exact ⟨l, q, m, goOn_of_eq pass, ops, idle⟩
  · intro dt d s u b is_ permitted up mac
    have ways := State.moeDatagram_eq d up mac
    refine ⟨fun no => ?_, fun yes rsv rsv2 => ?_⟩
    · have refused : u.moePermits d = false := Bool.eq_false_iff.mpr fun h => no ((u.moePermits_iff d).mp h)
      exact goOn_of_eq (ways.trans (if_pos refused))
    have permits : ¬ u.moePermits d = false := by
      rw [(u.moePermits_iff d).mpr yes]
      exact Bool.noConfusion
    rw [if_neg permits] at ways
    refine ⟨fun bad => goOn_of_eq (ways.trans (if_pos ((moeMalformed_iff rsv rsv2).mpr bad))), fun magic version typ => ?_⟩
    have wellFormed : ¬ moeMalformed d = true := by simp [moeMalformed_iff rsv rsv2, magic, version, typ]
    rw [if_neg wellFormed] at ways
    refine ⟨fun fresh => ?_, fun i c single cut kept => ?_⟩
    · obtain ⟨l, q, taken, ops⟩ := State.accept_batch is_ u fresh
      exact ⟨l, q, goOn_of_eq (ways.trans (congrArg (fun s => (State.pump s).netOut) taken)), ops⟩
    · have single : moeCommands d = [i] := single
      obtain ⟨box, path, seq, src⟩ := moeCommands_origin (single ▸ List.mem_singleton_self i)
      obtain ⟨-, -, -, -, -, below⟩ := yes
      have number : i.h.mb.val = d.mailbox.toNat := by
        rw [box]
        exact Nat.mod_eq_of_lt below
      have replayed := State.accept_replays cut path (s := u) (c := c) (by rw [State.keptOf, number]; exact kept)
      rw [number, seq, src] at replayed
      rw [single] at ways
      exact goOn_of_eq (ways.trans (congrArg (fun s => (State.pump s).netOut) replayed))

end Sys2Proof.Machine
end

section
/-!
PROOF. The clocks of the domains: what the passing of time changes (R81, R89, R106, R449), and the commands of a host servo, which write an
increment or step the phase (R82, R83, R86, R87, R90).
-/
namespace Sys2Proof.Machine

/-! ### Time that passes (R81, R89) -/

/-- Out of reset the time unit runs. -/
theorem State.arrived_running (dt : Nat) (s : State) (run : s.part.inReset = false) :
    s.arrived dt = { s with time := s.time.run s.bleed dt, emitted := [], ev := (s.arrived dt).ev } := by
  obtain ⟨e, arrived⟩ := s.arrived_eq dt
  rw [arrived, run]
  rfl

/-- In reset the time unit stands. -/
theorem State.arrived_inReset (dt : Nat) (s : State) (reset : s.part.inReset = true) :
    s.arrived dt = { s with emitted := [], ev := (s.arrived dt).ev } := by
  obtain ⟨e, arrived⟩ := s.arrived_eq dt
  rw [arrived, reset]
  rfl

/-- Settles O8: the time unit runs, or stands in reset (log entry 5), and the rest of the state is that of `State.arrived_eq`. -/
theorem timePasses : Obligations.TimePasses := by
  intro dt s t u
  refine ⟨fun run => ?_, s.arrived_inReset dt⟩
  have arrived : t = _ := s.arrived_running dt run
  have time : t.time = s.time.run s.bleed dt := congrArg State.time arrived
  refine ⟨congrArg TimeUnit.domA time, congrArg TimeUnit.domB time, congrArg TimeUnit.workOff time, arrived.trans ?_⟩
  rw [time]
  rfl

/-! ### Increments (R82, R86, R87) -/

/-- A command that begins leaves whose servo a domain has. -/
theorem State.begun_hostServo (h : CmdHead) (c : HostCmd) (u : State) (x : Dom) : (u.begun h c).hostServo x = u.hostServo x := rfl

/-- A command that came alone finds no increment of its domain that waits. -/
theorem State.begun_noIncrementWaits (h : CmdHead) (c : HostCmd) (u : State) (x : Dom) (p : Bool) :
    (u.begun h c).gaf.ops.find? (fun o => o.wait == .increment x && o.started && o.outcome.isNone && p) = none := by
  simp [State.begun, State.opFor]

section
variable (h : CmdHead) (c : HostCmd) (u : State) {domain : Byte} (inc : U64) (low : domain.toNat ≤ 1)
include low

/-- An increment in its bounds waits for the next multiple of 1,000 ns (R82). -/
theorem State.incrementWrite_waits (host : u.hostServo (domOf domain) = true) (least : incMin ≤ inc.toNat) (most : inc.toNat ≤ incMax) :
    (u.begun h c).incrementWrite domain 0 inc =
      ((u.begun h c).modDom (domOf domain) (Domain.accept inc.toNat), .wait (.increment (domOf domain))) := by
  have good : firstBad [(0, decide (domain.toNat ≤ 1) && (u.begun h c).hostServo (domOf domain)), (1, (0 : BitVec 56) == 0),
      (8, within incMin incMax inc.toNat)] = none := by
    simp [firstBad, within, low, State.begun_hostServo, host, least, most]
  unfold State.incrementWrite
  dsimp only
  rw [State.begun_noIncrementWaits, good]

/-- An increment out of its bounds is refused. -/
theorem State.incrementWrite_outOfBounds (host : u.hostServo (domOf domain) = true) (out : inc.toNat < incMin ∨ incMax < inc.toNat) :
    (u.begun h c).incrementWrite domain 0 inc = (u.begun h c, badField 0x18) := by
  have bad : firstBad [(0, decide (domain.toNat ≤ 1) && (u.begun h c).hostServo (domOf domain)), (1, (0 : BitVec 56) == 0),
      (8, within incMin incMax inc.toNat)] = some 8 := by
    have outside : within incMin incMax inc.toNat = false := decide_eq_false (by omega)
    simp [firstBad, outside, low, State.begun_hostServo, host]
  unfold State.incrementWrite
  dsimp only
  rw [State.begun_noIncrementWaits, bad]
  rfl

omit low in
/-- A domain whose servo is not the host's takes no increment. -/
theorem State.incrementWrite_otherServo (other : u.hostServo (domOf domain) = false) :
    (u.begun h c).incrementWrite domain 0 inc = (u.begun h c, badField 0x10) := by
  have bad : firstBad [(0, decide (domain.toNat ≤ 1) && (u.begun h c).hostServo (domOf domain)), (1, (0 : BitVec 56) == 0),
      (8, within incMin incMax inc.toNat)] = some 0 := by
    simp [firstBad, State.begun_hostServo, other]
  unfold State.incrementWrite
  dsimp only
  rw [State.begun_noIncrementWaits, bad]
  rfl

end

section
variable (x : Dom) (u : State) {inc at_ : Nat} (pend : (u.time.dom x).pend = some (inc, at_))
include pend

/-- An increment whose instant has come takes effect, and its command reports the domain's time (R82, R87). -/
theorem State.incrementEffect_due (run : u.part.inReset = false) (due : at_ ≤ (u.time.dom x).count) {o : Op} (ops : u.gaf.ops = [o])
    (started : o.started = true) (out : o.outcome = none) (wait : o.wait = .increment x) :
    u.incrementEffect x = State.finished o .ok 0 (leBytes 8 ((u.time.dom x).count / 2 ^ 32)) false []
      { u with time := u.time.setDom x { u.time.dom x with inc, pend := none } } := by
  have comes : (u.time.dom x).incDue = true := by simp [Domain.incDue, pend, due]
  have taken : (u.time.dom x).takeInc = { u.time.dom x with inc, pend := none } := by unfold Domain.takeInc; rw [pend]
  unfold State.incrementEffect
  rw [if_neg (by rw [run, comes]; decide), State.modDom, taken]
  dsimp only
  rw [TimeUnit.setDom_dom]
  exact State.finishWaiting_one o _ _ _ ops started out (by rw [wait]; exact beq_self_eq_true _)

/-- Before its instant an increment waits. -/
theorem State.incrementEffect_early (early : (u.time.dom x).count < at_) : u.incrementEffect x = u := by
  have waits : (u.time.dom x).incDue = false := by simp [Domain.incDue, pend, early]
  unfold State.incrementEffect
  exact if_pos (by rw [waits, Bool.not_false, Bool.or_true])

end

/-! ### Phase steps (R83, R87, R90) -/

/-- What TIME_STEP adds to the domain's time: VALUE and FRAC, or what leads to the T80 they give. -/
def stepDelta (mode : Byte) (value : U64) (frac : U16) (count : Nat) : Int :=
  if mode = 0 then value.toInt * 2 ^ 32 + (frac.toNat * 65536 : Nat)
  else (value.toNat * 2 ^ 32 : Nat) + (frac.toNat * 65536 : Nat) - (count : Nat)

/-- Noting the loss of synchronisation leaves the domains. -/
theorem State.noteSync_dom (b : Bool) (u : State) (x : Dom) : (u.noteSync b).time.dom x = u.time.dom x := by
  rw [State.noteSync_eq]
  cases x <;> rfl

/-- Noting the loss of synchronisation leaves the operations in flight. -/
theorem State.noteSync_ops (b : Bool) (u : State) : (u.noteSync b).gaf.ops = u.gaf.ops := by rw [State.noteSync_eq]

/-- TIME_STEP of a host servo steps its domain at once and reports the time right after it (R83, R87). -/
theorem State.timeStep_steps (u : State) {domain mode : Byte} (value : U64) (frac : U16) (low : domain.toNat ≤ 1) (known : mode.toNat ≤ 1)
    (host : u.hostServo (domOf domain) = true) {v : State}
    (stepped : u.stepDom (domOf domain) (stepDelta mode value frac (u.time.dom (domOf domain)).count) = v) :
    let d := u.time.dom (domOf domain)
    u.timeStep domain mode 0 value frac 0 =
      (v.noteSync u.timeSync, okWith (leBytes 8 ((d.step (stepDelta mode value frac d.count)).count / 2 ^ 32))) := by
  intro d
  have good : firstBad [(0, decide (domain.toNat ≤ 1) && u.hostServo (domOf domain)), (1, decide (mode.toNat ≤ 1)),
      (2, (0 : BitVec 48) == 0), (0x12, (0 : BitVec 48) == 0)] = none := by
    simp [firstBad, low, known, host]
  have after : (v.noteSync u.timeSync).time.dom (domOf domain) = d.step (stepDelta mode value frac d.count) := by
    rw [State.noteSync_dom, ← stepped, State.stepDom_dom]
  rw [← after, ← stepped]
  unfold State.timeStep
  dsimp only
  rw [good]
  rfl

/-- A step of the domain that does not supply working time, or outside SERVICE and STANDBY, passes on (R90). -/
theorem State.stepDom_passes (x : Dom) (delta : Int) (u : State)
    (h : x ≠ u.time.src ∨ (u.gaf.mode ≠ .service ∧ u.gaf.mode ≠ .standby)) :
    u.stepDom x delta = (u.modDom x (Domain.step delta)).skipPulses := by
  unfold State.stepDom
  refine if_neg ?_
  obtain other | ⟨service, standby⟩ := h
  · simp [other]
  · simp [service, standby]

/-- A step of the domain that supplies working time in SERVICE or STANDBY goes into WORK_OFFSET and is told (R90). -/
theorem State.stepDom_absorbed (x : Dom) (delta : Int) (u : State) (src : x = u.time.src)
    (mode : u.gaf.mode = .service ∨ u.gaf.mode = .standby) :
    let v := u.modDom x (Domain.step delta)
    let moved : Int := ((u.time.dom x).step delta).t80 - (u.time.dom x).t80
    u.stepDom x delta = State.timeSwitched x x 4
      { v with time := { v.time with workOff := v.time.workOff + moved * 1000000000 } } := by
  intro v moved
  have dom : v.time.dom x = (u.time.dom x).step delta := TimeUnit.setDom_dom ..
  unfold State.stepDom
  refine (if_pos ?_).trans ?_
  · obtain service | standby := mode
    · simp [src, service]
    · simp [src, standby]
  · show State.timeSwitched x x 4
      { v with time := { v.time with workOff := v.time.workOff + (((v.time.dom x).t80 : Int) - (u.time.dom x).t80) * 1000000000 } } = _
    rw [dom]

/-- Settles O32: each command is carried out alone, and its answer is one lemma for each case. An increment takes effect when its row comes
(log entries 1 and 2), and a step reports the time right after it (log entry 39). -/
theorem clockCommands : Obligations.ClockCommands := by
  refine ⟨?increment, ?effect, ?step⟩
  case increment =>
    intro dt h domain inc s c x takes low
    refine ⟨fun host least most => ?_, fun host out => ?_, fun other => ?_⟩
    · exact State.goOn_waits dt h c s (.increment x) (State.modDom x (Domain.accept inc.toNat)) takes
        (State.incrementWrite_waits h c _ inc low host least most) Wait.noConfusion rfl
    · exact State.goOn_endsNot dt h c s _ _ takes (State.incrementWrite_outOfBounds h c _ inc low host out)
    · exact State.goOn_endsNot dt h c s _ _ takes (State.incrementWrite_otherServo h c _ inc other)
  case effect =>
    intro dt x o inc at_ s u d run ops started out wait pend
    refine ⟨fun due => goOn_of_eq ?_, fun early => goOn_of_eq (congrArg State.settleOut (State.incrementEffect_early x u pend early))⟩
    have ended := State.incrementEffect_due x u pend run due ops started out wait
    exact (congrArg State.settleOut ended).trans (State.settleOut_idle _ (State.finished_idle ..))
  case step =>
    intro dt h domain mode value frac s c x b d delta v moved takes low known host
    refine ⟨rfl, fun passes => ?_, fun src service => ?_⟩
    · exact State.goOn_ends dt h c s _ _ _ _ _ (fun _ => v.skipPulses.noteSync b.timeSync) takes
        (State.timeStep_steps b value frac low known host (State.stepDom_passes x _ b passes)) (State.noteSync_ops ..)
    · exact State.goOn_ends dt h c s _ _ _ _ _ (fun _ => (State.timeSwitched x x 4
        { v with time := { v.time with workOff := v.time.workOff + moved * 1000000000 } }).noteSync b.timeSync) takes
        (State.timeStep_steps b value frac low known host (State.stepDom_absorbed x _ b src service)) (State.noteSync_ops ..)

end Sys2Proof.Machine
end

section
/-!
PROOF. The states of the domains (R84, R85) and the switching of working time, which goes on without a step (R88, R89, R91, R92).
-/
namespace Sys2Proof.Machine

/-! ### A reference that stays away, and the end of HOLDOVER (R85) -/

section
variable (x : Dom) (u : State)

/-- A LOCKED domain whose reference is late leaves LOCKED. -/
theorem State.refTimeout_late {r : Nat} (locked : (u.time.dom x).state = .locked) (last : (u.time.dom x).lastRef = some r)
    (late : r + 3 * (u.time.dom x).interval * 2 ^ 32 < (u.time.dom x).count) : u.refTimeout x = u.toHoldover x := by
  unfold State.refTimeout
  refine if_pos ?_
  rw [locked, Domain.refLate_pos _ r last late]
  rfl

/-- A domain that is not LOCKED, or whose reference came in time, stays as it is. -/
theorem State.refTimeout_stays (h : (u.time.dom x).state ≠ .locked ∨
    ∃ r, (u.time.dom x).lastRef = some r ∧ (u.time.dom x).count ≤ r + 3 * (u.time.dom x).interval * 2 ^ 32) : u.refTimeout x = u := by
  unfold State.refTimeout
  refine if_neg ?_
  obtain other | ⟨r, last, early⟩ := h
  · simp [other]
  · simp [Domain.refLate_neg _ r last early]

/-- In HOLDOVER the host's servo keeps the increment as it is. -/
theorem State.toHoldover_host (host : u.hostServo x = true) : u.toHoldover x = { u with time := u.time.setDom x { u.time.dom x with
    state := .holdover, holdAt := (u.time.dom x).count, good := 0 } } := by
  unfold State.toHoldover
  dsimp only
  rw [host]
  rfl

/-- In HOLDOVER the Gaffer servo holds the increment at the mean of the last LOCKED intervals. -/
theorem State.toHoldover_mean (own : u.hostServo x = false) (measured : (u.time.dom x).incs ≠ []) :
    let d := u.time.dom x
    u.toHoldover x = { u with time := u.time.setDom x { d with
      state := .holdover, holdAt := d.count, good := 0
      pend := some (d.incs.foldl (· + ·) 0 / d.incs.length, (d.count / (1000 * 2 ^ 32) + 1) * (1000 * 2 ^ 32)) } } := by
  intro d
  have kept : d.incs.isEmpty = false := Bool.eq_false_iff.mpr fun empty => measured (List.isEmpty_iff.mp empty)
  unfold State.toHoldover State.modDom Domain.holdInc
  dsimp only
  rw [own, kept]
  rfl

/-- HOLDOVER ends at its limit. -/
theorem State.holdoverExpiry_ends (holdover : (u.time.dom x).state = .holdover)
    (due : (u.time.dom x).holdAt + u.holdoverLimit x * countSec ≤ (u.time.dom x).count) :
    u.holdoverExpiry x = { u with time := u.time.setDom x { u.time.dom x with state := .free, good := 0 } } := by
  unfold State.holdoverExpiry
  refine if_pos ?_
  rw [holdover, decide_eq_true due]
  rfl

/-- Another state, and HOLDOVER before its limit, stands. -/
theorem State.holdoverExpiry_stays (h : (u.time.dom x).state ≠ .holdover ∨
    (u.time.dom x).count < (u.time.dom x).holdAt + u.holdoverLimit x * countSec) : u.holdoverExpiry x = u := by
  unfold State.holdoverExpiry
  refine if_neg ?_
  obtain other | early := h
  · simp [other]
  · simp [early]

end

/-! ### The switch (R88, R89, R91) -/

/-- `v` takes working time from domain `y` where `u` took it from its own, with the same reading and the same domain clocks. -/
structure State.SwitchedTo (u : State) (y : Dom) (v : State) : Prop where
  src : v.time.src = y
  units : v.time.nowUnits = u.time.nowUnits
  now : v.now = u.now
  domA : v.time.domA = u.time.domA
  domB : v.time.domB = u.time.domB

/-- Working time is its units, rounded down (R88). -/
theorem TimeUnit.now_eq (t : TimeUnit) : t.now = (t.nowUnits / 1000000000).toNat := rfl

/-- A switch puts the difference of the domains into WORK_OFFSET, so that working time reads on (R89). -/
theorem State.switchTo_continuous (u : State) (y : Dom) (cause : Nat) : u.SwitchedTo y (u.switchTo y cause) := by
  have units : (u.switchTo y cause).time.nowUnits = u.time.nowUnits := by
    show ((u.time.dom y).t80 : Int) * 1000000000 - (((u.time.dom y).t80 : Int) * 1000000000 - u.time.nowUnits) = _
    omega
  refine ⟨rfl, units, ?_, rfl, rfl⟩
  show TimeUnit.now _ = TimeUnit.now _
  rw [TimeUnit.now_eq, TimeUnit.now_eq, units]

/-- The note of synchronisation, and closing the command, leave a switch what it is. -/
theorem State.SwitchedTo.closed {u v : State} {y : Dom} (s : State) (b : Bool) (h : u.SwitchedTo y v) :
    u.SwitchedTo y (s.closed (v.noteSync b)) := by
  have time : (s.closed (v.noteSync b)).time = { v.time with syncLostAt := (v.noteSync b).time.syncLostAt } := by
    rw [State.closed_time, State.noteSync_eq]
  obtain ⟨src, units, now, domA, domB⟩ := h
  refine ⟨?_, ?_, ?_, ?_, ?_⟩
  · rw [time]; exact src
  · rw [time]; exact units
  · unfold State.now at now ⊢
    rw [time]; exact now
  · rw [time]; exact domA
  · rw [time]; exact domB

section
variable (u : State)

/-- AUTO_SWITCH asks for the other domain where it alone is LOCKED. -/
theorem State.switchDue_auto (owed : u.time.owedSwitch = false) (auto : u.autoSwitch = true) (lost : (u.time.dom u.time.src).state ≠ .locked)
    (locked : (u.time.dom u.time.src.other).state = .locked) : u.switchDue = some (u.time.src.other, 1) := by
  unfold State.switchDue
  exact (if_neg (by simp [owed])).trans (if_pos (by simp [auto, lost, locked]))

/-- A switch that is owed is made once PREFERRED is LOCKED. -/
theorem State.switchDue_owed (owed : u.time.owedSwitch = true) (other : u.time.src ≠ u.preferred)
    (locked : (u.time.dom u.preferred).state = .locked) : u.switchDue = some (u.preferred, 3) := by
  unfold State.switchDue
  exact if_pos (by simp [owed, other, locked])

/-- Working time returns to a PREFERRED domain that is LOCKED. -/
theorem State.revertDue_locked (due : u.revertDue = true) : (u.time.dom u.preferred).state = .locked := by
  simp only [State.revertDue, Bool.and_eq_true, beq_iff_eq] at due
  obtain ⟨⟨-, locked⟩, -⟩ := due
  exact locked

/-- No rule asks for a domain that is not LOCKED. -/
theorem State.switchDue_locked {y : Dom} {cause : Nat} (due : u.switchDue = some (y, cause)) : (u.time.dom y).state = .locked := by
  unfold State.switchDue at due
  dsimp only at due
  split at due
  next owed =>
    cases due
    simp only [Bool.and_eq_true, beq_iff_eq] at owed
    exact owed.2
  next =>
    split at due
    next auto =>
      cases due
      simp only [Bool.and_eq_true, beq_iff_eq] at auto
      exact auto.2
    next =>
      split at due
      next revert => cases due; exact u.revertDue_locked revert
      next => exact nomatch due

/-- The switch that is due is made. -/
theorem State.switchIfDue_some {y : Dom} {cause : Nat} (due : u.switchDue = some (y, cause)) : u.switchIfDue = u.switchTo y cause := by
  unfold State.switchIfDue
  rw [due]

/-- Where none is due working time stays where it is. -/
theorem State.switchIfDue_none (due : u.switchDue = none) : u.switchIfDue = u := by
  unfold State.switchIfDue
  rw [due]

end

/-- What a meaning that keeps the note of synchronisation answers where its effect is known (R92). -/
theorem goOn_keepSync {dt : Nat} {f : State → State} {s v : State} (h : f (s.arrived dt) = v) :
    goOn dt (State.keepSync f) s = .next (s.closed (v.noteSync (s.arrived dt).timeSync)) :=
  goOn_of_eq (congrArg (State.noteSync _) h)

/-- A row that switches working time answers a state with the same reading. -/
theorem exec_switched {c : Instr} {s u v : State} {b : Bool} {y : Dom} (answer : exec c s = .next (s.closed (v.noteSync b)))
    (switched : u.SwitchedTo y v) : ∃ t, exec c s = .next t ∧ t.time.src = y ∧ t.time.nowUnits = u.time.nowUnits ∧ t.now = u.now ∧
      t.time.domA = u.time.domA ∧ t.time.domB = u.time.domB := by
  obtain ⟨src, units, now, domA, domB⟩ := switched.closed s b
  exact ⟨_, answer, src, units, now, domA, domB⟩

/-! ### Clocks that meet what the statement asks -/

/-- A device in SERVICE with its two domain clocks and a configuration. -/
def clockDevice (a b : Domain) (cfg : List Rec := []) : State :=
  { part := { inReset := false, porLow := false, bootStep := 3 }, gaf := { mode := .service, fwReady := true }, cfg
    time := { domA := a, domB := b } }

/-- A domain that has been LOCKED for 100 s, with a reference of now. -/
def lockedDomain : Domain := { state := .locked, count := 100 * countSec, lastRef := some (100 * countSec) }

/-- A reference is late under either servo, and HOLDOVER is at its limit. -/
theorem clockDevice_timers :
    let late : Domain := { state := .locked, count := 4 * countSec, lastRef := some 0, incs := [2 ^ 32] }
    let u := (clockDevice late { state := .holdover, count := 11 * countSec }).arrived 0
    let host := (clockDevice late { } [{ rtype := 0x202, obj := 0, body := [0, 0, 0, 1] ++ zeros 16 }]).arrived 0
    (u.time.dom .a).state = .locked ∧ (u.time.dom .a).lastRef = some 0 ∧
    0 + 3 * (u.time.dom .a).interval * 2 ^ 32 < (u.time.dom .a).count ∧ u.hostServo .a = false ∧ (u.time.dom .a).incs ≠ [] ∧
    host.hostServo .a = true ∧ (u.time.dom .b).state = .holdover ∧
    (u.time.dom .b).holdAt + u.holdoverLimit .b * countSec ≤ (u.time.dom .b).count := by decide

/-- Each switch of working time is asked for, and none where both domains are LOCKED. -/
theorem clockDevice_switches :
    let auto := (clockDevice { } lockedDomain).arrived 0
    let onB (s : State) (owed : Bool) : State := State.arrived 0 { s with time := { s.time with src := .b, owedSwitch := owed } }
    let owed := onB (clockDevice lockedDomain { }) true
    let revert := onB (clockDevice lockedDomain lockedDomain [{ rtype := 0x203, obj := 0, body := [0, 1] ++ zeros 10 }]) false
    let both := (clockDevice lockedDomain lockedDomain).arrived 0
    (auto.time.owedSwitch = false ∧ auto.autoSwitch = true ∧ (auto.time.dom auto.time.src).state ≠ .locked ∧
      (auto.time.dom auto.time.src.other).state = .locked) ∧
    (owed.time.owedSwitch = true ∧ owed.time.src ≠ owed.preferred ∧ (owed.time.dom owed.preferred).state = .locked) ∧
    revert.revertDue = true ∧ both.switchDue = none ∧ both.revertDue = false := by decide

/-- Settles O49: the timers of the domain states, the switches, and what a reference makes of its domain (`State.reference_dom`). -/
theorem domainsAndWorkingTime : Obligations.DomainsAndWorkingTime := by
  refine ⟨?timers, ?switches, fun x ofs iv u => State.reference_dom x ofs iv u⟩
  case timers =>
    intro dt x s u d ends stays
    refine ⟨fun r locked last late => ⟨fun host => ?_, fun own measured => ?_⟩, fun h => goOn_keepSync (State.refTimeout_stays x u h),
      fun holdover due => goOn_keepSync (State.holdoverExpiry_ends x u holdover due), fun h => goOn_keepSync (State.holdoverExpiry_stays x u h)⟩
    · exact goOn_keepSync ((State.refTimeout_late x u locked last late).trans (State.toHoldover_host x u host))
    · exact goOn_keepSync ((State.refTimeout_late x u locked last late).trans (State.toHoldover_mean x u own measured))
  case switches =>
    intro dt s u src stays lost sw
    have switches : ∀ {y cause}, u.switchDue = some (y, cause) → sw (.worktimeSwitch dt) y := fun due =>
      exec_switched (goOn_keepSync (u.switchIfDue_some due)) (u.switchTo_continuous ..)
    have remains : u.switchDue = none → exec (.worktimeSwitch dt) s = stays := fun idle => goOn_keepSync (u.switchIfDue_none idle)
    refine ⟨fun owed auto lost locked => switches (u.switchDue_auto owed auto lost locked),
      fun owed other locked => switches (u.switchDue_owed owed other locked), remains, fun t answer => ?_,
      fun due => ⟨?_, u.revertDue_locked due⟩,
      fun idle => goOn_keepSync (if_neg (by rw [idle]; exact Bool.false_ne_true)), s.closed (u.noteSync s.timeSync), rfl, ?_⟩
    · cases due : u.switchDue with
      | none =>
        obtain rfl := Host.Outcome.next.inj (answer.symm.trans (remains due))
        left
        rw [State.closed_time, State.noteSync_eq]
      | some w =>
        obtain ⟨v, made, taken, -⟩ := switches due
        obtain rfl := Host.Outcome.next.inj (answer.symm.trans made)
        right
        rw [taken]
        exact u.switchDue_locked due
    · exact exec_switched (goOn_keepSync (if_pos due)) (u.switchTo_continuous u.preferred 2)
    · rw [State.closed_time, State.noteSync_eq]

end Sys2Proof.Machine
end

section
/-!
PROOF. PTP messages and their timers (R85, R86, R93, R95), the drain of the time-stamp queues (R98), leap seconds (R103) and pulse
outputs (R105).
-/
namespace Sys2Proof.Machine

/-! ### A message that is received (R85, R93) -/

section
variable (m : PtpMsg) (u : State)

/-- Without firmware, in reset or boot, and at a port that is down or has no part in PTP, a message is lost. -/
theorem State.ptpRx_deaf (h : u.fwRuns = false ∨ u.part.inReset = true ∨ u.gaf.mode = .boot ∨ (u.port m.port.val).up = false ∨
    u.ptpRole m.port.val = 0) : u.ptpRx m = u := by
  unfold State.ptpRx
  exact if_pos (by simpa [or_assoc] using h)

variable (runs : u.fwRuns = true ∧ u.part.inReset = false ∧ u.gaf.mode ≠ .boot ∧ (u.port m.port.val).up = true ∧ u.ptpRole m.port.val ≠ 0)
include runs

/-- A delay request-response message is discarded and counted. -/
theorem State.ptpRx_discards (kind : m.kind = .delayReqResp) :
    u.ptpRx m = u.modPort m.port.val fun q => { q with ptpDiscard := satAdd 32 q.ptpDiscard 1 } := by
  unfold State.ptpRx
  exact (if_neg (by simpa [and_assoc] using runs)).trans (if_pos (by rw [kind]; rfl))

/-- Any other message goes to each domain of the port that has its number. -/
theorem State.ptpRx_runs (kind : m.kind ≠ .delayReqResp) :
    u.ptpRx m = (u.ptpDoms m.port.val m.domainNumber.toNat).foldl (fun s x =>
      if (s.ptpRole m.port.val == 2 && !(m.kind == .pdelayReq || m.kind == .pdelayResp || m.kind == .pdelayRespFollowUp)) = true then
        s.ptpForward m.port.val x m (s.ingressAt m.port.val x)
      else s.ptpTake m.port.val x m) u := by
  unfold State.ptpRx
  exact (if_neg (by simpa [and_assoc] using runs)).trans (if_neg (by simpa using kind))

/-- A message of a number that no domain of the port has is lost. -/
theorem State.ptpRx_noDomain (kind : m.kind ≠ .delayReqResp) (nowhere : u.ptpDoms m.port.val m.domainNumber.toNat = []) : u.ptpRx m = u := by
  rw [State.ptpRx_runs m u runs kind, nowhere]
  rfl

/-- An ordinary or boundary port takes a message in its one domain. -/
theorem State.ptpRx_takes {x : Dom} (kind : m.kind ≠ .delayReqResp) (one : u.ptpDoms m.port.val m.domainNumber.toNat = [x])
    (role : u.ptpRole m.port.val ≠ 2) : u.ptpRx m = u.ptpTake m.port.val x m := by
  rw [State.ptpRx_runs m u runs kind, one]
  exact if_neg (by simp [role])

end

section
variable (p : Nat) (x : Dom) (m : PtpMsg) (u : State)

/-- A port that has heard no master takes that of an Announce, unless it is the device itself or lacks the TLV that the profile asks for. -/
theorem State.ptpTake_firstAnnounce (kind : m.kind = .announce) (src : m.src ≠ u.clockId) (gm : m.clock.gmId ≠ u.clockId)
    (tlv : m.tlvOk = true ∨ u.fld 0x202 x.num 0 (·.u8 1) ≠ 1) (first : u.freshMaster p x = none) :
    u.ptpTake p x m = u.modPtp p x fun r => { r with master := some (m.clock, m.src), masterAt := u.ingressAt p x, inacc := m.inacc } := by
  have good : ¬ (m.src == u.clockId || m.clock.gmId == u.clockId || (u.fld 0x202 x.num 0 (·.u8 1) == 1 && !m.tlvOk)) = true := by
    obtain tlv | other := tlv
    · simp [src, gm, tlv]
    · simp [src, gm, other]
  unfold State.ptpTake
  rw [kind]
  exact (if_neg good).trans (if_pos (by rw [first]; rfl))

/-- An Announce of the device itself is ignored. -/
theorem State.ptpTake_ownAnnounce (kind : m.kind = .announce) (own : m.src = u.clockId ∨ m.clock.gmId = u.clockId) : u.ptpTake p x m = u := by
  unfold State.ptpTake
  rw [kind]
  refine if_pos ?_
  obtain src | gm := own
  · simp [src]
  · simp [gm]

section
variable {c : PtpClock} (kind : m.kind = .sync) (slave : u.slavePort x = some (p, c, m.src))
include kind slave

/-- A one-step Sync from the selected master is a reference (R85). -/
theorem State.ptpTake_oneStepSync (step : m.twoStep = false) (own : u.hostServo x = false) : u.ptpTake p x m =
    u.reference x ((u.ingressAt p x : Int) - (((m.origin : Int) + m.corr) + (u.ptp p x).delay)) (u.syncInterval p) := by
  have selected : ((u.slavePort x).any fun b => b.1 == p && b.2.2 == m.src) = true := by simp [slave]
  unfold State.ptpTake
  rw [kind]
  dsimp only
  rw [selected, step]
  show u.ptpReference p x (u.ingressAt p x) ((m.origin : Int) + m.corr) = _
  unfold State.ptpReference
  rw [own]
  rfl

/-- A two-step Sync from the selected master awaits its Follow_Up. -/
theorem State.ptpTake_twoStepSync (step : m.twoStep = true) : u.ptpTake p x m =
    u.modPtp p x fun r => { r with pendingSync := some (m.seq, m.src, u.ingressAt p x, m.corr) } := by
  have selected : ((u.slavePort x).any fun b => b.1 == p && b.2.2 == m.src) = true := by simp [slave]
  unfold State.ptpTake
  rw [kind]
  exact (if_pos selected).trans (if_pos step)

end

/-- Without a slave port a Sync is ignored. -/
theorem State.ptpTake_syncUnselected (kind : m.kind = .sync) (noSlave : u.slavePort x = none) : u.ptpTake p x m = u := by
  unfold State.ptpTake
  rw [kind]
  exact if_neg (by simp [noSlave])

/-- A one-step peer delay response completes the measurement of a request whose egress stamp is known (R93). -/
theorem State.ptpTake_oneStepResponse {t1 : Fine} (kind : m.kind = .pdelayResp) (step : m.twoStep = false)
    (asked : (u.ptp p x).pdelay = some { seq := m.seq, t1 := some t1 }) : u.ptpTake p x m =
    u.modPtp p x fun r => { r with delay := ((((u.ingressAt p x : Int) - t1) - m.corr) / 2).toNat, pdelay := none } := by
  unfold State.ptpTake State.modPtp
  rw [kind]
  dsimp only
  rw [asked, step]
  simp only [Option.map_some, bne_self_eq_false, Bool.false_eq_true, if_false, PtpPort.measure]

end

/-! ### Messages that are sent (R93) -/

section
variable (p : Nat) (x : Dom) (u : State)

/-- A port that is not in operation, or takes no part in the domain, sends nothing. -/
theorem State.ptpInterval_deaf (k : PtpKind)
    (h : ¬ (u.fwRuns = true ∧ u.part.inReset = false ∧ u.gaf.mode ≠ .boot ∧ (u.port p).up = true ∧ u.inDom p x = true)) :
    u.ptpInterval p x k = u := by
  unfold State.ptpInterval
  refine if_pos (Decidable.of_not_not fun go => h ?_)
  simpa [and_assoc] using go

variable (runs : u.fwRuns = true ∧ u.part.inReset = false ∧ u.gaf.mode ≠ .boot ∧ (u.port p).up = true ∧ u.inDom p x = true)
include runs

/-- The check that every timer makes first finds a port in operation. -/
theorem State.ptp_operates : ¬ (!u.fwRuns || u.part.inReset || u.gaf.mode == .boot || !(u.port p).up || !u.inDom p x) = true := by
  simpa [and_assoc] using runs

/-- A master's Sync that is due is sent. -/
theorem State.ptpInterval_sync (master : u.isMaster p x = true) (due : (u.ptp p x).syncAt + u.syncInterval p * nsF ≤ u.domNow x) :
    ∃ m : PtpMsg, m.seq = (u.ptp p x).syncSeq ∧ u.ptpInterval p x .sync = (u.modPtp p x fun r => { r with
      syncSeq := r.syncSeq + 1, syncAt := u.domNow x }).sendPtp p x m (!u.oneStep x) none := by
  unfold State.ptpInterval
  dsimp only
  refine ⟨_, ?_, (if_neg (u.ptp_operates p x runs)).trans (if_pos ?_)⟩
  · rfl
  · rw [master, dueFrom_yes _ _ _ due]; rfl

omit runs in
/-- Before its interval has passed no Sync is sent. -/
theorem State.ptpInterval_early (last : (u.ptp p x).syncAt ≤ u.domNow x) (early : u.domNow x < (u.ptp p x).syncAt + u.syncInterval p * nsF) :
    u.ptpInterval p x .sync = u := by
  unfold State.ptpInterval
  dsimp only
  rw [dueFrom_no _ _ _ last early, Bool.and_false]
  exact ite_self u

/-- A master's Announce that is due is sent. -/
theorem State.ptpInterval_announce (master : u.isMaster p x = true) (due : (u.ptp p x).announceAt + secF ≤ u.domNow x) :
    ∃ m : PtpMsg, u.ptpInterval p x .announce = (u.modPtp p x fun r => { r with
      announceSeq := r.announceSeq + 1, announceAt := u.domNow x }).sendPtp p x m false none := by
  unfold State.ptpInterval
  dsimp only
  refine ⟨_, (if_neg (u.ptp_operates p x runs)).trans (if_pos ?_)⟩
  rw [master, dueFrom_yes _ _ _ due]; rfl

/-- A port's request of the peer delay that is due is sent, and its measurement begins. -/
theorem State.ptpInterval_pdelayReq (role : u.ptpRole p ≠ 0) (due : (u.ptp p x).pdelayAt + secF ≤ u.domNow x) :
    ∃ m : PtpMsg, u.ptpInterval p x .pdelayReq = (u.modPtp p x fun r => { r with
      pdelaySeq := r.pdelaySeq + 1, pdelayAt := u.domNow x, pdelay := some { seq := (u.ptp p x).pdelaySeq } }).sendPtp p x m true none := by
  unfold State.ptpInterval
  dsimp only
  refine ⟨_, (if_neg (u.ptp_operates p x runs)).trans (if_pos ?_)⟩
  rw [bne_iff_ne.mpr role, dueFrom_yes _ _ _ due]; rfl

end

/-- A port's PTP state once a message has been sent and the command is closed. -/
theorem State.closed_sendPtp_ptp (s u : State) (p : Nat) (x : Dom) (f : PtpPort → PtpPort) (m : PtpMsg) (stamp : Bool) :
    (s.closed ((u.modPtp p x f).sendPtp p x m stamp none)).ptp p x = f (u.ptp p x) := by
  have sent := State.sendPtp_ptp p x m stamp none (u.modPtp p x f) p x
  rw [State.modPtp_ptp] at sent
  unfold State.ptp at sent ⊢
  rw [State.closed_time]
  exact sent

/-- A message whose egress stamp is awaited stands first among those of its port. -/
theorem State.sendPtp_await (p : Nat) (x : Dom) (m : PtpMsg) (rx : Option Fine) (u : State) :
    ((u.sendPtp p x m true rx).time.await.get [] p).head? = some { ident := u.time.ident, dom := x.num, msg := m } := by
  rw [State.sendPtp_time]
  dsimp only
  rw [if_pos rfl, Table.get_put_self]
  rfl

/-- Without firmware, and in reset, no queue is drained (R98). -/
theorem State.tsqDrain_idle (u : State) (h : u.fwRuns = false ∨ u.part.inReset = true) : u.tsqDrain = u := by
  unfold State.tsqDrain
  exact if_pos (by simpa using h)

/-! ### Leap seconds (R103) -/

/-- The state once a leap second moved LEAP_ADJ of its domain and UTC_LEAP is owed (R103). -/
def State.countLeap (x : Dom) (neg : Bool) (u : State) : State :=
  (u.modDom x fun d => { d with leap := none, leapAdj := d.leapAdj + if neg then -1 else 1 }).modStore fun st => { st with leapOwed := true }

section
variable (x : Dom) (u : State)

/-- Without an announced leap second, and in reset, nothing happens. -/
theorem State.leapSecond_none (h : (u.time.dom x).leap = none ∨ u.part.inReset = true) : u.leapSecond x = u := by
  unfold State.leapSecond
  dsimp only
  split
  next sec neg leap =>
    obtain unannounced | reset := h
    · exact nomatch leap.symm.trans unannounced
    · exact if_pos (by simp [reset])
  next => rfl

variable {sec : Nat} {neg : Bool} (leap : (u.time.dom x).leap = some (sec, neg))
include leap

/-- A leap second waits for its instant. -/
theorem State.leapSecond_early (early : (u.time.dom x).t80 < sec * secF) : u.leapSecond x = u := by
  unfold State.leapSecond
  dsimp only
  rw [leap]
  exact if_pos (by simp [early])

/-- A leap second that has come is counted, and UTC_LEAP is written if it may be. -/
theorem State.leapSecond_due (due : sec * secF ≤ (u.time.dom x).t80) (run : u.part.inReset = false) :
    u.leapSecond x = (u.countLeap x neg).leapWrite := by
  unfold State.leapSecond
  dsimp only
  rw [leap]
  exact if_neg (by simp [run, due])

end

/-! ### Pulse outputs (R105) -/

section
variable (out : Nat) (u : State)

/-- An output without a record drives nothing. -/
theorem State.pulseEdge_noRecord (absent : u.rec? 0x206 out = none) : u.pulseEdge out = u := by
  unfold State.pulseEdge
  rw [absent]

variable {b : Bytes} (rec : u.rec? 0x206 out = some b)
include rec

/-- Where the record programs no edge yet, none leaves. -/
theorem State.pulseEdge_noEdge (quiet : u.pulseProgram out b = none) : u.pulseEdge out = u := by
  unfold State.pulseEdge
  rw [rec]
  dsimp only
  rw [quiet]

variable {t : Fine} (edge : u.pulseProgram out b = some t) (other : b.u8 0 ≠ 5)
include edge other

/-- An edge that has left its output does not leave again. -/
theorem State.pulseEdge_again {l : Fine} (last : (u.time.pulses.get { } out).last = some l) (le : t ≤ l) : u.pulseEdge out = u := by
  unfold State.pulseEdge
  rw [rec]
  dsimp only
  rw [edge]
  exact (if_pos (by simp [last, le])).trans (if_neg other)

/-- A new edge leaves its output and is counted. -/
theorem State.pulseEdge_new (new : ∀ l, (u.time.pulses.get { } out).last = some l → l < t) :
    let p := u.time.pulses.get { } out
    u.pulseEdge out = State.emit (.pulse out t) { u with time := { u.time with
      pulses := u.time.pulses.put out { p with last := some t, width := b.u32 4, count := p.count + 1 } } } := by
  intro p
  have later : ¬ ((u.time.pulses.get { } out).last.any fun l => decide (t ≤ l)) = true := by
    rw [Option.any_eq_true]
    rintro ⟨l, last, le⟩
    exact absurd (new l last) (Nat.not_lt.mpr (of_decide_eq_true le))
  unfold State.pulseEdge
  rw [rec]
  dsimp only
  rw [edge]
  dsimp only
  rw [if_neg later, if_neg other]

end

/-! ### A device and messages that meet what the statement asks -/

/-- A device whose port 0 is an ordinary port in domain A, that knows of no master, has a leap second announced and a pulse programmed. -/
def ptpDevice (ptp : Table PtpPort := []) : State :=
  { part := { inReset := false, porLow := false, bootStep := 3 }, gaf := { mode := .service, fwReady := true }
    cfg := [{ rtype := 0x202, obj := 0, body := zeros 20 }, { rtype := 0x204, obj := 0, body := [1, 1] ++ zeros 6 },
      { rtype := 0x206, obj := 0, body := [2] ++ zeros 31 }, { rtype := 0xA02, obj := 0, body := [1] ++ zeros 19 }]
    net := { ports := [(0, { up := true })] }
    time := { domA := { count := 4 * countSec, leap := some (1, false) }, ptp } }

/-- The grandmaster that the device hears. -/
def heardClock : PtpClock := { prio1 := 0, clockClass := 6, gmId := 9 }

/-- An Announce of that grandmaster. -/
def heardAnnounce : PtpMsg := { port := 0, domainNumber := 0, kind := .announce, seq := 0, src := 9, clock := heardClock }

/-- The Announce is the first that the port hears; once its master is known it is selected, and a peer delay request is under way. -/
theorem ptpDevice_receives :
    let u := ptpDevice.arrived 0
    let heard := (ptpDevice [(0, { master := some (heardClock, 9), masterAt := 4 * secF, pdelay := some { seq := 0, t1 := some 0 } })]).arrived 0
    (u.fwRuns = true ∧ u.part.inReset = false ∧ u.gaf.mode ≠ .boot ∧ (u.port 0).up = true ∧ u.ptpRole 0 ≠ 0) ∧
    u.ptpDoms 0 heardAnnounce.domainNumber.toNat = [.a] ∧ u.ptpRole 0 ≠ 2 ∧ heardAnnounce.src ≠ u.clockId ∧
    heardAnnounce.clock.gmId ≠ u.clockId ∧ heardAnnounce.tlvOk = true ∧ u.freshMaster 0 .a = none ∧
    heard.slavePort .a = some (0, heardClock, heardAnnounce.src) ∧ heard.hostServo .a = false ∧
    (heard.ptp 0 .a).pdelay = some { seq := 0, t1 := some 0 } := by decide

/-- The port is a master whose timers are due, the leap second has come, and the pulse is programmed and has not left. -/
theorem ptpDevice_due :
    let u := ptpDevice.arrived 0
    u.inDom 0 .a = true ∧ u.isMaster 0 .a = true ∧ (u.ptp 0 .a).syncAt + u.syncInterval 0 * 65536 ≤ u.domNow .a ∧
    (u.ptp 0 .a).announceAt + secF ≤ u.domNow .a ∧ (u.ptp 0 .a).pdelayAt + secF ≤ u.domNow .a ∧
    (u.time.dom .a).leap = some (1, false) ∧ 1 * secF ≤ (u.time.dom .a).t80 ∧ u.pwr.warn = false ∧ u.store.calCommit = none ∧
    (u.rec? 0x206 0).map (u.pulseProgram 0) = some (some 0) ∧ (u.rec? 0x206 0).map (·.u8 0) = some 2 ∧
    (u.time.pulses.get { } 0).last = none := by decide

/-- Settles O51: one lemma for each message, timer and instant, on the state at the command's own. -/
theorem timeMessagesAndPulses : Obligations.TimeMessagesAndPulses := by
  refine ⟨?received, ?sent, ?drain, ?leap, ?pulse⟩
  case received =>
    intro dt m x s u p r rx ends put runs
    refine ⟨fun deaf => goOn_keepSync (State.ptpRx_deaf m u deaf), fun go kind => goOn_keepSync (State.ptpRx_discards m u go kind),
      fun go kind nowhere => goOn_keepSync (State.ptpRx_noDomain m u go kind nowhere), fun go one role => ?_⟩
    have taken : ∀ {v k}, m.kind = k → k ≠ .delayReqResp → u.ptpTake p x m = v → exec (.ptpMessageRx dt m) s = ends v := fun kind other h =>
      goOn_keepSync ((State.ptpRx_takes m u go (kind ▸ other) one role).trans h)
    exact ⟨fun kind src gm tlv first => taken kind PtpKind.noConfusion (State.ptpTake_firstAnnounce p x m u kind src gm tlv first),
      fun kind own => taken kind PtpKind.noConfusion (State.ptpTake_ownAnnounce p x m u kind own),
      fun c kind step slave own => taken kind PtpKind.noConfusion (State.ptpTake_oneStepSync p x m u kind slave step own),
      fun c kind step slave => taken kind PtpKind.noConfusion (State.ptpTake_twoStepSync p x m u kind slave step),
      fun kind noSlave => taken kind PtpKind.noConfusion (State.ptpTake_syncUnselected p x m u kind noSlave),
      fun t1 kind step asked => taken kind PtpKind.noConfusion (State.ptpTake_oneStepResponse p x m u kind step asked)⟩
  case sent =>
    intro dt p x k s u r now runs
    refine ⟨fun deaf => goOn_of_eq (State.ptpInterval_deaf p.val x u k deaf), fun go kind master => ⟨fun due => ?_, fun last early => ?_⟩,
      fun go kind master due => ?_, fun go kind role due => ?_⟩
    · subst kind
      obtain ⟨m, seq, sync⟩ := State.ptpInterval_sync p.val x u go master due
      refine ⟨_, goOn_of_eq sync, State.closed_sendPtp_ptp .., ?_, ?_, fun two => ?_⟩
      · rw [State.closed_time, State.sendPtp_time]; rfl
      · rw [State.closed_time, State.sendPtp_time]; rfl
      · rw [State.closed_time, two, Bool.not_false, State.sendPtp_await]
        exact congrArg some seq
    · subst kind
      exact goOn_of_eq (State.ptpInterval_early p.val x u last early)
    · subst kind
      obtain ⟨m, announce⟩ := State.ptpInterval_announce p.val x u go master due
      exact ⟨_, goOn_of_eq announce, State.closed_sendPtp_ptp ..⟩
    · subst kind
      obtain ⟨m, request⟩ := State.ptpInterval_pdelayReq p.val x u go role due
      exact ⟨_, goOn_of_eq request, State.closed_sendPtp_ptp ..⟩
  case drain =>
    intro dt s u
    refine ⟨fun fw run => ⟨s.closed u.tsqDrain, rfl, fun p lt => ?_⟩, fun h => goOn_of_eq (u.tsqDrain_idle h)⟩
    rw [State.closed_time]
    exact State.tsqDrain_tsq u fw run p lt
  case leap =>
    intro dt x s u d
    refine ⟨fun h => goOn_of_eq (State.leapSecond_none x u h), fun sec neg leap =>
      ⟨fun early => goOn_of_eq (State.leapSecond_early x u leap early),
        fun due run => ⟨_, goOn_of_eq (State.leapSecond_due x u leap due run), ?_, fun warn => ?_, fun warn free => ?_⟩⟩⟩
    · rw [State.closed_time, State.leapWrite_time]; rfl
    · rw [State.closed_store, State.leapWrite_held (u.countLeap x neg) warn]; rfl
    · rw [State.closed_store]
      exact State.leapWrite_made (u.countLeap x neg) rfl warn free
  case pulse =>
    intro dt out b s u p
    exact ⟨fun absent => goOn_of_eq (State.pulseEdge_noRecord out.val u absent),
      fun rec => ⟨fun quiet => goOn_of_eq (State.pulseEdge_noEdge out.val u rec quiet), fun t edge other =>
        ⟨fun l last le => goOn_of_eq (State.pulseEdge_again out.val u rec edge other last le),
          fun new => goOn_of_eq (State.pulseEdge_new out.val u rec edge other new)⟩⟩⟩

end Sys2Proof.Machine
end

section
/-!
PROOF. Sampled values (R125 to R128, R130, R132): where a frame goes, what an accepted one makes of its entry, the tick whose deadline
passes with a sample missing, the loss of a stream, and the ageing sweep.
-/
namespace Sys2Proof.Machine

/-! ### Entries of the stream table -/

theorem State.stream_of_sv {s t : State} (h : t.sv = s.sv) (n : Nat) : t.stream n = s.stream n := by
  unfold State.stream
  rw [h]

@[simp] theorem State.closed_stream (s t : State) (n : Nat) : (s.closed t).stream n = t.stream n := State.stream_of_sv (State.closed_sv s t) n

@[simp] theorem State.modStream_stream_self (n : Nat) (f : Stream → Stream) (s : State) : (s.modStream n f).stream n = f (s.stream n) := by
  rw [State.modStream_stream, if_pos rfl]

theorem State.modStream_stream_of_ne {n m : Nat} (f : Stream → Stream) (s : State) (h : m ≠ n) : (s.modStream n f).stream m = s.stream m := by
  rw [State.modStream_stream, if_neg h]

@[simp] theorem State.streamLost_stream (n cause conf m : Nat) (s : State) : (s.streamLost n cause conf).stream m = s.stream m := rfl

/-- In reset SV ingest does nothing. -/
theorem goOn_svRuns_inReset {dt : Nat} (f : State → State) {s : State} (reset : (s.arrived dt).part.inReset = true) :
    goOn dt (State.svRuns f) s = .next (s.closed (s.arrived dt)) := goOn_of_eq (if_pos reset)

/-- Out of reset SV ingest does its work. -/
theorem goOn_svRuns {dt : Nat} {f : State → State} {s t : State} (run : (s.arrived dt).part.inReset = false) (h : f (s.arrived dt) = t) :
    goOn dt (State.svRuns f) s = .next (s.closed t) := goOn_of_eq ((if_neg (Bool.eq_false_iff.mp run)).trans h)

/-! ### Where a frame goes (R125, R130) -/

/-- The form that a stream asks of a frame: dataset length, noASDU and smpCnt (R125). -/
def svInForm (b : Bytes) (f : SvFrame) : Prop :=
  f.dataLen = 8 * b.u8 0xD ∧ f.noAsdu = b.u8 0xC ∧ ∀ a ∈ f.asdus, a.smpCnt < b.u16 0xA

/-- The check of the form in the model is `svInForm`. -/
theorem svBadForm_iff (b : Bytes) (f : SvFrame) :
    (f.dataLen != 8 * b.u8 0xD || f.noAsdu != b.u8 0xC || f.asdus.any fun a => b.u16 0xA ≤ a.smpCnt) = true ↔ ¬ svInForm b f := by
  rw [svInForm, not_and_or, not_and_or]
  simp [or_assoc]

section
variable (f : SvFrame) (u : State)

/-- A frame that matches no stream is counted for the device. -/
theorem State.svFrame_noMatch (none : u.svMatch f = none) :
    u.svFrame f = { u with net := { u.net with svNomatch := satAdd 32 u.net.svNomatch 1 } } := by
  unfold State.svFrame
  rw [none]

variable {n : Nat} {b : Bytes} (hit : u.svMatch f = some (n, b))
include hit

/-- A frame on a port that PORTS does not permit is counted in PORT_ERR. -/
theorem State.svFrame_portErr (port : ¬ bitOf (b.u16 0x1C) f.port.val = true) :
    u.svFrame f = u.modStream n fun st => { st with portErr := satAdd 32 st.portErr 1 } := by
  unfold State.svFrame
  rw [hit]
  exact if_pos (by simpa using port)

variable (port : bitOf (b.u16 0x1C) f.port.val = true)
include port

/-- A frame of another form is counted in FORMAT_ERR. -/
theorem State.svFrame_formatErr (form : ¬ svInForm b f) :
    u.svFrame f = u.modStream n fun st => { st with formatErr := satAdd 32 st.formatErr 1 } := by
  unfold State.svFrame
  rw [hit]
  dsimp only
  rw [if_neg (by simpa using port), if_pos ((svBadForm_iff b f).mpr form)]

variable (form : svInForm b f)
include form

/-- A frame from another source than the learned one is counted in SRC_CONFLICT. -/
theorem State.svFrame_srcConflict {a : BitVec 48} (learned : (u.stream n).src = some a) (other : a ≠ f.src) :
    u.svFrame f = u.modStream n fun st => { st with srcConflict := satAdd 32 st.srcConflict 1 } := by
  unfold State.svFrame
  rw [hit]
  dsimp only
  rw [if_neg (by simpa using port), if_neg (fun bad => (svBadForm_iff b f).mp bad form), if_pos (by simp [learned, other])]

variable (src : (u.stream n).src = none ∨ (u.stream n).src = some f.src)
include src

/-- What passes R125 comes to the simulation bit (R130). -/
theorem State.svFrame_passed : u.svFrame f =
    if (f.sim && !(u.inTest && bitOf (b.u16 0xE) 2)) = true then u.modStream n fun st => { st with simDiscard := satAdd 32 st.simDiscard 1 }
    else if (!f.sim && (u.stream n).sim && (u.inTest && bitOf (b.u16 0xE) 2)) = true then u else u.svAccept n b f := by
  have same : ¬ ((u.stream n).src.any (· != f.src)) = true := by
    obtain src | src := src <;> simp [src]
  unfold State.svFrame
  rw [hit]
  dsimp only
  rw [if_neg (by simpa using port), if_neg (fun bad => (svBadForm_iff b f).mp bad form), if_neg same]

/-- A simulated frame is counted in SIM_DISCARD except in TEST on a stream with ACCEPT_SIM. -/
theorem State.svFrame_simDiscard (sim : f.sim = true) (refused : ¬ (u.inTest = true ∧ bitOf (b.u16 0xE) 2 = true)) :
    u.svFrame f = u.modStream n fun st => { st with simDiscard := satAdd 32 st.simDiscard 1 } := by
  rw [← Bool.and_eq_true, Bool.not_eq_true] at refused
  rw [State.svFrame_passed f u hit port form src, if_pos (by rw [sim, refused]; rfl)]

/-- A stream that takes simulated frames discards the others. -/
theorem State.svFrame_notSimulated (real : f.sim = false) (sim : (u.stream n).sim = true)
    (takes : u.inTest = true ∧ bitOf (b.u16 0xE) 2 = true) : u.svFrame f = u := by
  rw [State.svFrame_passed f u hit port form src, if_neg (by simp [real]), if_pos (by simp [real, sim, takes])]

/-- A frame of the kind that the stream takes is accepted. -/
theorem State.svFrame_accepts (same : f.sim = (u.stream n).sim)
    (takes : f.sim = true → u.inTest = true ∧ bitOf (b.u16 0xE) 2 = true) : u.svFrame f = u.svAccept n b f := by
  rw [State.svFrame_passed f u hit port form src, ← same]
  cases sim : f.sim with
  | true => simp [takes sim]
  | false => simp

end

/-! ### The state machine of R126 -/

section
variable (n : Nat) (b : Bytes) (conf c0 cN : Nat) (s : State)

/-- The first frame of a stream, or of one that was lost, begins a count. -/
theorem State.streamFrame_begins (idle : (s.stream n).state = .unseen ∨ (s.stream n).state = .lost) :
    ((s.streamFrame n b conf c0 cN).stream n).state = .acquiring := by
  unfold State.streamFrame
  obtain idle | idle := idle <;> simp only [idle, State.modStream_stream_self]

variable (expected : conf = (s.stream n).conf b)
include expected

/-- A frame of the expected confRev that follows the first makes its stream VALID (R127). -/
theorem State.streamFrame_consistent (acquiring : (s.stream n).state = .acquiring)
    (follows : (s.stream n).first = some (conf, (c0 + b.u16 0xA - 1) % b.u16 0xA)) :
    ((s.streamFrame n b conf c0 cN).stream n).state = .valid := by
  have even : (conf != (s.stream n).conf b) = false := bne_eq_false_iff_eq.mpr expected
  have second : ((s.stream n).first == some (conf, (c0 + b.u16 0xA - 1) % b.u16 0xA)) = true := beq_iff_eq.mpr follows
  unfold State.streamFrame
  simp only [acquiring, even, second, Bool.false_and, Bool.true_and, Bool.not_false, Bool.true_or, Bool.false_eq_true, if_false, if_true]
  split <;> simp only [State.streamLost_stream, State.modStream_stream_self]

/-- A frame of the expected confRev that does not follow the first becomes the first of a new count. -/
theorem State.streamFrame_inconsistent (acquiring : (s.stream n).state = .acquiring)
    (apart : (s.stream n).first ≠ some (conf, (c0 + b.u16 0xA - 1) % b.u16 0xA)) :
    ((s.streamFrame n b conf c0 cN).stream n).state = .acquiring := by
  have even : (conf != (s.stream n).conf b) = false := bne_eq_false_iff_eq.mpr expected
  have first : ((s.stream n).first == some (conf, (c0 + b.u16 0xA - 1) % b.u16 0xA)) = false := beq_eq_false_iff_ne.mpr apart
  unfold State.streamFrame
  simp only [acquiring, even, first, Bool.false_and, Bool.false_eq_true, if_false, State.modStream_stream_self]

/-- A VALID stream stays so under the expected confRev. -/
theorem State.streamFrame_steady (valid : (s.stream n).state = .valid) : ((s.streamFrame n b conf c0 cN).stream n).state = .valid := by
  have even : (conf != (s.stream n).conf b) = false := bne_eq_false_iff_eq.mpr expected
  unfold State.streamFrame
  simp only [valid, even, Bool.not_false, Bool.false_eq_true, if_false, if_true]

end

/-- The smpCnt of a frame's first and last ASDU, 0 without one. -/
def svFirstCnt (f : SvFrame) : Nat := (f.asdus.headD { smpCnt := 0, vals := [], quals := [] }).smpCnt
@[inherit_doc svFirstCnt] def svLastCnt (f : SvFrame) : Nat := (f.asdus.getLastD { smpCnt := 0, vals := [], quals := [] }).smpCnt

/-- The first smpCnt of a frame that has an ASDU. -/
theorem svFirstCnt_of_head {f : SvFrame} {c : Nat} (h : f.asdus.head?.map (·.smpCnt) = some c) : svFirstCnt f = c := by
  unfold svFirstCnt
  cases asdus : f.asdus with
  | nil => rw [asdus] at h; cases h
  | cons a as => rw [asdus] at h; exact Option.some.inj h

/-- The first step of `State.svAccept`: a change between simulated and other frames begins the entry anew (R130). -/
def State.svKind (n : Nat) (f : SvFrame) (s : State) : State :=
  s.modStream n fun st => if st.sim != f.sim then { st.acquire with sim := f.sim } else st

/-- Its step after the state machine: the entry learns the source and notes the hit (R125, R128). -/
def State.svHit (n : Nat) (f : SvFrame) (s : State) : State :=
  s.modStream n fun st =>
    { st with src := some f.src, port := f.port.val, lastArrival := s.now, lastCnt := svLastCnt f, frames := satAdd 32 st.frames 1 }

/-- After these steps `State.svAccept` takes the samples and freezes the ticks that they complete, which leaves the state and the hit. -/
theorem State.svAccept_held (n : Nat) (b : Bytes) (f : SvFrame) (u : State) : State.streamHeld n
    (((u.svKind n f).streamFrame n b f.confRev.toNat (svFirstCnt f) (svLastCnt f)).svHit n f) (u.svAccept n b f) :=
  State.streamHeld_trans (State.streamHeld_foldl n _ (State.svAsdu_held n b f _) f.asdus _) (State.freezeReady_held n b _)

/-- A frame of the kind that the stream takes leaves the entry to the state machine as it was. -/
theorem State.svKind_same (n : Nat) (f : SvFrame) (u : State) (same : f.sim = (u.stream n).sim) : (u.svKind n f).stream n = u.stream n := by
  unfold State.svKind
  rw [State.modStream_stream_self]
  exact if_neg (by simp [same])

/-- What a frame of the kind the stream takes makes of the table: its entry goes as R126 says and keeps the hit, the others stand. -/
theorem State.svAccept_streams (n : Nat) (b : Bytes) (f : SvFrame) (u : State) (same : f.sim = (u.stream n).sim) :
    let t := u.svAccept n b f
    (t.stream n).state = (((u.svKind n f).streamFrame n b f.confRev.toNat (svFirstCnt f) (svLastCnt f)).stream n).state ∧
    (t.stream n).src = some f.src ∧ (t.stream n).lastArrival = u.now ∧
    (t.stream n).frames = satAdd 32 (u.stream n).frames 1 ∧ ∀ m, m ≠ n → t.stream m = u.stream m := by
  obtain ⟨others, frames, time⟩ := State.streamFrame_other n b f.confRev.toNat (svFirstCnt f) (svLastCnt f) (u.svKind n f)
  obtain ⟨⟨state, src, arrival, hits⟩, rest⟩ := u.svAccept_held n b f
  unfold State.svHit at state src arrival hits rest
  rw [State.modStream_stream_self] at state src arrival hits
  refine ⟨state, src, arrival.trans (congrArg TimeUnit.now time), ?_, fun m other => ?_⟩
  · rw [hits, frames, u.svKind_same n f same]
  · rw [rest m other, State.modStream_stream_of_ne _ _ other, others m other]
    exact State.modStream_stream_of_ne _ u other

/-! ### Loss (R126) -/

section
variable (n : Nat) (s : State)

/-- The check for loss changes no more of the table than its entry's state. -/
theorem State.lossCheck_sv : (s.lossCheck n).sv = s.sv ∨ (s.lossCheck n).sv = (s.modStream n fun st => { st with state := .lost }).sv := by
  unfold State.lossCheck
  split
  · exact .inl rfl
  · dsimp only
    split
    · exact .inr rfl
    · exact .inl rfl

/-- A stream without a record is not lost. -/
theorem State.lossCheck_noRecord (absent : s.rec? 0x301 n = none) : s.lossCheck n = s := by
  unfold State.lossCheck
  rw [absent]

variable {b : Bytes} (rec : s.rec? 0x301 n = some b)
include rec

/-- A VALID stream with LOSS_TICKS ticks without a sample is lost, and told. -/
theorem State.lossCheck_lost (valid : (s.stream n).state = .valid) (ticks : b.u16 0x20 ≤ (s.stream n).lostTicks) :
    s.lossCheck n = (s.modStream n fun st => { st with state := .lost }).streamLost n 1 ((s.stream n).conf b) := by
  unfold State.lossCheck
  rw [rec]
  exact if_pos (by simp [valid, ticks])

/-- Any other stream stays as it is. -/
theorem State.lossCheck_stays (h : (s.stream n).state ≠ .valid ∨ (s.stream n).lostTicks < b.u16 0x20) : s.lossCheck n = s := by
  unfold State.lossCheck
  rw [rec]
  refine if_neg fun lost => ?_
  obtain ⟨valid, ticks⟩ := (Bool.and_eq_true _ _).mp lost
  exact h.elim (absurd (beq_iff_eq.mp valid)) (absurd (of_decide_eq_true ticks) ∘ Nat.not_le.mpr)

end

/-! ### A tick whose deadline passes (R132) -/

@[simp] theorem Stream.prune_frozen (f r : Nat) (st : Stream) : (st.prune f r).frozen = st.frozen := by
  unfold Stream.prune
  split <;> rfl

@[simp] theorem Stream.prune_missing (f r : Nat) (st : Stream) : (st.prune f r).missing = st.missing := by
  unfold Stream.prune
  split <;> rfl

theorem State.lossCheck_frozen (n : Nat) (s : State) : ((s.lossCheck n).stream n).frozen = (s.stream n).frozen := by
  obtain h | h := s.lossCheck_sv n
  · rw [State.stream_of_sv h]
  · rw [State.stream_of_sv h, State.modStream_stream_self]

theorem State.lossCheck_missing (n : Nat) (s : State) : ((s.lossCheck n).stream n).missing = (s.stream n).missing := by
  obtain h | h := s.lossCheck_sv n
  · rw [State.stream_of_sv h]
  · rw [State.stream_of_sv h, State.modStream_stream_self]

theorem State.lossCheck_other {n m : Nat} (s : State) (other : m ≠ n) : (s.lossCheck n).stream m = s.stream m := by
  obtain h | h := s.lossCheck_sv n
  · rw [State.stream_of_sv h]
  · rw [State.stream_of_sv h, State.modStream_stream_of_ne _ _ other]

theorem State.writeTick_stream (n : Nat) (k : Nat × Nat) (val : Nat × Nat × Bool → Int × Quality) (s : State) (m : Nat) :
    (s.writeTick n k val).stream m = s.stream m := by
  obtain ⟨streams, -, -⟩ := State.writeTick_streams n k val s
  unfold State.stream
  rw [streams]

/-- The next tick frozen at its deadline with a sample missing: it is the last one frozen, and counted in MISSING_CNT where the stream is
VALID. -/
theorem State.freezeDue_missing (n : Nat) (b : Bytes) (k : Nat × Nat) (s : State) (inOrder : (s.stream n).ahead = [])
    (absent : (s.stream n).inputs (b.u16 0xA) s.rate (tickNum s.rate k) = none) :
    ((s.freezeDue n b k).stream n).frozen = some k ∧
    ((s.freezeDue n b k).stream n).missing =
      (if (s.stream n).state = .valid then satAdd 32 (s.stream n).missing 1 else (s.stream n).missing) ∧
    ∀ m, m ≠ n → (s.freezeDue n b k).stream m = s.stream m := by
  have written := fun val m => State.writeTick_stream n k val s m
  unfold State.freezeDue
  dsimp only
  rw [if_neg (by simp [absent])]
  refine ⟨?_, ?_, fun m other => ?_⟩
  · rw [State.lossCheck_frozen, State.modStream_stream_self, Stream.prune_frozen, Stream.passAhead_nil]
    exact (congrArg Stream.ahead (written _ n)).trans inOrder
  · rw [State.lossCheck_missing, State.modStream_stream_self, Stream.prune_missing, Stream.passAhead_nil, written]
    · simp
    · exact (congrArg Stream.ahead (written _ n)).trans inOrder
  · rw [State.lossCheck_other _ other, State.modStream_stream_of_ne _ _ other, written]

section
variable (n : Nat) (s : State)

/-- A stream without a record has no deadline. -/
theorem State.svFreeze_noRecord (absent : s.rec? 0x301 n = none) : s.svFreeze n = s := by
  unfold State.svFreeze
  rw [absent]

variable {b : Bytes} (rec : s.rec? 0x301 n = some b)
include rec

/-- Before the first deadline nothing is frozen. -/
theorem State.svFreeze_early (early : s.now < svDeadline b s.rate) : s.svFreeze n = s := by
  unfold State.svFreeze
  rw [rec]
  exact if_pos early

/-- Where the last deadline to pass is that of the tick after the last one frozen, that tick alone is frozen. -/
theorem State.svFreeze_next {j : Nat × Nat} (late : svDeadline b s.rate ≤ s.now) (frozen : (s.stream n).frozen = some j)
    (inOrder : (s.stream n).ahead = []) (due : tickOf s.rate (s.now - svDeadline b s.rate) = nextTick s.rate j)
    (one : tickNum s.rate (nextTick s.rate j) = tickNum s.rate j + 1) : s.svFreeze n = s.freezeDue n b (nextTick s.rate j) := by
  unfold State.svFreeze
  rw [rec]
  dsimp only
  rw [if_neg (Nat.not_lt.mpr late), frozen, due]
  dsimp only
  rw [one, Nat.add_sub_cancel_left]
  unfold State.freezeUpTo
  rw [frozen]
  dsimp only
  rw [if_neg (Nat.lt_irrefl _), inOrder, if_neg (by simp)]
  rfl

end

/-! ### The ageing sweep (R128) -/

/-- The sweep at one entry, at an instant: it is freed where its last hit is older than AGE_TIME. -/
def Stream.swept (now : Fine) (b : Bytes) (st : Stream) : Stream :=
  if st.state != .unseen && decide (st.lastArrival + b.u16 0x22 * secF < now) then
    { st with state := .unseen, src := none, first := none, candidate := none, tell4 := false }
  else st

theorem Stream.swept_old {now : Fine} {b : Bytes} {st : Stream} (seen : st.state ≠ .unseen) (old : st.lastArrival + b.u16 0x22 * secF < now) :
    (st.swept now b).state = .unseen ∧ (st.swept now b).src = none := by
  unfold Stream.swept
  rw [if_pos (by simp [seen, old])]
  exact ⟨rfl, rfl⟩

theorem Stream.swept_young {now : Fine} {b : Bytes} {st : Stream} (young : now ≤ st.lastArrival + b.u16 0x22 * secF) : st.swept now b = st :=
  if_neg (by simp [young])

/-- One record's turn in `State.svAge`. -/
def State.svAgeRecord (s : State) (r : Nat × Bytes) : State :=
  let st := s.stream r.1
  if st.state != .unseen && decide (st.lastArrival + r.2.u16 0x22 * secF < s.now) then
    let s := s.modStream r.1 fun st => { st with state := .unseen, src := none, first := none, candidate := none, tell4 := false }
    if st.state == .valid || st.state == .lost then s.streamLost r.1 3 (st.conf r.2) else s
  else s

theorem State.svAge_eq (s : State) : s.svAge = (s.recs 0x301).foldl State.svAgeRecord s := rfl

/-- A record's turn takes no time and sweeps its own entry. -/
theorem State.svAgeRecord_streams (s : State) (r : Nat × Bytes) : (s.svAgeRecord r).now = s.now ∧
    (s.svAgeRecord r).stream r.1 = (s.stream r.1).swept s.now r.2 ∧ ∀ m, m ≠ r.1 → (s.svAgeRecord r).stream m = s.stream m := by
  unfold State.svAgeRecord Stream.swept
  dsimp only
  split
  · split
    · exact ⟨rfl, (State.streamLost_stream ..).trans (State.modStream_stream_self ..),
        fun m other => (State.streamLost_stream ..).trans (State.modStream_stream_of_ne _ s other)⟩
    · exact ⟨rfl, State.modStream_stream_self .., fun m other => State.modStream_stream_of_ne _ s other⟩
  · exact ⟨rfl, rfl, fun _ _ => rfl⟩

/-- The turns of records of other entries leave an entry. -/
theorem State.foldl_svAgeRecord_other (rs : List (Nat × Bytes)) (s : State) {m : Nat} (other : m ∉ rs.map (·.1)) :
    (rs.foldl State.svAgeRecord s).stream m = s.stream m := by
  induction rs generalizing s with
  | nil => rfl
  | cons r rs ih =>
    obtain ⟨head, tail⟩ := not_or.mp (mt List.mem_cons.mpr other)
    obtain ⟨-, -, rest⟩ := s.svAgeRecord_streams r
    exact (ih _ tail).trans (rest m head)

/-- With one record to each entry, every entry is swept once. -/
theorem State.foldl_svAgeRecord_stream (rs : List (Nat × Bytes)) (s : State) (once : (rs.map (·.1)).Nodup) {r : Nat × Bytes} (mem : r ∈ rs) :
    (rs.foldl State.svAgeRecord s).stream r.1 = (s.stream r.1).swept s.now r.2 := by
  induction rs generalizing s with
  | nil => cases mem
  | cons q rs ih =>
    obtain ⟨alone, once⟩ := List.nodup_cons.mp once
    obtain ⟨now, own, rest⟩ := s.svAgeRecord_streams q
    rw [List.foldl_cons]
    obtain rfl | mem := List.mem_cons.mp mem
    · rw [State.foldl_svAgeRecord_other rs _ alone, own]
    · have other : r.1 ≠ q.1 := fun same => alone (List.mem_map.mpr ⟨r, mem, same⟩)
      rw [ih _ once mem, rest r.1 other, now]

/-! ### A device and a frame that meet what the statement asks -/

/-- A STREAM record: APPID 0x4000, any VLAN, 4,800 samples/s, one ASDU of one channel, CONFREV 1, DEADLINE 250,000 ns, port 0,
LOSS_TICKS 24, AGE_TIME 60 s. -/
def svRecord : Bytes :=
  [1, 0x0C, 0xCD, 4, 0, 1] ++ leBytes 2 0x4000 ++ leBytes 2 0xFFFF ++ leBytes 2 4800 ++ [1, 1] ++ leBytes 2 0 ++ leBytes 4 1 ++
  leBytes 4 250000 ++ leBytes 4 0 ++ leBytes 2 1 ++ [2, 2] ++ leBytes 2 24 ++ leBytes 2 60 ++ [1, 50] ++ leBytes 2 0 ++ zeros 8 ++ [0x41] ++ zeros 127

/-- A device in service at the start of second 61 that subscribes stream 0. -/
def svDevice (entry : Stream) : State :=
  { part := { inReset := false, porLow := false, bootStep := 3 }, gaf := { mode := .service, fwReady := true }
    cfg := [{ rtype := 0x301, obj := 0, body := svRecord }]
    sv := { streams := [(0, entry)] }
    time := { domA := { count := 61 * countSec } } }

/-- A frame of that stream with smpCnt 1. -/
def svHeard : SvFrame :=
  { port := 0, dst := 0x010CCD040001, src := 7, appid := 0x4000, vid := none, svid := [0x41], noAsdu := 1, dataLen := 8, confRev := 1, smpSynch := 2
    asdus := [{ smpCnt := 1, vals := [0], quals := [{ }] }] }

/-- An entry whose first frame ended with smpCnt 0. -/
def svCounting : Stream := { state := .acquiring, src := some 7, first := some (1, 0) }

/-- An entry last hit at time 0, from which 24 ticks were missing up to tick 4,797 of second 60. -/
def svSilent : Stream := { state := .valid, src := some 7, lostTicks := 24, frozen := some (60, 4797) }

/-- The frame is the first of a stream not yet seen, and the second of one whose first frame has come. -/
theorem svDevice_hears :
    let first := (svDevice { }).arrived 0
    let second := (svDevice svCounting).arrived 0
    first.svMatch svHeard = some (0, svRecord) ∧ second.svMatch svHeard = some (0, svRecord) ∧ first.part.inReset = false ∧
    bitOf (svRecord.u16 0x1C) svHeard.port.val = true ∧ svInForm svRecord svHeard ∧ svHeard.sim = (first.stream 0).sim ∧
    (first.stream 0).src = none ∧ (first.stream 0).state = .unseen ∧
    second.stream 0 = svCounting ∧ svHeard.confRev.toNat = svCounting.conf svRecord ∧
    svHeard.asdus.head?.map (·.smpCnt) = some 1 ∧
    svCounting.first = some (svHeard.confRev.toNat, (1 + svRecord.u16 0xA - 1) % svRecord.u16 0xA) := by
  unfold svInForm
  exact ⟨rfl, rfl, by decide⟩

/-- The silent stream has a tick due with its sample missing, is lost, and is older than AGE_TIME. -/
theorem svDevice_misses :
    let u := (svDevice svSilent).arrived 0
    let k := nextTick u.rate (60, 4797)
    u.rec? 0x301 0 = some svRecord ∧ u.stream 0 = svSilent ∧ svDeadline svRecord u.rate ≤ u.now ∧
    tickOf u.rate (u.now - svDeadline svRecord u.rate) = k ∧ tickNum u.rate k = tickNum u.rate (60, 4797) + 1 ∧
    svSilent.inputs (svRecord.u16 0xA) u.rate (tickNum u.rate k) = none ∧ svRecord.u16 0x20 ≤ svSilent.lostTicks ∧
    ((u.recs 0x301).map (·.1)).Nodup ∧ svSilent.lastArrival + svRecord.u16 0x22 * secF < u.now := ⟨rfl, by decide⟩

/-- Settles O53: a frame goes one of the ways of `State.svFrame`, and an accepted one goes on as `State.svAccept_streams` says; then the
deadline, the loss and the sweep. -/
theorem sampledValues : Obligations.SampledValues := by
  intro dt f i s u stays put permits form simOk
  refine ⟨?reset, ?frame, fun run => ⟨?absent, ?stream, ?sweep⟩⟩
  case reset =>
    intro reset
    exact ⟨goOn_svRuns_inReset _ reset, goOn_svRuns_inReset _ reset, goOn_svRuns_inReset _ reset, goOn_svRuns_inReset _ reset⟩
  case frame =>
    intro run
    refine ⟨fun none => goOn_svRuns run (u.svFrame_noMatch f none), fun n b hit => ?_⟩
    intro st
    refine ⟨fun port => goOn_svRuns run (u.svFrame_portErr f hit port),
      fun port bad => goOn_svRuns run (u.svFrame_formatErr f hit port bad),
      fun a port good learned other => goOn_svRuns run (u.svFrame_srcConflict f hit port good learned other), fun port good src => ?_⟩
    refine ⟨fun sim refused => goOn_svRuns run (u.svFrame_simDiscard f hit port good src sim refused),
      fun real sim takes => goOn_svRuns run (u.svFrame_notSimulated f hit port good src real sim takes), fun same takes => ?_⟩
    have entry := u.svKind_same n f same
    obtain ⟨state, source, arrival, frames, others⟩ := u.svAccept_streams n b f same
    refine ⟨_, goOn_svRuns run (u.svFrame_accepts f hit port good src same takes), ?_⟩
    simp only [State.closed_stream]
    rw [state]
    refine ⟨source, arrival, frames, others, fun idle => ?_, fun c acquiring conf head => ⟨fun follows => ?_, fun apart => ?_⟩,
      fun valid conf => ?_⟩
    · exact State.streamFrame_begins n b _ _ _ _ (entry ▸ idle)
    · exact State.streamFrame_consistent n b _ _ _ _ (entry ▸ conf) (entry ▸ acquiring) (entry ▸ svFirstCnt_of_head head ▸ follows)
    · exact State.streamFrame_inconsistent n b _ _ _ _ (entry ▸ conf) (entry ▸ acquiring) (entry ▸ svFirstCnt_of_head head ▸ apart)
    · exact State.streamFrame_steady n b _ _ _ _ (entry ▸ conf) (entry ▸ valid)
  case absent =>
    exact fun absent => ⟨goOn_svRuns run (u.svFreeze_noRecord i.val absent), goOn_svRuns run (u.lossCheck_noRecord i.val absent)⟩
  case stream =>
    intro b rec st
    refine ⟨fun early => goOn_svRuns run (u.svFreeze_early i.val rec early), fun j late frozen inOrder due one absent => ?_,
      fun valid ticks => ⟨_, goOn_svRuns run (u.lossCheck_lost i.val rec valid ticks), ?_, fun m other => ?_⟩,
      fun h => goOn_svRuns run (u.lossCheck_stays i.val rec h)⟩
    · obtain ⟨last, missing, others⟩ := u.freezeDue_missing i.val b (nextTick u.rate j) inOrder absent
      refine ⟨_, goOn_svRuns run (u.svFreeze_next i.val rec late frozen inOrder due one), ?_⟩
      simp only [State.closed_stream]
      exact ⟨last, missing, others⟩
    · rw [State.closed_stream, State.streamLost_stream, State.modStream_stream_self]
    · rw [State.closed_stream, State.streamLost_stream, State.modStream_stream_of_ne _ _ other]
  case sweep =>
    intro once
    refine ⟨_, goOn_svRuns run u.svAge_eq, fun r mem => ?_⟩
    rw [State.closed_stream, State.foldl_svAgeRecord_stream _ u once mem]
    exact ⟨Stream.swept_old, Stream.swept_young⟩

end Sys2Proof.Machine
end

section
/-!
PROOF. Channel groups (R152, R154, R157 to R159, R161, R163, R170): how a segment is taken, what a fire makes of a group, and what the
operations of ACQ_ARM do.
-/
namespace Sys2Proof.Machine

/-! ### Groups -/

theorem State.grp_of_acq {s t : State} (h : t.acq = s.acq) (n : Nat) : t.grp n = s.grp n := by
  unfold State.grp
  rw [h]

@[simp] theorem State.modGrp_grp_self (n : Nat) (f : Group → Group) (s : State) : (s.modGrp n f).grp n = f (s.grp n) :=
  Table.get_put_self ..

theorem State.modGrp_grp_of_ne {n m : Nat} (f : Group → Group) (s : State) (other : m ≠ n) : (s.modGrp n f).grp m = s.grp m :=
  Table.get_put_of_ne _ _ _ _ _ other

/-- Between two states group `n` and the triggers may have changed, and nothing else. -/
def GroupOnly (n : Nat) (s t : State) : Prop :=
  t = { s with acq := t.acq } ∧ t.acq.links = s.acq.links ∧ t.acq.chans = s.acq.chans ∧ ∀ m, m ≠ n → t.grp m = s.grp m

theorem GroupOnly.trans {n : Nat} {s t u : State} (h : GroupOnly n s t) (k : GroupOnly n t u) : GroupOnly n s u := by
  obtain ⟨frame, links, chans, others⟩ := h
  obtain ⟨frame', links', chans', others'⟩ := k
  refine ⟨?_, links'.trans links, chans'.trans chans, fun m other => (others' m other).trans (others m other)⟩
  rw [frame', frame]

theorem State.modGrp_groupOnly (n : Nat) (f : Group → Group) (s : State) : GroupOnly n s (s.modGrp n f) :=
  ⟨rfl, rfl, rfl, fun _ other => s.modGrp_grp_of_ne f other⟩

theorem State.unprime_groupOnly (n : Nat) (s : State) : GroupOnly n s (s.unprime n) := ⟨rfl, rfl, rfl, fun _ _ => rfl⟩

/-! ### A segment is taken (R157 to R159) -/

/-- The segment to take follows from the configuration and the segments of the group. -/
theorem State.segToTake_congr {n : Nat} {s t : State} (cfg : t.cfg = s.cfg) (segs : (t.grp n).segs = (s.grp n).segs) :
    t.segToTake n = s.segToTake n := by
  unfold State.segToTake State.fld State.rec? Group.seg
  dsimp only
  rw [cfg, segs]

/-- What taking a segment makes of a group: PARISON with that segment open, or FULL where there is none. -/
def State.intoParison (n : Nat) (keep : Bool) (s : State) (g : Group) : Group :=
  match s.segToTake n with
  | none => { g with state := .full, cur := none, ring := [], latched := none }
  | some (i, again) =>
    { g.modSeg i (fun _ => { state := .open_ }) with
      state := .parison, cur := some i, fire := none, retrig := 0, hold := none
      overwrite := if again then satAdd 32 g.overwrite 1 else g.overwrite
      ring := if keep then g.ring else []
      chans := s.grpChans n, pre := s.fld 0x403 n 0 (·.u32 4), post := s.fld 0x403 n 1 (·.u32 8) }

theorem State.enterParison_eq (n : Nat) (keep : Bool) (s : State) : s.enterParison n keep = s.modGrp n (s.intoParison n keep) := by
  unfold State.enterParison State.intoParison
  cases s.segToTake n <;> rfl

theorem State.intoParison_congr {n : Nat} {s t : State} (cfg : t.cfg = s.cfg) (segs : (t.grp n).segs = (s.grp n).segs) (keep : Bool) :
    t.intoParison n keep = s.intoParison n keep := by
  unfold State.intoParison State.grpChans State.fld State.recs State.rec?
  rw [State.segToTake_congr cfg segs, cfg]

/-! ### Arming (R157, R161) -/

section
variable {n : Nat} (mode : ArmMode) {s : State}

/-- What arming notes of a group before it takes a segment. -/
def Group.armed (g : Group) : Group := { g with mode, disarm := false }

/-- An armed group stays as it is. -/
theorem State.armGroup_armed (armed : (s.grp n).state ≠ .idle) : s.armGroup n mode = s := if_pos (by simpa using armed)

variable (idle : (s.grp n).state = .idle) (stage : s.pwr.stage < 2)
include idle stage

theorem State.armGroup_eq :
    s.armGroup n mode = ((s.unprime n).modGrp n (Group.armed mode)).enterParison n false := by
  unfold State.armGroup
  rw [if_neg (by simp [idle]), if_neg (by omega)]
  rfl

/-- Arming an idle group touches that group and the PRIMED bits of its triggers alone. -/
theorem State.armGroup_groupOnly : GroupOnly n s (s.armGroup n mode) := by
  rw [State.armGroup_eq mode idle stage, State.enterParison_eq]
  exact ((s.unprime_groupOnly n).trans (State.modGrp_groupOnly ..)).trans (State.modGrp_groupOnly ..)

/-- An idle group that is armed takes a segment. -/
theorem State.armGroup_grp : (s.armGroup n mode).grp n = s.intoParison n false ((s.grp n).armed mode) := by
  have noted : ((s.unprime n).modGrp n (Group.armed mode)).grp n = (s.grp n).armed mode := State.modGrp_grp_self ..
  have segs : (((s.unprime n).modGrp n (Group.armed mode)).grp n).segs = (s.grp n).segs := by rw [noted]; rfl
  have same := State.intoParison_congr (s := s) (t := (s.unprime n).modGrp n (Group.armed mode)) rfl segs false
  rw [State.armGroup_eq mode idle stage, State.enterParison_eq, State.modGrp_grp_self, noted, same]

end

/-- Arming leaves the operations in flight. -/
theorem State.armGroup_gaf (n : Nat) (mode : ArmMode) (s : State) : (s.armGroup n mode).gaf = s.gaf := by
  unfold State.armGroup
  split
  · rfl
  · split
    · rfl
    · rw [State.enterParison_eq]
      rfl

/-! ### Fires (R152, R154, R158) -/

/-- A fire is noted for the recorders where there is DDR (R406). -/
def State.noteFire (n : Nat) (stamp : Fine) (s : State) : State :=
  if s.rec_.ddr then { s with rec_ := { s.rec_ with fires := s.rec_.fires ++ [(n, stamp)] } } else s

@[simp] theorem State.noteFire_gaf (n : Nat) (stamp : Fine) (s : State) : (s.noteFire n stamp).gaf = s.gaf := by
  unfold State.noteFire
  split <;> rfl

@[simp] theorem State.noteFire_cfg (n : Nat) (stamp : Fine) (s : State) : (s.noteFire n stamp).cfg = s.cfg := by
  unfold State.noteFire
  split <;> rfl

@[simp] theorem State.noteFire_acq (n : Nat) (stamp : Fine) (s : State) : (s.noteFire n stamp).acq = s.acq := by
  unfold State.noteFire
  split <;> rfl

/-- A fire takes a group from PARISON to POST. -/
def Group.fired (f : Fire) (hold : Option Fine) (g : Group) : Group := { g with state := .post, fire := some f, hold }

/-- The end of the window in which a group of the cascade keeps its trigger point open (R168). -/
def State.fireHold (n : Nat) (s : State) : Option Fine := if s.gflag n 1 then some (s.now + 300 * nsF) else none

/-- The FIRE frame of a group of the cascade that was armed under a number (R168). -/
def State.fireFrame (n : Nat) (f : Fire) (armed : Nat) (s : State) : Output :=
  .casFire { group := ⟨n % 8, Nat.mod_lt _ (by decide)⟩, origin := ⟨s.cd % 4, Nat.mod_lt _ (by decide)⟩
             armSeq := BitVec.ofNat 32 armed, tFire := f.t }

/-- A fire in PARISON decides, is noted, and in a group of the cascade that fired here goes round the ring (R154, R158, R168). -/
theorem State.groupFire_parison {n : Nat} (f : Fire) {s : State} (parison : (s.grp n).state = .parison) :
    let t := (s.modGrp n (Group.fired f (s.fireHold n))).noteFire n f.t
    s.groupFire n f = (if s.gflag n 1 && f.origin == t.cd then t.emit (t.fireFrame n f (s.grp n).armSeq) else t, true) := by
  unfold State.groupFire
  dsimp only
  rw [parison]
  rfl

/-- A fire of a group leaves the operations in flight. -/
theorem State.groupFire_gaf (n : Nat) (f : Fire) (s : State) : (s.groupFire n f).1.gaf = s.gaf := by
  cases state : (s.grp n).state with
  | parison =>
    rw [State.groupFire_parison f state]
    dsimp only
    split
    · exact State.noteFire_gaf ..
    · exact State.noteFire_gaf ..
  | post | rearm | full =>
    unfold State.groupFire
    dsimp only
    rw [state]
    rfl
  | idle =>
    unfold State.groupFire
    dsimp only
    rw [state]

/-- The groups that one trigger reaches leave the operations in flight. -/
theorem State.foldl_groupFire_gaf (f : Nat → Fire) (gs : List Nat) (p : State × List Nat) :
    (gs.foldl (fun p g => ((p.1.groupFire g (f g)).1, if (p.1.groupFire g (f g)).2 then p.2 ++ [g] else p.2)) p).1.gaf = p.1.gaf := by
  induction gs generalizing p with
  | nil => rfl
  | cons g gs ih => exact (ih _).trans (State.groupFire_gaf ..)

theorem State.fireTrigs_gaf (fuel : Nat) (ts : List (Nat × Fine × Nat × (Nat → Bool))) (s : State) : (s.fireTrigs fuel ts).gaf = s.gaf := by
  induction fuel generalizing ts s with
  | zero => rw [State.fireTrigs]
  | succ fuel ih =>
    cases ts with
    | nil => rw [State.fireTrigs]; exact Nat.noConfusion
    | cons t ts =>
      obtain ⟨t, stamp, origin, which⟩ := t
      rw [State.fireTrigs]
      exact (ih _ _).trans (State.foldl_groupFire_gaf ..)

/-- Triggers that fire one after another leave the operations in flight. -/
theorem State.foldl_fire_gaf (rs : List (Nat × Bytes)) (stamp : Fine) (s : State) :
    (rs.foldl (fun v r => v.fire r.1 stamp fun _ => true) s).gaf = s.gaf := by
  induction rs generalizing s with
  | nil => rfl
  | cons r rs ih => exact (ih _).trans (State.fireTrigs_gaf ..)

/-- The external triggers of a source that fire, in order of their records (R152). -/
theorem State.fireExternal_eq (source mask : Nat) (stamp : Fine) (s : State) : s.fireExternal source mask stamp =
    ((s.recs 0x404).filter fun r => r.2.u8 0 == 4 && r.2.u8 1 == source && bitOf mask r.1).foldl
      (fun v r => v.fire r.1 stamp fun _ => true) s := by
  rw [List.foldl_filter]
  rfl

/-- A fire takes a group that is not of the cascade from PARISON to POST; where no cascade trigger follows, it does no more. -/
theorem State.fireGroup_parison {n : Nat} (f : Fire) {s : State} (parison : (s.grp n).state = .parison) (alone : s.gflag n 1 = false)
    (ends : s.cascadeTrigs n = []) : s.fireGroup n f = (s.modGrp n (Group.fired f none)).noteFire n f.t := by
  have hit := State.groupFire_parison f parison
  have hold : s.fireHold n = none := by
    unfold State.fireHold
    rw [alone]
    rfl
  rw [alone, hold] at hit
  have last : ((s.modGrp n (Group.fired f none)).noteFire n f.t).cascadeTrigs n = [] := by
    unfold State.cascadeTrigs State.recs at ends ⊢
    rw [State.noteFire_cfg]
    exact ends
  unfold State.fireGroup
  rw [hit]
  dsimp only
  rw [if_pos rfl, if_neg (by simp), last]
  rw [List.map_nil, State.fireTrigs]
  exact Nat.noConfusion

/-! ### ACQ_ARM (R157, R163, R170) -/

section
variable {group : Byte} {tArm : U64} {s : State} (seq : Nat) (path : Path)
  (low : group.toNat ≤ 7) (rec_ : (s.rec? 0x403 group.toNat).isSome = true) (alone : s.gflag group.toNat 1 = false)
include low rec_ alone

/-- ACQ_ARM of a known operation on a group that is not of the cascade: FORCE is refused where no segment is being filled, and otherwise the
operation waits for T_ARM or acts at once. -/
theorem State.acqArm_eq (op : Byte) (known : 1 ≤ op.toNat ∧ op.toNat ≤ 5) (small : op = 5 → (s.grpChans group.toNat).length ≤ 5) :
    s.acqArm seq op group 0 tArm none path =
      if op = 4 ∧ ((s.grp group.toNat).state = .idle ∨ (s.grp group.toNat).state = .full) then (s, badAt 1)
      else if s.now < tArm.toNat * nsF then (s, .wait (.arm group.toNat))
      else s.armEffect seq op.toNat group.toNat := by
  have noGroup : ¬ (decide (7 < group.toNat) || (s.rec? 0x403 group.toNat).isNone) = true := by
    simp [Option.isNone_eq_false_iff.mpr rec_, low]
  have noOp : ¬ (decide (op = 0) || decide (5 < op.toNat) || (false && !s.part.straps.masterEn)) = true := by
    obtain ⟨least, most⟩ := known
    have some_ : op ≠ 0 := by rintro rfl; simp at least
    simpa [most] using some_
  have noBuffer : ¬ (decide (op = 5) && decide (5 < (s.grpChans group.toNat).length) &&
      !(none : Option BufDesc).any fun b => b.kind != 0) = true := by
    simpa using small
  unfold State.acqArm
  dsimp only
  rw [alone, if_neg noGroup, if_neg noOp, if_neg (by simp)]
  dsimp only [Option.bind]
  rw [if_neg (by simp), if_neg noBuffer]
  simp only [Bool.and_eq_true, Bool.or_eq_true, decide_eq_true_eq, beq_iff_eq, Bool.false_and, Bool.false_eq_true, if_false]

end

/-- A CHANNEL_GROUP record: one segment of 64 samples after the trigger, FULL_MODE 0. -/
def groupRecord : Bytes := leBytes 2 1 ++ [0, 0] ++ leBytes 4 0 ++ leBytes 4 64 ++ zeros 12

/-- A device in service with one channel group. -/
def groupDevice (g : Group) : State :=
  { part := { inReset := false, porLow := false, bootStep := 3, pcieUp := true }, gaf := { mode := .service, fwReady := true, committed := 0xFFFF }
    cfg := [{ rtype := 0x403, obj := 0, body := groupRecord }], acq := { groups := [(0, g)] } }

/-- Its group takes each operation of ACQ_ARM, has T_ARM 0 behind it and T_ARM 1 ahead, and finds its segment free, closed or in use. -/
theorem groupDevice_takes :
    let u (g : Group) := (groupDevice g).arrived 0
    let h : CmdHead := { mb := 0, tag := 7 }
    ((u { }).takes h (.acqArm 1 0 0 1 none) = true ∧ (u { }).takes h (.acqArm 2 0 0 0 none) = true ∧
      (u { state := .parison }).takes h (.acqArm 3 0 0 0 none) = true ∧ (u { }).takes h (.acqArm 4 0 0 0 none) = true ∧
      (u { state := .post }).takes h (.acqArm 4 0 0 0 none) = true ∧ (u { }).takes h (.acqArm 5 0 0 0 none) = true) ∧
    ((u { }).rec? 0x403 0).isSome = true ∧ (u { }).gflag 0 1 = false ∧ 0 ≤ (u { }).now ∧ (u { }).now < 1 * 65536 ∧
    (u { }).pwr.stage < 2 ∧ (u { }).grpChans 0 = [] ∧ (u { }).cascadeTrigs 0 = [] ∧
    (u { }).segToTake 0 = some (0, false) ∧ (u { segs := [(0, { state := .closed })] }).segToTake 0 = some (0, true) ∧
    (u { segs := [(0, { state := .open_ })] }).segToTake 0 = none := by decide

/-- Settles O33: the operation waits or arms the group, and an idle group that is armed takes a segment as `State.intoParison` says. R157 and
R170 give IDLE to PARISON with a free segment; that ARM goes on from IDLE as R159 has REARM go on is the model's reading. -/
theorem armTakesASegment : Obligations.ArmTakesASegment := by
  intro dt h group tArm single s c i b n g takes low rec_ alone
  let mode : ArmMode := if single then .single else .cont
  have row : exec i s = goOn dt (State.hostRow h c) s := by cases single <;> rfl
  have out : b.carryOut ((s.arrived dt).opFor h c) =
      if b.now < tArm.toNat * nsF then (b, .wait (.arm n)) else (b.armGroup n mode, atNow b) := by
    cases single with
    | true => exact State.acqArm_eq _ h.path low rec_ alone 2 (by decide) (absurd · (by decide))
    | false => exact State.acqArm_eq _ h.path low rec_ alone 1 (by decide) (absurd · (by decide))
  refine ⟨fun early => ?_, fun due armed => ?_, fun due idle stage => ⟨b.armGroup n mode, ?_, ?_⟩⟩
  · exact row.trans (State.goOn_waits dt h c s _ (fun b => b) takes (out.trans (if_pos early)) Wait.noConfusion rfl)
  · have stays : b.armGroup n mode = b := State.armGroup_armed mode armed
    exact row.trans (State.goOn_ends dt h c s _ _ _ _ _ (fun b => b) takes
      ((out.trans (if_neg (Nat.not_lt.mpr due))).trans (by rw [stays]; rfl)) rfl)
  · exact row.trans (State.goOn_ends dt h c s _ _ _ _ _ (fun _ => b.armGroup n mode) takes (out.trans (if_neg (Nat.not_lt.mpr due)))
      (congrArg Gaffer.ops (State.armGroup_gaf ..)))
  · obtain ⟨frame, links, chans, others⟩ := State.armGroup_groupOnly mode idle stage
    have taken := State.armGroup_grp mode idle stage
    unfold State.intoParison at taken
    refine ⟨frame, links, chans, others, fun none_ => ?_, fun k again some_ => ?_⟩
    · rw [taken, none_]
      rfl
    · rw [taken, some_]
      rfl

/-! ### The other operations -/

/-- What DISARM makes of a group: the mode before shedding is forgotten too (R157, R161). -/
def Group.disarmed (g : Group) : Group := { g.disarmNow with shedMode := .none }

theorem Group.disarmed_idle {g : Group} (idle : g.state = .idle) : g.disarmed = { g with shedMode := .none } := by
  have stays : g.disarmNow = g := by
    unfold Group.disarmNow
    rw [idle]
  unfold Group.disarmed
  rw [stays]

/-- A segment whose trigger has come is let close first (R158). -/
theorem Group.disarmed_filling {g : Group} (filling : g.state = .post ∨ g.state = .rearm) :
    g.disarmed = { g with shedMode := .none, disarm := true } := by
  unfold Group.disarmed Group.disarmNow
  obtain post | rearm := filling
  · rw [post]
  · rw [rearm]

/-- A group that waits for a trigger or a segment goes IDLE at once (R157). -/
theorem Group.disarmed_waiting {g : Group} (waiting : g.state = .parison ∨ g.state = .full) :
    g.disarmed.state = .idle ∧ g.disarmed.mode = .none ∧ g.disarmed.cur = none := by
  unfold Group.disarmed Group.disarmNow
  obtain parison | full := waiting
  · rw [parison]
    exact ⟨rfl, rfl, rfl⟩
  · rw [full]
    exact ⟨rfl, rfl, rfl⟩

/-- FORCE at an instant: the external triggers of source 5 that the group listens to fire, in the order of their records. -/
def State.forced (n : Nat) (stamp : Fine) (s : State) : State :=
  ((s.recs 0x404).filter fun r => r.2.u8 0 == 4 && r.2.u8 1 == 5 && bitOf (s.trigMask n) r.1).foldl
    (fun v r => v.fire r.1 stamp fun _ => true) s

theorem State.forced_gaf (n : Nat) (stamp : Fine) (s : State) : (s.forced n stamp).gaf = s.gaf := State.foldl_fire_gaf ..

/-- FORCE of a group that fills a segment (R152, R170). -/
theorem State.armEffect_force (seq : Nat) {n : Nat} {s : State} (notIdle : (s.grp n).state ≠ .idle) (notFull : (s.grp n).state ≠ .full) :
    s.armEffect seq 4 n = (s.forced n s.now, atNow s) := by
  have forced : s.fireExternal 5 (s.trigMask n) s.now = s.forced n s.now := s.fireExternal_eq ..
  rw [← forced]
  exact if_neg (by simp [notIdle, notFull])

/-- A fire of a group in PARISON that is not of the cascade and leads to no cascade trigger: what becomes of the groups. -/
theorem State.fireGroup_parison_grp {n : Nat} (f : Fire) {s : State} (parison : (s.grp n).state = .parison) (alone : s.gflag n 1 = false)
    (ends : s.cascadeTrigs n = []) :
    (s.fireGroup n f).gaf = s.gaf ∧ (s.fireGroup n f).grp n = (s.grp n).fired f none ∧ ∀ m, m ≠ n → (s.fireGroup n f).grp m = s.grp m := by
  have groups (m : Nat) : ((s.modGrp n (Group.fired f none)).noteFire n f.t).grp m = (s.modGrp n (Group.fired f none)).grp m :=
    State.grp_of_acq (State.noteFire_acq ..) m
  rw [State.fireGroup_parison f parison alone ends]
  refine ⟨State.noteFire_gaf .., ?_, fun m other => ?_⟩
  · rw [groups, State.modGrp_grp_self]
  · rw [groups, State.modGrp_grp_of_ne _ _ other]

/-- The group of a skew measurement carries its operation (R163). -/
def Group.measures (seq : Nat) (g : Group) : Group := { g with skew := some seq }

/-- SKEW_MEASURE on an idle group that is not of the cascade arms it, names its operation and fires it at once (R163). -/
theorem State.skewMeasure_fires (seq : Nat) {n k : Nat} {again : Bool} {s : State} (alone : s.gflag n 1 = false)
    (idle : (s.grp n).state = .idle) (stage : s.pwr.stage < 2) (ends : s.cascadeTrigs n = []) (free : s.segToTake n = some (k, again)) :
    ∃ v, s.armEffect seq 5 n = (v, .wait (.skew n)) ∧ v.gaf = s.gaf ∧
      (v.grp n).state = .post ∧ (v.grp n).mode = .single ∧ (v.grp n).cur = some k ∧ (v.grp n).skew = some seq ∧
      (v.grp n).fire = some { t := s.now, cause := 0, origin := s.cd } ∧ ∀ m, m ≠ n → v.grp m = s.grp m := by
  let t := (s.armGroup n .single).modGrp n (Group.measures seq)
  obtain ⟨frame, -, -, others⟩ : GroupOnly n s t := (State.armGroup_groupOnly .single idle stage).trans (State.modGrp_groupOnly ..)
  have now : t.now = s.now := by rw [frame]; rfl
  have cd : t.cd = s.cd := by rw [frame]; rfl
  have gaf : t.gaf = s.gaf := by rw [frame]
  have own : t.grp n = Group.measures seq (s.intoParison n false ((s.grp n).armed .single)) := by
    rw [State.modGrp_grp_self, State.armGroup_grp .single idle stage]
  unfold State.intoParison at own
  rw [free] at own
  have parison : (t.grp n).state = .parison := by rw [own]; rfl
  obtain ⟨kept, fired, rest⟩ := State.fireGroup_parison_grp { t := t.now, cause := 0, origin := t.cd } parison
    (show t.gflag n 1 = false by rw [frame]; exact alone) (show t.cascadeTrigs n = [] by rw [frame]; exact ends)
  rw [own, now, cd] at fired
  refine ⟨t.fireGroup n { t := t.now, cause := 0, origin := t.cd }, rfl, kept.trans gaf, ?_⟩
  rw [now, cd] at rest ⊢
  rw [fired]
  exact ⟨rfl, rfl, rfl, rfl, rfl, fun m other => (rest m other).trans (others m other)⟩

/-- Out of reset an effect at an instant of its own happens. -/
theorem goOn_outOfReset {dt : Nat} {f : State → State} {s t : State} (run : (s.arrived dt).part.inReset = false) (h : f (s.arrived dt) = t) :
    goOn dt (State.outOfReset f) s = .next (s.closed t) := goOn_of_eq ((if_neg (Bool.eq_false_iff.mp run)).trans h)

/-- ARM_CONT that waits alone on a group that is not of the cascade waits for T_ARM, and then arms the group (R157, R170). -/
theorem State.armsDue_one {n : Nat} {o : Op} {group : Byte} {rsv : U16} {tArm : U64} {buf : Option BufDesc} {s : State} (ops : s.gaf.ops = [o])
    (started : o.started = true) (out : o.outcome = none) (wait : o.wait = .arm n) (cmd : o.cmd = .acqArm 1 group rsv tArm buf)
    (alone : s.gflag n 1 = false) (none_ : (s.grp n).pendArm = []) :
    s.armsDue n = if s.now < tArm.toNat * nsF then s
      else (s.armGroup n .cont).finished o .ok 0 (leBytes 8 s.nowNs) false [] := by
  have cascade : s.cascadeArms n = s := by
    unfold State.cascadeArms
    rw [none_]
    rfl
  unfold State.armsDue
  dsimp only
  rw [cascade, ops, List.filter_cons, if_pos (by simp [started, out, wait]), List.filter_nil, List.foldl_cons, List.foldl_nil, cmd]
  dsimp only
  rw [alone, if_neg (by simp)]
  split
  · rfl
  · exact State.applyReply_done o _ _ _ _ _ _ ((congrArg Gaffer.ops (State.armGroup_gaf ..)).trans ops) out

/-- Settles O34: DISARM, FORCE and SKEW_MEASURE are carried out alone, each as its lemmas say, and ACQ_ARM_EFFECT ends the one arm that
waits. -/
theorem otherArmOperations : Obligations.OtherArmOperations := by
  refine ⟨?commands, ?effect⟩
  case commands =>
    intro dt h group tArm s c u n low rec_ alone due
    have due : ¬ u.now < tArm.toNat * nsF := Nat.not_lt.mpr due
    have arm (op : Byte) := State.acqArm_eq (s := u.begun h (c op)) (tArm := tArm) u.gaf.opSeq h.path low rec_ alone op
    refine ⟨fun takes => ?disarm, fun takes st => ?refused, fun takes notIdle notFull => ?force,
      fun takes small idle stage ends k again free => ?skew⟩
    case disarm =>
      have out := ((arm 3 (by decide) (absurd · (by decide))).trans (if_neg (by simp))).trans (if_neg due)
      refine ⟨(u.begun h (c 3)).modGrp n Group.disarmed, State.goOn_ends dt h (c 3) s _ _ _ _ _ (fun _ => _) takes out rfl, rfl,
        fun m other => State.modGrp_grp_of_ne _ _ other, ?_⟩
      have own : ((u.begun h (c 3)).modGrp n Group.disarmed).grp n = (u.grp n).disarmed := State.modGrp_grp_self ..
      rw [own]
      exact ⟨Group.disarmed_idle, Group.disarmed_filling, Group.disarmed_waiting⟩
    case refused =>
      exact State.goOn_endsNot dt h (c 4) s _ _ takes ((arm 4 (by decide) (absurd · (by decide))).trans (if_pos ⟨rfl, st⟩))
    case force =>
      have out := ((arm 4 (by decide) (absurd · (by decide))).trans (if_neg fun refused => refused.2.elim notIdle notFull)).trans (if_neg due)
      have fires := State.armEffect_force u.gaf.opSeq (s := u.begun h (c 4)) notIdle notFull
      exact State.goOn_ends dt h (c 4) s _ _ _ _ _ (State.forced n u.now) takes (out.trans fires)
        (congrArg Gaffer.ops (State.forced_gaf ..))
    case skew =>
      have out := ((arm 5 (by decide) fun _ => small).trans (if_neg (by simp))).trans (if_neg due)
      obtain ⟨v, fires, gaf, state, mode, cur, skew, fire, others⟩ :=
        State.skewMeasure_fires u.gaf.opSeq (s := u.begun h (c 5)) alone idle stage ends free
      exact ⟨v, State.goOn_waits dt h (c 5) s _ (fun _ => v) takes (out.trans fires) Wait.noConfusion (congrArg Gaffer.ops gaf),
        state, mode, cur, skew, fire, others⟩
  case effect =>
    intro dt n o group rsv tArm buf s u run ops started out wait cmd alone none_
    have acts := State.armsDue_one ops started out wait cmd alone none_
    refine ⟨fun due => goOn_outOfReset run ?_, fun early => goOn_outOfReset run (congrArg State.settleOut (acts.trans (if_pos early)))⟩
    exact (congrArg State.settleOut (acts.trans (if_neg (Nat.not_lt.mpr due)))).trans (State.settleOut_idle _ (State.finished_idle ..))

end Sys2Proof.Machine
end

section
/-!
PROOF. What SEGMENT_READ and TRACE_READ return, and what RELEASE sets free (R159, R171, R295).
-/
namespace Sys2Proof.Machine

/-- A command taken alone whose answer is the data it returns, and which then changes the state without an operation of its own. -/
theorem State.goOn_deliver_then (dt : Nat) (h : CmdHead) (c : HostCmd) (s : State) (buf : BufDesc) (data inline_ : Bytes)
    (after : State → State) (keeps : ∀ v, (after v).gaf = v.gaf) (takes : (s.arrived dt).takes h c = true)
    (out : ((s.arrived dt).begun h c).carryOut ((s.arrived dt).opFor h c) =
      (after (((s.arrived dt).begun h c).deliver buf data inline_).1, (((s.arrived dt).begun h c).deliver buf data inline_).2)) :
    goOn dt (State.hostRow h c) s = .next (s.endsReply dt h c
      (after (((s.arrived dt).begun h c).deliver buf data inline_).1, (((s.arrived dt).begun h c).deliver buf data inline_).2)) := by
  obtain ⟨m, n, kept, flash⟩ := State.deliver_eq buf data inline_ ((s.arrived dt).begun h c)
  refine State.goOn_reply dt h c s _ takes out flash ?_
  dsimp only
  rw [keeps, kept]
  rfl

/-- A released segment leaves the operations in flight. -/
theorem State.releaseSegment_gaf (n i : Nat) (s : State) : (s.releaseSegment n i).gaf = s.gaf := by
  unfold State.releaseSegment
  dsimp only
  split
  · rw [State.enterParison_eq]
    rfl
  · rfl

/-- SEGMENT_READ of a closed segment delivers it, and releases it under RELEASE (R171). -/
theorem State.segmentRead_closed {g seg : U16} {fl : U32} {buf : BufDesc} {path : Path} {x : Segment} {s : State} (low : g.toNat ≤ 7)
    (known : fl.toNat ≤ 3) (good : bufBad buf 8 path = none) (one : seg ≠ 0xFFFF)
    (found : (((s.grp g.toNat).segs.filter fun y => y.2.state == .closed).find? fun y => y.1 == seg.toNat) = some (seg.toNat, x)) :
    let data := (segBytes g.toNat seg.toNat x (fl.getLsbD 1)).take (bufRoom buf)
    let out := s.deliver buf data (packLe [(2, seg.toNat), (2, 0), (4, x.seq), (4, data.length)])
    s.segmentRead g seg fl buf path = (if fl.getLsbD 0 then out.1.releaseSegment g.toNat seg.toNat else out.1, out.2) := by
  unfold State.segmentRead
  dsimp only
  rw [if_neg (Nat.not_lt.mpr low), if_neg (Nat.not_lt.mpr known), good]
  dsimp only
  rw [if_neg one, found]
  rfl

/-- TRACE_READ of a held set delivers its rows of the channels asked for, and under RELEASE leaves the set idle (R295). -/
theorem State.traceRead_held {first n : U32} {mask fl : U16} {buf : BufDesc} {path : Path} {a : TraceArgs} {s : State}
    (held : s.conv.trace.state = .held) (args : s.conv.trace.args = some a) (lt : first.toNat < s.conv.trace.samples.reverse.length)
    (least : 1 ≤ n.toNat) (most : n.toNat ≤ 65536) (fits : first.toNat + n.toNat ≤ s.conv.trace.samples.reverse.length)
    (channels : mask.toNat < 2 ^ a.nCh.toNat) (known : fl.toNat < 2) (good : bufBad buf 0x10 path = none) :
    let t := s.conv.trace
    let xs := t.samples.reverse
    let start (k : Nat) : Nat := k / 100000 * 1000000000 + k % 100000 * 10000
    let span := (xs.drop first.toNat).take n.toNat
    let chans := ((List.range a.nCh.toNat).filter (bitOf mask.toNat)).flatMap fun j => span.flatMap fun x => leBytes 4 (x.2.getD j 0).toNat
    let data := ((if a.div = 0 then span.flatMap fun x => leBytes 8 (start x.1) else []) ++ chans).take (bufRoom buf)
    let trig := (xs[t.preValid]?).elim 0 (·.1)
    let out := s.deliver buf data (packLe [(8, start trig), (4, trig % 100000), (4, t.preValid), (2, a.div.toNat), (2, 3), (4, t.loss),
      (4, data.length)] ++ zeros 12)
    s.traceRead first n mask fl 0 buf path =
      (if fl.getLsbD 0 then { out.1 with conv := { out.1.conv with trace := { } } } else out.1, out.2) := by
  have flags : onlyBits 1 fl.toNat = true := by
    have cases : fl.toNat = 0 ∨ fl.toNat = 1 := by omega
    obtain zero | one := cases
    · rw [zero]; rfl
    · rw [one]; rfl
  have bad : firstBad [(0, decide (first.toNat < max 1 s.conv.trace.samples.reverse.length)),
      (4, within 1 65536 n.toNat && decide (first.toNat + n.toNat ≤ s.conv.trace.samples.reverse.length)),
      (8, decide (mask.toNat < 2 ^ a.nCh.toNat)), (0xA, onlyBits 1 fl.toNat), (0xC, (0 : U32) == 0)] = none := by
    have inSet : first.toNat < max 1 s.conv.trace.samples.reverse.length := lt_max_of_lt_right lt
    rw [flags, decide_eq_true inSet, decide_eq_true fits, decide_eq_true channels, within, decide_eq_true ⟨least, most⟩]
    rfl
  unfold State.traceRead
  dsimp only
  rw [held, args, if_neg (by decide)]
  dsimp only [Option.getD]
  rw [bad, good]
  rfl

/-- Settles O28: both commands are carried out alone, and each delivers what its lemma says. -/
theorem readingSegmentsAndTraces : Obligations.ReadingSegmentsAndTraces := by
  refine ⟨?segment, ?trace⟩
  case segment =>
    intro dt h g seg fl buf x s c b data out takes low known good one found
    refine State.goOn_deliver_then dt h c s buf data _ (fun v => if fl.getLsbD 0 then v.releaseSegment g.toNat seg.toNat else v)
      (fun v => ?_) takes (State.segmentRead_closed low known good one found)
    split
    · exact State.releaseSegment_gaf ..
    · rfl
  case trace =>
    intro dt h first n mask fl buf a s c b t xs start span chans data trig out takes held args lt least most fits channels known good
    refine State.goOn_deliver_then dt h c s buf data _ (fun v => if fl.getLsbD 0 then { v with conv := { v.conv with trace := { } } } else v)
      (fun v => ?_) takes (State.traceRead_held held args lt least most fits channels known good)
    split <;> rfl

end Sys2Proof.Machine
end

section
/-!
PROOF. ADC links and SYSREF (R138, R140, R142, R143): what a block and an edge of SYSREF, or its absence, make of each link.
-/
namespace Sys2Proof.Machine

/-! ### Links -/

theorem State.link_of_links {s t : State} (h : t.acq.links = s.acq.links) (n : Nat) : t.link n = s.link n := by
  unfold State.link
  rw [h]

@[simp] theorem State.closed_link (s t : State) (n : Nat) : (s.closed t).link n = t.link n :=
  State.link_of_links (congrArg Acq.links (State.closed_acq s t)) n

@[simp] theorem State.modLink_link_self (n : Nat) (f : Link → Link) (s : State) : (s.modLink n f).link n = f (s.link n) :=
  Table.get_put_self ..

theorem State.modLink_link_of_ne {n m : Nat} (f : Link → Link) (s : State) (other : m ≠ n) : (s.modLink n f).link m = s.link m :=
  Table.get_put_of_ne _ _ _ _ _ other

/-- Changing a link to what it is leaves every link. -/
theorem State.modLink_link_same {n : Nat} {f : Link → Link} {s : State} (same : f (s.link n) = s.link n) (m : Nat) :
    (s.modLink n f).link m = s.link m := by
  by_cases own : m = n
  · rw [own, State.modLink_link_self, same]
  · exact State.modLink_link_of_ne _ _ own

/-! ### A block (R140) -/

/-- Steps that leave the links, one after another, leave the links. -/
theorem State.foldl_links {α : Type} (f : State → α → State) (keeps : ∀ s a, (f s a).acq.links = s.acq.links) (as : List α) (s : State) :
    (as.foldl f s).acq.links = s.acq.links := by
  induction as generalizing s with
  | nil => rfl
  | cons a as ih => exact (ih _).trans (keeps s a)

theorem State.postIf_links (b : Bool) (e : Ev) (s : State) : (s.postIf b e).acq.links = s.acq.links := by
  unfold State.postIf
  split <;> rfl

/-- A sample that enters a chain leaves the links: its channel changes, and where an output begins to settle that is told. -/
theorem State.chainInput_links (ch : Nat) (b lb : Bytes) (k : Link) (w : U16) (ovr zero : Bool) (qz : Quality) (s : State) :
    (s.chainInput ch b lb k w ovr zero qz).acq.links = s.acq.links := by
  unfold State.chainInput
  dsimp only
  rw [apply_ite State.acq, apply_ite Acq.links, State.postIf_links]
  exact ite_self _

/-- One sample of a link moves on its count alone. -/
theorem State.linkSample_link (n : Nat) (lb : Bytes) (blk : JesdBlock) (zero : Bool) (qz : Quality) (s : State) (j : Nat) :
    (s.linkSample n lb blk zero qz j).link n = (s.link n).nextSample lb ∧
      ∀ m, m ≠ n → (s.linkSample n lb blk zero qz j).link m = s.link m := by
  have chains : ∀ m, ((s.linkChans n).foldl (fun v r => v.chainInput r.1 r.2 lb (s.link n) ((blk.samples.getD (r.2.u8 1) []).getD j 0)
      ((blk.overrange.getD (r.2.u8 1) []).getD j false) zero qz) s).link m = s.link m :=
    State.link_of_links (State.foldl_links _ (fun _ _ => State.chainInput_links ..) _ s)
  unfold State.linkSample
  dsimp only
  refine ⟨?_, fun m other => ?_⟩
  · rw [State.modLink_link_self, chains]
  · rw [State.modLink_link_of_ne _ _ other, chains]

/-- The samples of a block leave the state and the CRC count of its link, and the other links. -/
theorem State.foldl_linkSample_link (n : Nat) (lb : Bytes) (blk : JesdBlock) (zero : Bool) (qz : Quality) (js : List Nat) (s : State) :
    let t := js.foldl (State.linkSample n lb blk zero qz) s
    (t.link n).state = (s.link n).state ∧ (t.link n).crcErr = (s.link n).crcErr ∧ ∀ m, m ≠ n → t.link m = s.link m := by
  induction js generalizing s with
  | nil => exact ⟨rfl, rfl, fun _ _ => rfl⟩
  | cons j js ih =>
    obtain ⟨own, others⟩ := s.linkSample_link n lb blk zero qz j
    obtain ⟨state, crc, rest⟩ := ih (s.linkSample n lb blk zero qz j)
    rw [own] at state crc
    refine ⟨state.trans ?_, crc.trans ?_, fun m other => (rest m other).trans (others m other)⟩
    · unfold Link.nextSample
      dsimp only
      split <;> rfl
    · unfold Link.nextSample
      dsimp only
      split <;> rfl

/-- The chains of a link start to count their inputs, or stop (R149). -/
def State.countInputs (n : Nat) (from_ : Option Nat) (s : State) : State :=
  (s.linkChans n).foldl (fun s r => s.modChan r.1 fun c => { c with sinceData := from_ }) s

theorem State.countInputs_links (n : Nat) (from_ : Option Nat) (s : State) : (s.countInputs n from_).acq.links = s.acq.links :=
  State.foldl_links (fun s (r : Nat × Bytes) => s.modChan r.1 fun c => { c with sinceData := from_ }) (fun _ _ => rfl) _ s

/-- The chains of a link count their inputs from its entry to DATA, and not outside DATA. -/
def State.noteData (n : Nat) (entered inData : Bool) (s : State) : State :=
  let s := if entered then s.countInputs n (some 0) else s
  if !inData then s.countInputs n none else s

theorem State.noteData_links (n : Nat) (entered inData : Bool) (s : State) : (s.noteData n entered inData).acq.links = s.acq.links := by
  unfold State.noteData
  cases entered <;> cases inData
  · exact State.countInputs_links ..
  · rfl
  · exact (State.countInputs_links ..).trans (State.countInputs_links ..)
  · exact State.countInputs_links ..

/-- A CRC error is counted (R140). -/
def Link.crcFails (k : Link) : Link := { k with crcErr := satAdd 32 k.crcErr 1 }

/-- A block before its samples: the state machine of its link takes it, the chains note entry to DATA, and a CRC error in DATA is counted. -/
def State.takeBlock (n : Nat) (lb : Bytes) (blk : JesdBlock) (s : State) : State :=
  let after := (Link.block (lanesOf lb) blk (s.link n)).state
  let t := (s.modLink n (Link.block (lanesOf lb) blk)).noteData n (after == .data && (s.link n).state != .data) (after == .data)
  if after == .data && !blk.crcOk then t.modLink n Link.crcFails else t

theorem State.takeBlock_link (n : Nat) (lb : Bytes) (blk : JesdBlock) (s : State) :
    let k := Link.block (lanesOf lb) blk (s.link n)
    (s.takeBlock n lb blk).link n = (if k.state = .data ∧ blk.crcOk = false then k.crcFails else k) ∧
      ∀ m, m ≠ n → (s.takeBlock n lb blk).link m = s.link m := by
  intro k
  have noted (entered inData : Bool) (m : Nat) :=
    State.link_of_links ((s.modLink n (Link.block (lanesOf lb) blk)).noteData_links n entered inData) m
  have own : (s.modLink n (Link.block (lanesOf lb) blk)).link n = k := State.modLink_link_self ..
  have others (m : Nat) (other : m ≠ n) : (s.modLink n (Link.block (lanesOf lb) blk)).link m = s.link m := State.modLink_link_of_ne _ _ other
  unfold State.takeBlock
  by_cases fails : k.state = .data ∧ blk.crcOk = false
  · rw [if_pos fails]
    dsimp only
    rw [if_pos (by simpa using fails)]
    refine ⟨?_, fun m other => ?_⟩
    · rw [State.modLink_link_self, noted, own]
    · rw [State.modLink_link_of_ne _ _ other, noted, others m other]
  · rw [if_neg fails]
    dsimp only
    rw [if_neg (by simpa using fails)]
    exact ⟨(noted _ _ n).trans own, fun m other => (noted _ _ m).trans (others m other)⟩

section
variable {n : Nat} (blk : JesdBlock) {s : State}

/-- A link without a record, or off, takes no block. -/
theorem State.jesdBlock_off (off : s.rec? 0x401 n = none ∨ ∃ b, s.rec? 0x401 n = some b ∧ b.u8 0 = 0) : s.jesdBlock n blk = s := by
  unfold State.jesdBlock
  obtain absent | ⟨b, rec_, off⟩ := off
  · rw [absent]
  · rw [rec_]
    exact if_pos off

variable {lb : Bytes} (rec_ : s.rec? 0x401 n = some lb) (on : lb.u8 0 ≠ 0)
include rec_ on

/-- A link that is on takes a block, and the samples of the block enter the chains. -/
theorem State.jesdBlock_eq : ∃ zero qz, s.jesdBlock n blk =
    (List.range (blk.samples.headD []).length).foldl (State.linkSample n lb blk zero qz) (s.takeBlock n lb blk) := by
  have own := State.modLink_link_self n (Link.block (lanesOf lb) blk) s
  unfold State.jesdBlock State.takeBlock
  rw [rec_]
  dsimp only
  rw [if_neg on, own]
  exact ⟨_, _, rfl⟩

/-- A block moves the state of its link alone and counts there a CRC error in DATA (R140). -/
theorem State.jesdBlock_link :
    let k := Link.block (lanesOf lb) blk (s.link n)
    ((s.jesdBlock n blk).link n).state = k.state ∧ (∀ m, m ≠ n → (s.jesdBlock n blk).link m = s.link m) ∧
      ((s.jesdBlock n blk).link n).crcErr = if k.state = .data ∧ blk.crcOk = false then satAdd 32 k.crcErr 1 else k.crcErr := by
  intro k
  obtain ⟨zero, qz, block⟩ := State.jesdBlock_eq blk rec_ on
  obtain ⟨own, others⟩ := s.takeBlock_link n lb blk
  obtain ⟨state, crc, rest⟩ := State.foldl_linkSample_link n lb blk zero qz (List.range (blk.samples.headD []).length) (s.takeBlock n lb blk)
  rw [block]
  rw [own] at state crc
  refine ⟨state.trans ?_, fun m other => (rest m other).trans (others m other), crc.trans ?_⟩
  · split <;> rfl
  · split <;> rfl

end

/-! ### Edges of SYSREF (R142, R143) -/

section
variable {b : Bytes} {now : Fine} {k : Link} {e : Fine} (last : k.lastEdge = some e)
include last

/-- An edge of SYSREF leaves the state of its link. -/
theorem Link.edge_state : (Link.edge b now k).state = k.state := by
  unfold Link.edge
  rw [last]
  dsimp only
  split <;> rfl

/-- An edge within 2 ns of its instant is the new one, and SKEWCAL ends with the 16th in a row. -/
theorem Link.edge_inTime (inTime : ((now : Int) - (e + k.span16 b / 16 : Nat)).natAbs ≤ 2 * nsF) :
    (Link.edge b now k).lastEdge = some now ∧ (Link.edge b now k).goodEdges = k.goodEdges + 1 ∧
      (Link.edge b now k).sysrefErr = k.sysrefErr ∧ (Link.edge b now k).extrap = if 15 ≤ k.goodEdges then false else k.extrap := by
  unfold Link.edge
  rw [last]
  dsimp only
  rw [if_pos inTime]
  exact ⟨rfl, rfl, rfl, if_congr Nat.succ_le_succ_iff rfl rfl⟩

/-- An edge away from its instant counts in SYSREF_ERR, and SKEWCAL begins. -/
theorem Link.edge_away (away : 2 * nsF < ((now : Int) - (e + k.span16 b / 16 : Nat)).natAbs) :
    (Link.edge b now k).sysrefErr = satAdd 32 k.sysrefErr 1 ∧ (Link.edge b now k).goodEdges = 0 ∧ (Link.edge b now k).extrap = true := by
  unfold Link.edge
  rw [last]
  dsimp only
  rw [if_neg (Nat.not_le.mpr away)]
  exact ⟨rfl, rfl, rfl⟩

/-- Before 1.5 periods beyond its instant an edge is not missing. -/
theorem Link.edgeTimeout_early (early : now < e + k.span16 b / 16 + k.span16 b / 16 * 3 / 2) : Link.edgeTimeout b now k = k := by
  unfold Link.edgeTimeout
  rw [last]
  exact if_neg (Nat.not_le.mpr early)

/-- A missing edge counts in SYSREF_ERR, and the link extrapolates whole periods. -/
theorem Link.edgeTimeout_late (late : e + k.span16 b / 16 + k.span16 b / 16 * 3 / 2 ≤ now) :
    Link.edgeTimeout b now k = { k with
      edges := [], goodEdges := 0, extrap := true, sysrefErr := satAdd 32 k.sysrefErr 1
      lastEdge := some (e + (now - e) / (k.span16 b / 16) * (k.span16 b / 16)) } := by
  unfold Link.edgeTimeout
  rw [last]
  exact if_pos late

end

/-- SYSREF reaches the links one after another; those of other records are left. -/
theorem State.foldl_edge_other (rs : List (Nat × Bytes)) (s : State) {m : Nat} (other : m ∉ rs.map (·.1)) :
    (rs.foldl (fun s r => s.modLink r.1 (Link.edge r.2 s.now)) s).link m = s.link m := by
  induction rs generalizing s with
  | nil => rfl
  | cons r rs ih =>
    obtain ⟨head, tail⟩ := not_or.mp (mt List.mem_cons.mpr other)
    exact (ih _ tail).trans (State.modLink_link_of_ne _ _ head)

/-- With one record to each link, SYSREF reaches every link once. -/
theorem State.foldl_edge_link (rs : List (Nat × Bytes)) (s : State) (once : (rs.map (·.1)).Nodup) {r : Nat × Bytes} (mem : r ∈ rs) :
    (rs.foldl (fun s r => s.modLink r.1 (Link.edge r.2 s.now)) s).link r.1 = Link.edge r.2 s.now (s.link r.1) := by
  induction rs generalizing s with
  | nil => cases mem
  | cons q rs ih =>
    obtain ⟨alone, once⟩ := List.nodup_cons.mp once
    rw [List.foldl_cons]
    obtain rfl | mem := List.mem_cons.mp mem
    · rw [State.foldl_edge_other rs _ alone, State.modLink_link_self]
    · have other : r.1 ≠ q.1 := fun same => alone (List.mem_map.mpr ⟨r, mem, same⟩)
      rw [ih _ once mem, State.modLink_link_of_ne _ _ other]
      rfl

/-! ### A device and a block that meet what the statement asks -/

/-- An ADC_LINK record: on, one lane, four converters of 16 bits, 16,000,000 samples/s, a SYSREF period of 2,000 ns. -/
def adcRecord : Bytes := [1, 1, 4, 1, 16, 0, 1, 0] ++ leBytes 4 16000000 ++ leBytes 4 2000 ++ zeros 8

/-- A device with that link, at an instant. -/
def adcDevice (t : Fine) : State :=
  { part := { inReset := false, porLow := false }, cfg := [{ rtype := 0x401, obj := 0, body := adcRecord }]
    time := { domA := { count := t * 65536 } }
    acq := { links := [(0, { state := .data, lastEdge := some 0, goodEdges := 15 })] } }

/-- A block with a CRC error. -/
def adcHeard : JesdBlock :=
  { headersOk := [true, true, true, true], markers := [true, true, true, true], inverted := [false, false, false, false], crcOk := false
    samples := [[1], [2], [3], [4]], overrange := [[false], [false], [false], [false]] }

/-- The link stays in DATA at the block; an edge comes to its instant 2,000 ns after the last, or 3 ns late, and is missing after 5,000 ns. -/
theorem adcDevice_meets :
    let u (ns : Nat) := (adcDevice (ns * 65536)).arrived 0
    let k := (u 0).link 0
    let want := 0 + k.span16 adcRecord / 16
    (u 0).rec? 0x401 0 = some adcRecord ∧ adcRecord.u8 0 ≠ 0 ∧ (u 0).rec? 0x401 1 = none ∧ (((u 0).recs 0x401).map (·.1)).Nodup ∧
    (0, adcRecord) ∈ (u 0).recs 0x401 ∧ k.lastEdge = some 0 ∧ 15 ≤ k.goodEdges ∧
    (Link.block (lanesOf adcRecord) adcHeard k).state = .data ∧ adcHeard.crcOk = false ∧
    (((u 2000).now : Int) - want).natAbs ≤ 131072 ∧ 131072 < (((u 2003).now : Int) - want).natAbs ∧
    (u 2003).now < want + want * 3 / 2 ∧ want + want * 3 / 2 ≤ (u 5000).now := by decide

/-- Settles O54: a block does what `State.jesdBlock_link` says, and SYSREF what `Link.edge` and `Link.edgeTimeout` make of each link. -/
theorem adcLinks : Obligations.AdcLinks := by
  refine ⟨?link, ?sysref⟩
  case link =>
    intro dt i blk s u k stays
    refine ⟨fun off => goOn_of_eq (u.jesdBlock_off blk off), fun b rec_ on => ?block, fun absent => goOn_of_eq ?absent,
      fun b e rec_ last => ?timeout⟩
    case block =>
      obtain ⟨state, others, crc⟩ := State.jesdBlock_link blk rec_ on
      refine ⟨_, goOn_of_eq rfl, ?_⟩
      simp only [State.closed_link]
      exact ⟨state, others, crc⟩
    case absent =>
      unfold State.sysrefTimeout
      rw [absent]
    case timeout =>
      have acts : u.sysrefTimeout i.val = u.modLink i.val (Link.edgeTimeout b u.now) := by
        unfold State.sysrefTimeout
        rw [rec_]
      refine ⟨fun early => ⟨_, goOn_of_eq acts, fun m => ?_⟩, fun late => ⟨_, goOn_of_eq acts, ?_⟩⟩
      · rw [State.closed_link]
        exact State.modLink_link_same (Link.edgeTimeout_early last early) m
      · simp only [State.closed_link, State.modLink_link_self]
        have missing := Link.edgeTimeout_late last late
        rw [missing]
        exact ⟨rfl, rfl, rfl, rfl, fun m other => State.modLink_link_of_ne _ _ other⟩
  case sysref =>
    intro dt s u once
    refine ⟨_, goOn_of_eq rfl, fun m other => ?_, fun r mem e last => ?_⟩
    · rw [State.closed_link]
      refine State.foldl_edge_other _ u fun listed => ?_
      obtain ⟨r, mem, same⟩ := List.mem_map.mp listed
      exact other r mem same
    · have edge : u.sysref.link r.1 = Link.edge r.2 u.now (u.link r.1) := State.foldl_edge_link _ u once mem
      rw [State.closed_link, edge]
      exact ⟨Link.edge_state last, fun inTime => Link.edge_inTime last inTime, fun away => Link.edge_away last away⟩

end Sys2Proof.Machine
end

section
/-!
PROOF. The converter: what CONV_SETPOINT queues, latches and refuses (R286 to R289), when a set-point and a DEBLOCK take effect (R284 to
R286, R289), and what TRACE_CONFIGURE makes of the trace set (R293, R294).
-/
namespace Sys2Proof.Machine

/-! ### Converters -/

theorem State.cv_of_convs {s t : State} (h : t.conv.convs = s.conv.convs) (d : Nat) : t.cv d = s.cv d := by
  unfold State.cv
  rw [h]

@[simp] theorem State.modCv_cv_self (c : Nat) (f : Conv → Conv) (s : State) : (s.modCv c f).cv c = f (s.cv c) :=
  Table.get_put_self ..

theorem State.modCv_cv_of_ne {c d : Nat} (f : Conv → Conv) (s : State) (other : d ≠ c) : (s.modCv c f).cv d = s.cv d :=
  Table.get_put_of_ne _ _ _ _ _ other

@[simp] theorem State.post_cv (e : Ev) (s : State) (d : Nat) : (s.post e).cv d = s.cv d := rfl

theorem State.modCv_congr {c : Nat} {f g : Conv → Conv} {s : State} (h : f (s.cv c) = g (s.cv c)) : s.modCv c f = s.modCv c g := by
  unfold State.modCv
  rw [h]

/-- Two changes of a converter are one. -/
theorem State.modCv_modCv (c : Nat) (f g : Conv → Conv) (s : State) : (s.modCv c f).modCv c g = s.modCv c fun x => g (f x) := by
  unfold State.modCv
  simp only [State.cv, Table.get_put_self, Table.put_put]

@[simp] theorem State.closed_netOut_cv (s v : State) (d : Nat) : (s.closed v.netOut).cv d = v.cv d :=
  State.cv_of_convs (by rw [State.closed_conv, State.netOut_conv]) d

/-! ### CONV_SETPOINT as it is accepted (R286) -/

/-- The fields of CONV_SETPOINT in their order, each with what it must meet (R286). -/
def setpointChecks (rs : List Rec) (kind : Byte) (a : SetPointArgs) : Checks :=
  [(1, decide (kind.toNat ≤ 2)), (2, if kind = 0 then decide (a.qty.toNat ≤ 3) else a.qty.toNat == 0),
   (3, kind == 2 || decide (a.apply.toNat ≤ 2)),
   (4, if kind = 0 then Fp.isFinite a.value && Fp.le (Fp.abs a.value) (limitOf rs a.conv.toNat a.qty.toNat) else a.value == 0),
   (8, a.apply != 2 || kind == 2 || decide (a.event.toNat ≤ 31)), (9, a.rsv == 0), (0xC, fpNonNeg a.slope)]

/-- The first cycle of a length that starts after an instant, or at or after T_APPLY under APPLY 1. -/
def setpointInstant (a : SetPointArgs) (now : Fine) (len : Nat) : Fine :=
  let first := (now / (len * nsF) + 1) * (len * nsF)
  if a.apply = 1 then max first (ceilTo (len * nsF) (a.tApply.toNat * nsF)) else first

/-- The converter event that APPLY 2 waits for. -/
def setpointEvent (a : SetPointArgs) : Option Nat := if a.apply = 2 then some a.event.toNat else none

/-- The set-point that a command leaves waiting, with the slope of its quantity where it names none. -/
def setpointOf (a : SetPointArgs) (rs : List Rec) (now : Fine) (seq : Nat) : PendSet :=
  { qty := a.qty.toNat, target := a.value
    slope := if Fp.isZero a.slope then slopeOf rs a.conv.toNat a.qty.toNat else a.slope
    at_ := setpointInstant a now 50000, event := setpointEvent a, op := seq }

/-- The DEBLOCK that a command leaves waiting. -/
def deblockOf (a : SetPointArgs) (now : Fine) (seq : Nat) : PendSet :=
  { at_ := setpointInstant a now 160000, event := setpointEvent a, op := seq }

/-- A converter takes a set-point into its queue. -/
def Conv.queue (w : PendSet) (x : Conv) : Conv := { x with pend := x.pend ++ [w] }

/-- A converter takes a DEBLOCK, whose cycle before the boundary has yet to run. -/
def Conv.awaitDeblock (w : PendSet) (x : Conv) : Conv := { x with deblock := some w, released := false }

section
variable {a : SetPointArgs} (rs : List Rec) (rsv : a.rsv = 0) (slope : fpNonNeg a.slope = true)
include rsv slope

/-- BLOCK has no QTY and no VALUE, and no instant to check. -/
theorem setpointChecks_block (qty : a.qty.toNat = 0) (value : a.value = 0) : firstBad (setpointChecks rs 2 a) = none := by
  simp [firstBad, setpointChecks, qty, value, rsv, slope]

variable (apply : a.apply.toNat ≤ 2) (event : a.apply = 2 → a.event.toNat ≤ 31)
include apply event

/-- A known APPLY with a known EVENT leaves VALUE of a set-point to check. -/
theorem setpointChecks_set (qty : a.qty.toNat ≤ 3) : firstBad (setpointChecks rs 0 a) =
    if Fp.isFinite a.value && Fp.le (Fp.abs a.value) (limitOf rs a.conv.toNat a.qty.toNat) then none else some 4 := by
  split
  · next ok => simpa [firstBad, setpointChecks, qty, apply, ok, rsv, slope] using not_or_of_imp event
  · next beyond => simp [firstBad, setpointChecks, qty, apply, beyond]

theorem setpointChecks_deblock (qty : a.qty.toNat = 0) (value : a.value = 0) : firstBad (setpointChecks rs 1 a) = none := by
  simpa [firstBad, setpointChecks, qty, value, apply, rsv, slope] using not_or_of_imp event

end

section
variable {a : SetPointArgs} {b : Bytes} {s : State} (seq : Nat) (low : a.conv.toNat ≤ 1) (rec_ : s.cvRec a.conv.toNat = some b)
include low rec_

/-- The first field that does not meet its check is the answer. -/
theorem State.convSetpoint_refused {kind : Byte} {o : Nat} (bad : firstBad (setpointChecks s.cfg kind a) = some o) :
    s.convSetpoint seq kind a = (s, badAt o) := by
  unfold setpointChecks at bad
  unfold State.convSetpoint
  dsimp only
  rw [if_pos low, rec_]
  dsimp only
  rw [bad]

/-- What an accepted command does: BLOCK latches HOST, a DEBLOCK that follows no other waits where the conditions of R289 hold and answers
with the first that fails where one does not, and a set-point joins the queue. -/
theorem State.convSetpoint_accepted {kind : Byte} (good : firstBad (setpointChecks s.cfg kind a) = none)
    (first : kind = 1 → (s.cv a.conv.toNat).deblock = none) : s.convSetpoint seq kind a =
      if kind = 2 then (s.latch_ a.conv.toNat 1, .wait (.setpoint a.conv.toNat 8))
      else if kind = 1 then
        (s.deblockBad a.conv.toNat b).elim
          (s.modCv a.conv.toNat (Conv.awaitDeblock (deblockOf a s.now seq)), .wait (.deblock a.conv.toNat))
          fun e => (s, .done .noResource e.1 e.2 false [])
      else (s.modCv a.conv.toNat (Conv.queue (setpointOf a s.cfg s.now seq)), .wait (.setpoint a.conv.toNat a.qty.toNat)) := by
  unfold setpointChecks at good
  unfold State.convSetpoint
  dsimp only
  rw [if_pos low, rec_]
  dsimp only
  rw [good]
  dsimp only
  split
  · rfl
  · split
    · next deblock =>
      cases s.deblockBad a.conv.toNat b with
      | some e => rfl
      | none =>
        dsimp only
        rw [first deblock]
        rfl
    · rfl

end

/-! ### The block latch (R287, R288) -/

/-- Without a DEBLOCK that waits there is none to abandon. -/
theorem State.abandon_none {c : Nat} {s : State} (none_ : (s.cv c).deblock = none) (detail : Nat) (data : Bytes) :
    s.abandon c detail data = s := by
  unfold State.abandon
  rw [none_]

/-- A trace trigger touches the trace set alone. -/
theorem State.traceTrig_eq (kind arg : Nat) (s : State) : ∃ t, s.traceTrig kind arg = { s with conv := { s.conv with trace := t } } := by
  unfold State.traceTrig
  dsimp only
  split
  · exact ⟨_, rfl⟩
  · exact ⟨s.conv.trace, rfl⟩

/-- The latch takes causes that raise an alarm; `first` is the first basic cycle whose slot carries BLOCK. -/
def Conv.takeCauses (bits : BitVec 12) (first : Nat) (x : Conv) : Conv :=
  { x with st := { x.st with cause := x.st.cause ||| bits }, slotSince := some first, track := true, blockedAlarm := true }

section
variable {c : Nat} {bits : BitVec 12} {s : State} (rec_ : (s.cvRec c).isSome = true) (none_ : (s.cv c).deblock = none)
include rec_ none_

omit rec_ in
/-- Causes that the latch already holds change nothing. -/
theorem State.latch_old (old : bits &&& ~~~(s.cv c).st.cause = 0) : s.latch_ c bits = s := by
  unfold State.latch_
  dsimp only
  rw [State.abandon_none none_, if_pos old, ite_self]

/-- A new cause that raises an alarm goes into the latch of its converter, and touches no operation and no other converter. -/
theorem State.latch_new (new : bits &&& ~~~(s.cv c).st.cause &&& 0x7FF ≠ 0) :
    (s.latch_ c bits).gaf = s.gaf ∧
    (s.latch_ c bits).cv c = (s.cv c).takeCauses bits ((s.cv c).slotSince.getD (cycleNum s.cycle + 1)) ∧
    ∀ d, d ≠ c → (s.latch_ c bits).cv d = s.cv d := by
  have fresh : bits &&& ~~~(s.cv c).st.cause ≠ 0 := fun zero => new (by rw [zero]; rfl)
  have some_ : ¬ ((s.cvRec c).isNone || decide (bits = 0)) = true := by
    have set : bits ≠ 0 := fun zero => fresh (by rw [zero]; simp)
    simpa [Option.isNone_eq_false_iff.mpr rec_] using set
  obtain ⟨t, triggered⟩ : ∃ t, (if (s.cv c).latched then s else s.traceTrig 3 0) = { s with conv := { s.conv with trace := t } } := by
    split
    · exact ⟨s.conv.trace, rfl⟩
    · exact State.traceTrig_eq 3 0 s
  unfold State.latch_
  dsimp only
  rw [if_neg some_, State.abandon_none none_, if_neg fresh, if_neg new, triggered, State.modCv_modCv]
  refine ⟨rfl, ?_, fun d other => ?_⟩
  · rw [State.post_cv, State.modCv_cv_self]
    rfl
  · rw [State.post_cv, State.modCv_cv_of_ne _ _ other]
    rfl

end

/-- What HOST, which is bit 0, adds to a latch. -/
theorem one_and_not_eq (x : BitVec 12) : 1 &&& ~~~x = if x.getLsbD 0 then 0 else 1 := by
  have low : 1 &&& ~~~x = BitVec.setWidth 12 (BitVec.ofBool !x.getLsbD 0) :=
    (BitVec.and_comm ..).trans (BitVec.and_one_eq_setWidth_ofBool_getLsbD.trans (by rw [BitVec.getLsbD_not]; rfl))
  rw [low]
  cases x.getLsbD 0 <;> rfl

/-- HOST that a latch holds adds nothing to it. -/
theorem or_one_eq_self {x : BitVec 12} (set : x.getLsbD 0 = true) : x ||| 1 = x := by
  refine BitVec.eq_of_getLsbD_eq fun i hi => ?_
  obtain zero | pos := i.eq_zero_or_pos
  · subst zero
    simp [set]
  · simp [BitVec.getLsbD_one, pos.ne']

/-- BLOCK adds HOST to the causes of its converter, and a latch that did not hold it gives its first slot and its alarm (R287, R288). -/
theorem State.latch_host {c : Nat} {s : State} (rec_ : (s.cvRec c).isSome = true) (none_ : (s.cv c).deblock = none) :
    (s.latch_ c 1).gaf = s.gaf ∧ ((s.latch_ c 1).cv c).st.cause = (s.cv c).st.cause ||| 1 ∧
    (∀ d, d ≠ c → (s.latch_ c 1).cv d = s.cv d) ∧
    ((s.cv c).st.cause.getLsbD 0 = false →
      ((s.latch_ c 1).cv c).slotSince = some ((s.cv c).slotSince.getD (cycleNum s.cycle + 1)) ∧
      ((s.latch_ c 1).cv c).blockedAlarm = true) := by
  cases held : (s.cv c).st.cause.getLsbD 0 with
  | true =>
    rw [State.latch_old none_ (by rw [one_and_not_eq, held]; rfl)]
    exact ⟨rfl, (or_one_eq_self held).symm, fun _ _ => rfl, fun clear => nomatch clear⟩
  | false =>
    obtain ⟨gaf, own, others⟩ := State.latch_new (bits := 1) rec_ none_ (by rw [one_and_not_eq, held]; decide)
    rw [own]
    exact ⟨gaf, rfl, others, fun _ => ⟨rfl, rfl⟩⟩

/-- A device in service with converter 0 on, whose tracker is locked and whose limits are all 0. -/
def convDevice (x : Conv) : State :=
  { part := { inReset := false, porLow := false, bootStep := 3, pcieUp := true }, gaf := { mode := .service, fwReady := true, committed := 0xFFFF }
    cfg := [{ rtype := 0x701, obj := 0, body := 1 :: zeros 63 }], trk := [(0, { state := .locked })], conv := { convs := [(0, x)] } }

/-- It takes each KIND of CONV_SETPOINT: VALUE 0 is within LIMIT and 1 beyond it, and a DEBLOCK finds every condition of R289. -/
theorem convDevice_takes :
    let a (v : U32) : SetPointArgs := { conv := 0, qty := 0, apply := 0, value := v, event := 0, slope := 0, tApply := 0 }
    let h : CmdHead := { mb := 0, tag := 7 }
    let u := (convDevice { }).arrived 0
    u.takes h (.convSetpoint 0 (a 0)) = true ∧ u.takes h (.convSetpoint 1 (a 0)) = true ∧ u.takes h (.convSetpoint 2 (a 0)) = true ∧
    u.takes h (.convSetpoint 0 (a 0x3F800000)) = true ∧ u.cvRec 0 = some (1 :: zeros 63) ∧ fpNonNeg (a 0).slope = true ∧
    (Fp.isFinite 0 && Fp.le (Fp.abs 0) (limitOf u.cfg 0 0)) = true ∧
    (Fp.isFinite 0x3F800000 && Fp.le (Fp.abs 0x3F800000) (limitOf u.cfg 0 0)) = false ∧
    (u.cv 0).deblock = none ∧ u.deblockBad 0 (1 :: zeros 63) = none ∧
    ((convDevice { measBad := 2 }).arrived 0).deblockBad 0 (1 :: zeros 63) ≠ none ∧ (u.cv 0).st.cause.getLsbD 0 = false := by decide

/-- Settles O35: the checks of each KIND, then the queue, the latch or the DEBLOCK that waits. Where a quantity has no CONV_RAMP record its
LIMIT is the model's choice (log entry 61). -/
theorem setPointCommands : Obligations.SetPointCommands := by
  intro dt h a rec s k u c q x at_ ev okVal low rec_ rsv slope
  have refused := State.convSetpoint_refused (kind := 0) (o := 4) (s := u.begun h (k 0)) u.gaf.opSeq low rec_
  have accepted (n : Byte) := State.convSetpoint_accepted (kind := n) (s := u.begun h (k n)) u.gaf.opSeq low rec_
  refine ⟨fun takes known apply event => ⟨fun ok => ?queued, fun bad => ?beyond⟩, fun zeroQ zeroV => ⟨fun takes none_ => ?block,
    fun takes apply event none_ => ⟨fun holds => ?deblock, fun d data bad => ?fails⟩⟩⟩
  case queued =>
    have good := (setpointChecks_set u.cfg rsv slope apply event known).trans (if_pos ok)
    exact State.goOn_waits dt h (k 0) s _ _ takes (accepted 0 good (absurd · (by decide))) Wait.noConfusion rfl
  case beyond =>
    have value := (setpointChecks_set u.cfg rsv slope apply event known).trans (if_neg (Bool.eq_false_iff.mp bad))
    exact State.goOn_endsNot dt h (k 0) s _ _ takes (refused value)
  case block =>
    have good := setpointChecks_block u.cfg rsv slope zeroQ zeroV
    obtain ⟨gaf, cause, others, first⟩ := State.latch_host (s := u.begun h (k 2)) (c := c) (Option.isSome_of_eq_some rec_) none_
    exact ⟨_, State.goOn_waits dt h (k 2) s _ (fun _ => (u.begun h (k 2)).latch_ c 1) takes
      (accepted 2 good (absurd · (by decide))) Wait.noConfusion (congrArg Gaffer.ops gaf), cause, others, first⟩
  case deblock =>
    have good := setpointChecks_deblock u.cfg rsv slope apply event zeroQ zeroV
    have waits := accepted 1 good fun _ => none_
    rw [show (u.begun h (k 1)).deblockBad a.conv.toNat rec = none from holds] at waits
    exact State.goOn_waits dt h (k 1) s _ _ takes waits Wait.noConfusion rfl
  case fails =>
    have good := setpointChecks_deblock u.cfg rsv slope apply event zeroQ zeroV
    have fails := accepted 1 good fun _ => none_
    rw [show (u.begun h (k 1)).deblockBad a.conv.toNat rec = some (d, data) from bad] at fails
    exact State.goOn_ends dt h (k 1) s _ _ _ _ _ (fun b => b) takes fails rfl

/-! ### Set-points and DEBLOCK take effect (R284, R285, R289) -/

/-- While the converter is blocked a set-point is held as the target of its quantity (R285). -/
def Conv.hold (q : Nat) (w : PendSet) (x : Conv) : Conv :=
  { x with st := { x.st with ramps := x.st.ramps.modify { } q fun r => { r with held := true, target := w.target, slope := w.slope } } }

theorem Conv.hold_ramp (q : Nat) (w : PendSet) (x : Conv) :
    ((x.hold q w).st.ramps.get { } q).held = true ∧ ((x.hold q w).st.ramps.get { } q).target = w.target ∧
    ((x.hold q w).st.ramps.get { } q).ref = (x.st.ramps.get { } q).ref := by
  have own : (x.hold q w).st.ramps.get { } q =
      { x.st.ramps.get { } q with held := true, target := w.target, slope := w.slope } := Table.get_put_self ..
  rw [own]
  exact ⟨rfl, rfl, rfl⟩

/-- The ramp of a set-point starts from a measured mean, and nothing waits any more (R284). -/
def Conv.ramp (q : Nat) (w : PendSet) (r0 : Fp) (x : Conv) : Conv :=
  { x with
    st := { x.st with ramps := x.st.ramps.put q { active := true, ref := r0, target := w.target, slope := w.slope } }
    fresh := q :: x.fresh, pend := [] }

section
variable {c q : Nat} {t : Fine} {b : Bytes} {w : PendSet} {s : State} (rec_ : s.cvRec c = some b) (pend : (s.cv c).pend = [w])
  (qty : w.qty = q) (event : w.event = none) (due : w.at_ ≤ t)
include rec_ pend qty event due

/-- The one set-point that waits, and whose outer cycle has come, supersedes none: it is held, or its ramp starts and its command ends. -/
theorem State.setpointDue_one : s.setpointDue c q t =
    if (s.cv c).latched || decide (t < (s.cv c).openAt) then s.modCv c (Conv.hold q w)
    else (s.modCv c (Conv.ramp q w ((s.cv c).mean (convPar b) q))).finishOp w.op .ok 0
      (setpointData t false ((s.cv c).mean (convPar b) q).toNat
        (rampCycles w.target ((s.cv c).mean (convPar b) q) w.slope)) := by
  have first : ([w] : List PendSet).takeWhile (fun e => e.op != w.op) = [] := List.takeWhile_cons_of_neg (by simp)
  unfold State.setpointDue
  dsimp only
  rw [rec_]
  dsimp only
  rw [pend, List.filter_cons_of_pos (by simp [qty]), List.filter_nil, List.filter_cons_of_pos (by simp [event, due]), List.filter_nil]
  dsimp only [List.getLast?_singleton]
  rw [first]
  dsimp only [List.foldl_nil, State.startRamp]
  rw [State.modCv_modCv, State.modCv_modCv, State.modCv_modCv]
  refine congrArg₂ (ite _) (State.modCv_congr ?_) (congrArg (State.finishOp _ _ _ _ _ _) (State.modCv_congr ?_))
  · simp [Conv.hold]
  · simp [Conv.ramp, pend]

end

/-- A converter after its DEBLOCK: the latch is clear from the boundary on. -/
def Conv.deblocked (t : Fine) (x : Conv) : Conv :=
  { x with st := { x.st with cause := 0 }, deblock := none, released := false, slotSince := none, openAt := t, blockedAlarm := false }

@[simp] theorem State.postIf_gaf (b : Bool) (e : Ev) (s : State) : (s.postIf b e).gaf = s.gaf := by
  cases b <;> rfl

/-- A released DEBLOCK whose boundary has come clears the latch, ends the alarm if there is one, and completes (R289). -/
theorem State.deblockEffect_due {c : Nat} {d : PendSet} {s : State} (some_ : (s.cv c).deblock = some d) (released : (s.cv c).released = true)
    (event : d.event = none) (due : d.at_ ≤ s.now) : s.deblockEffect c =
      ((s.modCv c (Conv.deblocked d.at_)).postIf (s.cv c).blockedAlarm
        (mkEv 0x16 c d.at_ [(4, 0), (4, (cycleOf d.at_).2)] true)).finishOp d.op .ok 0 (setpointData d.at_ false 0 0) := by
  unfold State.deblockEffect
  dsimp only
  rw [some_]
  dsimp only
  rw [released, event, decide_eq_true due]
  rfl

/-- Where the one operation in flight ends, what follows is what it drove out. -/
theorem State.settleOut_finishOp (o : Op) (r : Result) (d : Nat) (data : Bytes) (v : State) (ops : v.gaf.ops = [o]) (out : o.outcome = none) :
    (v.finishOp o.seq r d data).settleOut = (v.finished o r d data false []).netOut := by
  rw [State.finishOp_one o r d data v ops out]
  exact State.settleOut_idle _ (State.finished_idle ..)

/-- A device with one set-point or DEBLOCK in flight on its converter. -/
def convWaits (o : Op) (x : Conv) : State := { convDevice x with gaf := { (convDevice x).gaf with ops := [o] } }

/-- Its set-point is due and free to start, or due and held while the converter is blocked by INIT; its DEBLOCK is released and due. -/
theorem convWaits_due :
    let w : PendSet := { op := 3 }
    let h : CmdHead := { mb := 0, tag := 7 }
    let o (z : Wait) : Op := { seq := 3, h, cmd := .statusGet, wait := z, started := true }
    let set_ (cause : BitVec 12) := (convWaits (o (.setpoint 0 0)) { pend := [w], st := { cause } }).arrived 0
    let free_ := (convWaits (o (.deblock 0)) { deblock := some w, released := true }).arrived 0
    (set_ 0).part.inReset = false ∧ (set_ 0).gaf.ops = [o (.setpoint 0 0)] ∧ ((set_ 0).cv 0).pend = [w] ∧
    (set_ 0).cvRec 0 = some (1 :: zeros 63) ∧ w.at_ ≤ outerStart (set_ 0).now ∧ ((set_ 0).cv 0).st.cause = 0 ∧
    ((set_ 0).cv 0).openAt ≤ outerStart (set_ 0).now ∧ ((set_ 0x800).cv 0).st.cause ≠ 0 ∧
    (free_.cv 0).deblock = some w ∧ (free_.cv 0).released = true ∧ w.at_ ≤ free_.now := by decide

/-- Settles O36: one set-point or DEBLOCK is in flight, and what follows its end is what it drove out. -/
theorem setPointsTakeEffect : Obligations.SetPointsTakeEffect := by
  refine ⟨?setpoint, ?deblock⟩
  case setpoint =>
    intro dt c q o w rec s u x t r0 run ops out started wait rec_ pend qty op event due
    have acts := State.setpointDue_one rec_ pend qty event due
    refine ⟨fun clear opened => goOn_outOfReset run ?starts, fun latched => ?held⟩
    case starts =>
      have free : ¬ (x.latched || decide (t < x.openAt)) = true := by
        simp [Conv.latched, clear, opened]
      rw [acts, if_neg free, op]
      exact State.settleOut_finishOp o _ _ _ (u.modCv c.val (Conv.ramp q w r0)) ops out
    case held =>
      have latch : (x.latched || decide (t < x.openAt)) = true := Bool.or_eq_true_iff.mpr (.inl (bne_iff_ne.mpr latched))
      have ends : (u.setpointDue c.val q.val t).settleOut = (u.modCv c.val (Conv.hold q w)).netOut := by
        rw [acts, if_pos latch]
        exact State.settleOut_started o _ ops started (by rw [wait]; exact Wait.noConfusion)
      refine ⟨_, goOn_outOfReset run ends, ?_, ?_⟩
      · rw [State.closed_gaf_ops, State.netOut_gaf]
        exact ops
      · rw [State.closed_netOut_cv, State.modCv_cv_self]
        exact Conv.hold_ramp q w x
  case deblock =>
    intro dt c o d s u x run ops out some_ released event due op
    refine goOn_outOfReset run ?_
    rw [State.deblockEffect_due some_ released event due, op]
    exact State.settleOut_finishOp o _ _ _ _ ((congrArg Gaffer.ops (State.postIf_gaf ..)).trans ops) out

/-! ### The trace set (R293, R294) -/

/-- TRIG_ARG in its range for the trigger (R293). -/
def traceArgOk (a : TraceArgs) : Bool :=
  if a.trig = 1 || a.trig = 2 then decide (a.trigArg < a.nCh) else if a.trig = 4 then decide (a.trigArg.toNat < 32)
  else if a.trig = 5 then decide (a.trigArg.toNat < 8) else a.trigArg == 0

/-- The fields of TRACE_CONFIGURE in their order, each with what it must meet (R293). -/
def traceChecks (rs : List Rec) (op : Byte) (a : TraceArgs) : Checks :=
  let arm := op = 1
  [(0, within 1 3 op.toNat), (1, if arm then within 1 16 a.nCh.toNat else a.nCh == 0), (4, !arm || decide (a.pre.toNat ≤ 65535)),
    (8, !arm || within 1 5 a.trig.toNat), (9, !arm || traceArgOk a), (0xA, a.rsv == 0),
    (0xC, !arm || !(a.trig = 1 || a.trig = 2) || Fp.isFinite a.thresh)] ++
  if arm then a.nodes.zipIdx.map fun e => (0x10 + 4 * e.2, nodeOk rs e.1) else []

/-- What DISARM and FORCE leave to check: that no channel is named. -/
theorem traceChecks_other (rs : List Rec) {op : Byte} {a : TraceArgs} (known : op = 2 ∨ op = 3) (rsv : a.rsv = 0) (nCh : a.nCh = 0) :
    firstBad (traceChecks rs op a) = none := by
  obtain rfl | rfl := known <;> simp [firstBad, traceChecks, within, rsv, nCh]

/-- TRIG_ARG and THRESH fit the trigger (R293). -/
def TriggerFits (a : TraceArgs) : Prop :=
  ((a.trig = 1 ∨ a.trig = 2) ∧ a.trigArg < a.nCh ∧ Fp.isFinite a.thresh = true) ∨ (a.trig = 3 ∧ a.trigArg = 0) ∨
    (a.trig = 4 ∧ a.trigArg.toNat < 32) ∨ (a.trig = 5 ∧ a.trigArg.toNat < 8)

/-- A trigger that fits passes its three checks. -/
theorem TriggerFits.passes {a : TraceArgs} (fits : TriggerFits a) : within 1 5 a.trig.toNat = true ∧ traceArgOk a = true ∧
    ((¬ a.trig = 1 ∧ ¬ a.trig = 2) ∨ Fp.isFinite a.thresh = true) := by
  unfold traceArgOk
  obtain ⟨level, arg, finite⟩ | ⟨trig, arg⟩ | ⟨trig, arg⟩ | ⟨trig, arg⟩ := fits
  · obtain one | two := level
    · rw [one]
      exact ⟨rfl, decide_eq_true arg, .inr finite⟩
    · rw [two]
      exact ⟨rfl, decide_eq_true arg, .inr finite⟩
  · rw [trig, arg]
    exact ⟨rfl, rfl, .inl (by decide)⟩
  · rw [trig]
    exact ⟨rfl, decide_eq_true arg, .inl (by decide)⟩
  · rw [trig]
    exact ⟨rfl, decide_eq_true arg, .inl (by decide)⟩

theorem traceChecks_arm (rs : List Rec) {a : TraceArgs} (rsv : a.rsv = 0) (least : 1 ≤ a.nCh.toNat) (most : a.nCh.toNat ≤ 16)
    (pre : a.pre.toNat ≤ 65535) (fits : TriggerFits a) (nodes : ∀ n ∈ a.nodes, nodeOk rs n = true) :
    firstBad (traceChecks rs 1 a) = none := by
  obtain ⟨trig, arg, thresh⟩ := fits.passes
  have count : within 1 16 a.nCh.toNat = true := decide_eq_true ⟨least, most⟩
  simpa [firstBad, traceChecks, count, pre, trig, arg, rsv, show within 1 3 1 = true from rfl] using
    ⟨thresh, fun _ n _ mem _ => nodes n (List.fst_mem_of_mem_zipIdx mem)⟩

section
variable {mb : Nat} {a : TraceArgs} {s : State}

/-- A set that is not idle takes no ARM, whatever its fields say. -/
theorem State.traceConfigure_busy (armed : s.conv.trace.state ≠ .idle) : s.traceConfigure mb 1 a = (s, busy s.conv.trace.owner) :=
  if_pos (by simpa using armed)

/-- DISARM ends a set that is armed or fills. -/
def Trace.disarm (t : Trace) : Trace := if t.state = .armed ∨ t.state = .post then { t with state := .idle, stopped := false } else t

/-- FORCE triggers an armed set. -/
def Trace.force (t : Trace) : Trace := if t.state = .armed then { t with fired := true } else t

/-- A command whose fields are right touches the trace set alone. -/
theorem State.traceConfigure_accepted {op : Byte} (idle : op = 1 → s.conv.trace.state = .idle) (good : firstBad (traceChecks s.cfg op a) = none) :
    s.traceConfigure mb op a = (s.modTrace fun t =>
      if op = 1 then { state := .armed, args := some a, owner := mb, armedAt := cycleNum s.cycle }
      else if op = 2 then t.disarm else t.force, okNone) := by
  have free : ¬ (decide (op = 1) && s.conv.trace.state != .idle) = true := by simpa using idle
  unfold traceChecks traceArgOk at good
  unfold State.traceConfigure
  dsimp only at good ⊢
  rw [if_neg free, good]
  dsimp only
  split
  · rfl
  · split
    · simp [State.modTrace, Trace.disarm]
    · simp [State.modTrace, Trace.force]

end

/-- A device whose trace set is in a state. -/
def traceDevice (t : TraceState) : State := { convDevice { } with conv := { convs := [(0, { })], trace := { state := t } } }

/-- It takes ARM with a level trigger while its set is idle, and every operation while it is armed or held. -/
theorem traceDevice_takes :
    let a : TraceArgs := { nCh := 1, div := 1, pre := 65535, trig := 1, trigArg := 0, thresh := 0, nodes := [0x01000000] }
    let none_ : TraceArgs := { a with nCh := 0, nodes := [] }
    let h : CmdHead := { mb := 0, tag := 7 }
    let u (t : TraceState) := (traceDevice t).arrived 0
    (u .idle).takes h (.traceConfigure 1 a) = true ∧ (u .held).takes h (.traceConfigure 1 a) = true ∧
    (u .armed).takes h (.traceConfigure 2 none_) = true ∧ (u .armed).takes h (.traceConfigure 3 none_) = true ∧
    (u .idle).conv.trace.state = .idle ∧ (u .armed).conv.trace.state = .armed ∧ (u .held).conv.trace.state ≠ .idle ∧
    ((a.trig = 1 ∨ a.trig = 2) ∧ a.trigArg < a.nCh ∧ Fp.isFinite a.thresh = true) ∧
    nodeOk (u .idle).cfg 0x01000000 = true := by decide

/-- Settles O37: ARM is refused by a set that is not idle, and the other operations act on the trace set alone. -/
theorem traceCommands : Obligations.TraceCommands := by
  intro dt h a s k u t put rsv
  have accepted (n : Byte) := State.traceConfigure_accepted (mb := h.mb.val) (a := a) (op := n) (s := u.begun h (k n))
  refine ⟨fun takes armed => ?busy, fun takes idle least most pre fits nodes => ?arms, fun none_ takes => ?disarms, fun none_ takes => ?forces⟩
  case busy =>
    exact State.goOn_endsNot dt h (k 1) s _ _ takes (State.traceConfigure_busy armed)
  case arms =>
    have good := traceChecks_arm u.cfg rsv least most pre fits nodes
    exact State.goOn_ends dt h (k 1) s _ _ _ _ _ _ takes (accepted 1 (fun _ => idle) good) rfl
  case disarms =>
    have good := traceChecks_other u.cfg (.inl rfl) rsv none_
    exact State.goOn_ends dt h (k 2) s _ _ _ _ _ (put t.disarm) takes (accepted 2 (absurd · (by decide)) good) rfl
  case forces =>
    have good := traceChecks_other u.cfg (.inr rfl) rsv none_
    exact State.goOn_ends dt h (k 3) s _ _ _ _ _ (put t.force) takes (accepted 3 (absurd · (by decide)) good) rfl

end Sys2Proof.Machine
end

section
/-!
PROOF. The commands of the valve fabric: what changes lanes and nothing else, and what VALVE_SLEEP (R328) and VALVE_WAKE (R329) make of
the lanes they name.
-/
namespace Sys2Proof.Machine

/-! ### Changing lanes -/

@[simp] theorem State.modLane_lane_self (n : Nat) (f : Lane → Lane) (s : State) : (s.modLane n f).lane n = f (s.lane n) :=
  Table.get_put_self ..

theorem State.modLane_lane_of_ne {n m : Nat} (f : Lane → Lane) (s : State) (other : m ≠ n) : (s.modLane n f).lane m = s.lane m :=
  Table.get_put_of_ne _ _ _ _ _ other

/-- Between two states the lanes of a list may have changed, and nothing else. -/
def LanesOnly (ns : List Nat) (s t : State) : Prop :=
  t = { s with valve := { s.valve with lanes := t.valve.lanes } } ∧ ∀ m, m ∉ ns → t.lane m = s.lane m

theorem LanesOnly.refl (ns : List Nat) (s : State) : LanesOnly ns s s := ⟨rfl, fun _ _ => rfl⟩

theorem LanesOnly.append {ms ns : List Nat} {s t u : State} (h : LanesOnly ms s t) (k : LanesOnly ns t u) : LanesOnly (ms ++ ns) s u := by
  obtain ⟨frame, others⟩ := h
  obtain ⟨frame', others'⟩ := k
  refine ⟨by rw [frame', frame], fun m out => ?_⟩
  rw [List.mem_append, not_or] at out
  exact (others' m out.2).trans (others m out.1)

theorem State.modLane_lanesOnly (n : Nat) (f : Lane → Lane) (s : State) : LanesOnly [n] s (s.modLane n f) :=
  ⟨rfl, fun _ out => s.modLane_lane_of_ne f (List.ne_of_not_mem_cons out)⟩

section
variable {ns : List Nat} {s t : State} (h : LanesOnly ns s t)
include h

theorem LanesOnly.gaf : t.gaf = s.gaf := by rw [h.1]

theorem LanesOnly.now : t.now = s.now := by
  rw [h.1]
  rfl

/-- The record of a lane does not stand in the lane. -/
theorem LanesOnly.laneRec (n : Nat) : t.laneRec n = s.laneRec n := by
  rw [h.1]
  rfl

end

/-- Changing the lanes of a list one by one changes them alone, and each as it is changed in a state that has the lane as it was. -/
theorem State.foldl_lanesOnly {f : State → Nat → State} (one : ∀ s n, LanesOnly [n] s (f s n)) (ns : List Nat) (once : ns.Nodup) (s : State) :
    LanesOnly ns s (ns.foldl f s) ∧
    ∀ n ∈ ns, ∃ ms t, LanesOnly ms s t ∧ t.lane n = s.lane n ∧ (ns.foldl f s).lane n = (f t n).lane n := by
  induction ns generalizing s with
  | nil => exact ⟨LanesOnly.refl [] s, fun _ mem => nomatch mem⟩
  | cons k ns ih =>
    obtain ⟨first, rest⟩ := List.nodup_cons.mp once
    have step := one s k
    obtain ⟨frame, each⟩ := ih rest (f s k)
    refine ⟨step.append frame, fun n mem => ?_⟩
    obtain rfl | later := List.mem_cons.mp mem
    · exact ⟨[], s, LanesOnly.refl [] s, rfl, frame.2 n first⟩
    · obtain ⟨ms, t, before, same, does⟩ := each n later
      have other : n ∉ [k] := fun is_ => first (List.mem_singleton.mp is_ ▸ later)
      exact ⟨[k] ++ ms, t, step.append before, same.trans (step.2 n other), does⟩

/-! ### The lanes that a command names -/

/-- The lanes that a mask names. -/
def namedLanes (lanes : U32) : List Nat := (List.range 24).filter (bitOf lanes.toNat)

@[simp] theorem mem_namedLanes {lanes : U32} {n : Nat} : n ∈ namedLanes lanes ↔ n < 24 ∧ bitOf lanes.toNat n = true := by
  simp [namedLanes]

theorem namedLanes_nodup (lanes : U32) : (namedLanes lanes).Nodup := List.nodup_range.filter _

section
variable {lanes : U32} {s : State}

theorem State.lanesBad_iff : s.lanesBad lanes = true ↔ ∃ n, n < 32 ∧ bitOf lanes.toNat n = true ∧ (s.laneRec n).any sleepEn = false := by
  simp [State.lanesBad]

theorem State.lanesBad_of_all (able : ∀ n, n < 32 → bitOf lanes.toNat n = true → (s.laneRec n).any sleepEn = true) :
    s.lanesBad lanes = false := by
  refine Bool.eq_false_iff.mpr fun bad => ?_
  obtain ⟨n, low, named, unable⟩ := State.lanesBad_iff.mp bad
  exact Bool.false_ne_true (unable.symm.trans (able n low named))

/-! ### VALVE_SLEEP (R328) -/

/-- A lane is to be released at the next matrix boundary. -/
def Lane.sleeps (x : Lane) : Lane := { x with pendRelease := true }

/-- A converter on a named lane runs. -/
def State.convRuns (lanes : U32) (s : State) : Bool := (namedLanes lanes).any fun n => (s.laneConvs n).any fun c => !(s.cv c).latched

theorem State.convRuns_iff : s.convRuns lanes = true ↔
    ∃ n c, n < 24 ∧ bitOf lanes.toNat n = true ∧ c ∈ s.laneConvs n ∧ (s.cv c).latched = false := by
  simp [State.convRuns, and_assoc]

/-- The named lanes are to be released. -/
def State.sleepLanes (lanes : U32) (s : State) : State := (namedLanes lanes).foldl (fun s n => s.modLane n Lane.sleeps) s

theorem State.sleepLanes_lanesOnly : LanesOnly (namedLanes lanes) s (s.sleepLanes lanes) :=
  (State.foldl_lanesOnly (fun s n => s.modLane_lanesOnly n _) _ (namedLanes_nodup lanes) s).1

theorem State.sleepLanes_lane (n : Nat) : (s.sleepLanes lanes).lane n =
    if n < 24 ∧ bitOf lanes.toNat n = true then (s.lane n).sleeps else s.lane n := by
  obtain ⟨⟨-, others⟩, each⟩ := State.foldl_lanesOnly (fun s n => s.modLane_lanesOnly n Lane.sleeps) _ (namedLanes_nodup lanes) s
  split
  · next named =>
    obtain ⟨_, t, -, same, does⟩ := each n (mem_namedLanes.mpr named)
    exact does.trans ((t.modLane_lane_self n _).trans (congrArg Lane.sleeps same))
  · next other => exact others n (mt mem_namedLanes.mp other)

theorem State.valveSleep_unable (rsv : U32) (bad : s.lanesBad lanes = true) : s.valveSleep lanes rsv = (s, badAt 0) := if_pos bad

/-- Where every named lane can sleep, what decides is whether a converter on them runs. -/
theorem State.valveSleep_able (able : s.lanesBad lanes = false) : s.valveSleep lanes 0 =
    if s.convRuns lanes then (s, noRes 0x0801) else (s.sleepLanes lanes, .wait (.valve false lanes.toNat)) := by
  unfold State.valveSleep
  rw [if_neg (Bool.eq_false_iff.mp able), if_neg (not_not_intro rfl)]
  rfl

/-! ### VALVE_WAKE (R329) -/

theorem Lane.wakeUp_state (t : Fine) (x : Lane) : (x.wakeUp t).state ≠ .asleep := by
  unfold Lane.wakeUp
  split
  · exact LaneState.noConfusion
  · exact LaneState.noConfusion
  · next not_ _ => exact not_

/-- A lane has been given a selection at an instant: it is not released nor to be, does not sleep, and repeats the WAKE until its
time-out. -/
def Lane.Woken (b : Bytes) (w : U16 × U16 × U32 × U32) (t : Fine) (x : Lane) : Prop :=
  x.released = false ∧ x.pendRelease = false ∧ x.wake = some w ∧ x.wakeUntil = t + wakeTimeout b ∧ x.state ≠ .asleep

theorem State.wakeLane_lanesOnly (n : Nat) (b : Bytes) (w : U16 × U16 × U32 × U32) (s : State) : LanesOnly [n] s (s.wakeLane n b w) := by
  unfold State.wakeLane
  exact s.modLane_lanesOnly n _

/-- Which hubs are selected depends on the WAKE and the lane before; that the lane is woken does not. -/
theorem State.wakeLane_woken (n : Nat) (b : Bytes) (w : U16 × U16 × U32 × U32) (s : State) : ((s.wakeLane n b w).lane n).Woken b w s.now := by
  have awake := Lane.wakeUp_state s.now (s.lane n)
  unfold State.wakeLane
  dsimp only
  rw [State.modLane_lane_self]
  split
  · exact ⟨rfl, rfl, rfl, rfl, awake⟩
  · exact ⟨rfl, rfl, rfl, rfl, awake⟩

/-- A lane takes a WAKE where it is on. -/
def State.wakeIfOn (w : U16 × U16 × U32 × U32) (s : State) (n : Nat) : State :=
  match s.laneRec n with
  | some b => s.wakeLane n b w
  | none => s

variable {w : U16 × U16 × U32 × U32}

theorem State.wakeIfOn_on {n : Nat} {b : Bytes} (on : s.laneRec n = some b) : s.wakeIfOn w n = s.wakeLane n b w := by
  unfold State.wakeIfOn
  rw [on]

theorem State.wakeIfOn_lanesOnly (s : State) (n : Nat) : LanesOnly [n] s (s.wakeIfOn w n) := by
  unfold State.wakeIfOn
  split
  · exact s.wakeLane_lanesOnly ..
  · exact LanesOnly.refl [n] s

/-- The named lanes take a WAKE. -/
def State.wakeLanes (lanes : U32) (w : U16 × U16 × U32 × U32) (s : State) : State := (namedLanes lanes).foldl (State.wakeIfOn w) s

theorem State.wakeLanes_lanesOnly : LanesOnly (namedLanes lanes) s (s.wakeLanes lanes w) :=
  (State.foldl_lanesOnly State.wakeIfOn_lanesOnly _ (namedLanes_nodup lanes) s).1

/-- A named lane that is on is woken, whatever was done to the lanes before it. -/
theorem State.wakeLanes_woken {n : Nat} {b : Bytes} (named : n ∈ namedLanes lanes) (on : s.laneRec n = some b) :
    ((s.wakeLanes lanes w).lane n).Woken b w s.now := by
  obtain ⟨-, each⟩ := State.foldl_lanesOnly (State.wakeIfOn_lanesOnly (w := w)) _ (namedLanes_nodup lanes) s
  obtain ⟨ms, t, before, -, does⟩ := each n named
  have woken := t.wakeLane_woken n b w
  rw [before.now, ← State.wakeIfOn_on ((before.laneRec n).trans on), ← does] at woken
  exact woken

theorem State.valveWake_unable (bad : s.lanesBad lanes = true) : s.valveWake lanes w = (s, badAt 0) := if_pos bad

theorem State.valveWake_able (able : s.lanesBad lanes = false) :
    s.valveWake lanes w = (s.wakeLanes lanes w, .wait (.valve true lanes.toNat)) := if_neg (Bool.eq_false_iff.mp able)

end

/-- A device in service whose lane 0 is on and has SLEEP_EN set, with a hub of converter 0 on it. -/
def laneDevice (x : Conv) : State :=
  { convDevice x with cfg := (convDevice x).cfg ++ [{ rtype := 0x702, obj := 0, body := [1, 0, 0, 0, 0, 0, 4, 0] },
      { rtype := 0x801, obj := 0, body := 1 :: zeros 23 ++ 1 :: zeros 35 }] }

/-- It takes both commands, for lane 0 and for lane 1, while its converter runs and while it is blocked. -/
theorem laneDevice_takes :
    let h : CmdHead := { mb := 0, tag := 7 }
    let u (cause : BitVec 12) := (laneDevice { st := { cause } }).arrived 0
    (u 0).takes h (.valveSleep 1 0) = true ∧ (u 1).takes h (.valveSleep 1 0) = true ∧ (u 1).takes h (.valveSleep 2 0) = true ∧
    (u 1).takes h (.valveWake 1 0 0 0 0) = true ∧ (u 1).takes h (.valveWake 2 0 0 0 0) = true := by decide

/-- Its lane 0 can sleep, with converter 0 on it running or blocked, and lane 1 cannot. -/
theorem laneDevice_lanes :
    let u (cause : BitVec 12) := (laneDevice { st := { cause } }).arrived 0
    (u 0).lanesBad 1 = false ∧ (u 1).lanesBad 1 = false ∧ (u 1).lanesBad 2 = true ∧
    (u 1).laneConvs 0 = [0] ∧ (u 0).convRuns 1 = true ∧ (u 1).convRuns 1 = false := by decide

/-- Settles O38: both commands ask whether the named lanes can sleep, VALVE_SLEEP then whether a converter on them runs, and what either
changes are the named lanes one by one. -/
theorem laneCommands : Obligations.LaneCommands := by
  intro dt h lanes wId wIdMask wData wDataMask s k w u sleepy
  refine ⟨fun unable => ⟨fun takes => ?sleepUnable, fun takes => ?wakeUnable⟩,
    fun able => ⟨fun takes runs => ?runs, fun takes blocked => ?sleeps, fun takes => ?wakes⟩⟩
  case sleepUnable =>
    exact State.goOn_endsNot dt h k s _ _ takes (State.valveSleep_unable 0 (State.lanesBad_iff.mpr unable))
  case wakeUnable =>
    exact State.goOn_endsNot dt h w s _ _ takes (State.valveWake_unable (State.lanesBad_iff.mpr unable))
  case runs =>
    have running : (u.begun h k).convRuns lanes = true := State.convRuns_iff.mpr runs
    exact State.goOn_endsNot dt h k s _ _ takes ((State.valveSleep_able (s := u.begun h k) (State.lanesBad_of_all able)).trans (if_pos running))
  case sleeps =>
    have quiet : ¬ (u.begun h k).convRuns lanes = true := fun running => by
      obtain ⟨n, c, low, named, on, free⟩ := State.convRuns_iff.mp running
      exact Bool.false_ne_true (free.symm.trans (blocked n c low named on))
    have out := (State.valveSleep_able (s := u.begun h k) (State.lanesBad_of_all able)).trans (if_neg quiet)
    exact ⟨_, State.goOn_waits dt h k s _ (fun _ => _) takes out Wait.noConfusion
      (congrArg Gaffer.ops State.sleepLanes_lanesOnly.gaf), State.sleepLanes_lane⟩
  case wakes =>
    have only := State.wakeLanes_lanesOnly (lanes := lanes) (s := u.begun h w) (w := (wId, wIdMask, wData, wDataMask))
    exact ⟨_, State.goOn_waits dt h w s _ (fun _ => _) takes (State.valveWake_able (State.lanesBad_of_all able)) Wait.noConfusion
      (congrArg Gaffer.ops only.gaf), fun n => ⟨fun other => only.2 n (mt mem_namedLanes.mp other),
        fun b low named on => State.wakeLanes_woken (mem_namedLanes.mpr ⟨low, named⟩) on⟩⟩

end Sys2Proof.Machine
end

section
/-!
PROOF. The logic tasks: what changes tasks and nothing else, and what LOGIC_RUN (R363) and LOGIC_STOP (R364) make of the tasks they name.
-/
namespace Sys2Proof.Machine

/-! ### Changing tasks -/

theorem State.modTask_task_self (n : Nat) (f : Task → Task) (s : State) : (s.modTask n f).task n = f (s.task n) :=
  Table.get_put_self ..

theorem State.modTask_task_of_ne {n m : Nat} (f : Task → Task) (s : State) (other : m ≠ n) : (s.modTask n f).task m = s.task m :=
  Table.get_put_of_ne _ _ _ _ _ other

/-- The tasks of a list are changed, each in the same way. -/
def State.modTasks (ns : List Nat) (f : Task → Task) (s : State) : State := ns.foldl (fun s n => s.modTask n f) s

section
variable (ns : List Nat) (f : Task → Task) (s : State)

theorem State.modTasks_gaf : (s.modTasks ns f).gaf = s.gaf := by
  induction ns generalizing s with
  | nil => rfl
  | cons k ns ih => exact ih (s.modTask k f)

theorem State.modTasks_nowNs : (s.modTasks ns f).nowNs = s.nowNs := by
  induction ns generalizing s with
  | nil => rfl
  | cons k ns ih => exact ih (s.modTask k f)

theorem State.modTasks_task_other {n : Nat} (out : n ∉ ns) : (s.modTasks ns f).task n = s.task n := by
  induction ns generalizing s with
  | nil => rfl
  | cons k ns ih =>
    obtain ⟨other, rest⟩ := List.ne_and_not_mem_of_not_mem_cons out
    exact (ih (s.modTask k f) rest).trans (s.modTask_task_of_ne f other)

variable {ns}

theorem State.modTasks_task_mem (once : ns.Nodup) {n : Nat} (mem : n ∈ ns) : (s.modTasks ns f).task n = f (s.task n) := by
  induction ns generalizing s with
  | nil => exact nomatch mem
  | cons k ns ih =>
    obtain ⟨first, rest⟩ := List.nodup_cons.mp once
    obtain rfl | later := List.mem_cons.mp mem
    · exact (State.modTasks_task_other ns f _ first).trans (s.modTask_task_self n f)
    · have other : n ≠ k := fun same => first (same ▸ later)
      exact (ih (s.modTask k f) rest later).trans (congrArg f (s.modTask_task_of_ne f other))

variable {f}

/-- A change of tasks that starts and stops none leaves the mask of those running. -/
theorem State.modTasks_runMask (keeps : ∀ t, (f t).running = t.running) (once : ns.Nodup) : (s.modTasks ns f).runMask = s.runMask := by
  have same : ∀ n, ((s.modTasks ns f).task n).running = (s.task n).running := fun n => by
    by_cases mem : n ∈ ns
    · rw [State.modTasks_task_mem f s once mem, keeps]
    · rw [State.modTasks_task_other ns f s mem]
  exact congrArg (maskOf 8) (funext same)

end

/-! ### The tasks that a command names -/

/-- The tasks that a mask names. -/
def namedTasks (tasks : Byte) : List Nat := (List.range 8).filter (bitOf tasks.toNat)

theorem mem_namedTasks {tasks : Byte} {n : Nat} : n ∈ namedTasks tasks ↔ n < 8 ∧ bitOf tasks.toNat n = true := by
  simp [namedTasks]

theorem namedTasks_nodup (tasks : Byte) : (namedTasks tasks).Nodup := List.nodup_range.filter _

/-- A start is asked of a task unless it runs and is not about to stop; a stop of one that runs or is about to start. -/
def Task.asked (run : Bool) (start : Byte) (t : Task) : Task :=
  if run then if t.running && !t.pendStop then t else { t with pendStart := some (if start = 1 then .cold else .warm) }
  else if t.running || t.pendStart.isSome then { t with pendStop := true } else t

/-- A task has a start, or a stop, before it. -/
def Task.due (run : Bool) (t : Task) : Bool := if run then t.pendStart.isSome else t.pendStop

theorem Task.asked_running (run : Bool) (start : Byte) (t : Task) : (t.asked run start).running = t.running := by
  unfold Task.asked
  split
  · exact (apply_ite Task.running _ _ _).trans (ite_self _)
  · exact (apply_ite Task.running _ _ _).trans (ite_self _)

/-- The named tasks are asked to start or to stop. -/
def State.askTasks (run : Bool) (tasks start : Byte) (s : State) : State := s.modTasks (namedTasks tasks) (Task.asked run start)

section
variable (run : Bool) (tasks start : Byte) (s : State)

theorem State.askTasks_gaf : (s.askTasks run tasks start).gaf = s.gaf := State.modTasks_gaf ..

theorem State.askTasks_task (n : Nat) : (s.askTasks run tasks start).task n =
    if n < 8 ∧ bitOf tasks.toNat n = true then (s.task n).asked run start else s.task n := by
  split
  · next named => exact State.modTasks_task_mem _ s (namedTasks_nodup tasks) (mem_namedTasks.mpr named)
  · next other => exact State.modTasks_task_other _ _ s (mt mem_namedTasks.mp other)

theorem State.askTasks_task_run (n : Nat) : (s.askTasks true tasks start).task n =
    if n < 8 ∧ bitOf tasks.toNat n = true ∧ ¬ ((s.task n).running = true ∧ (s.task n).pendStop = false)
      then { s.task n with pendStart := some (if start = 1 then .cold else .warm) } else s.task n := by
  rw [State.askTasks_task]
  simp only [Task.asked, ite_and, ite_not, Bool.and_eq_true, Bool.not_eq_true', if_true]

theorem State.askTasks_task_stop (n : Nat) : (s.askTasks false tasks start).task n =
    if n < 8 ∧ bitOf tasks.toNat n = true ∧ ((s.task n).running = true ∨ (s.task n).pendStart.isSome = true)
      then { s.task n with pendStop := true } else s.task n := by
  rw [State.askTasks_task]
  simp only [Task.asked, ite_and, Bool.or_eq_true, Bool.false_eq_true, if_false]

/-! ### LOGIC_RUN and LOGIC_STOP (R363, R364) -/

/-- The answer of a command that finds nothing to do: the instant and the tasks running. -/
def State.tasksStand (s : State) : Bytes := packLe [(8, s.nowNs), (1, s.runMask)]

theorem State.askTasks_tasksStand : (s.askTasks run tasks start).tasksStand = s.tasksStand := by
  have now : (s.askTasks run tasks start).nowNs = s.nowNs := State.modTasks_nowNs ..
  have mask : (s.askTasks run tasks start).runMask = s.runMask := State.modTasks_runMask s (Task.asked_running run start) (namedTasks_nodup tasks)
  unfold State.tasksStand
  rw [now, mask]

/-- A named task that is disabled refuses LOGIC_RUN. -/
theorem State.logicCmd_disabled {n : Nat} (named : n < 8 ∧ bitOf tasks.toNat n = true) (off : s.fld 0x901 n 0 (·.u8 0) ≠ 1) :
    s.logicCmd true tasks start 0 = (s, badAt 0) := by
  have found : ((namedTasks tasks).any fun n => s.fld 0x901 n 0 (·.u8 0) != 1) = true :=
    List.any_eq_true.mpr ⟨n, mem_namedTasks.mpr named, bne_iff_ne.mpr off⟩
  unfold namedTasks at found
  unfold State.logicCmd
  dsimp only
  rw [found]
  rfl

variable {run tasks start}

/-- START is in its range, and no disabled task is asked to start. -/
def State.TaskFieldsOk (run : Bool) (tasks start : Byte) (s : State) : Prop :=
  if run then start.toNat ≤ 1 ∧ ∀ n, n < 8 ∧ bitOf tasks.toNat n = true → s.fld 0x901 n 0 (·.u8 0) = 1 else start = 0

/-- What the fields name is asked, and the command waits where a named task then has something before it. -/
theorem State.logicCmd_accepted (good : s.TaskFieldsOk run tasks start) : s.logicCmd run tasks start 0 =
    (s.askTasks run tasks start,
      if (namedTasks tasks).any fun n => ((s.askTasks run tasks start).task n).due run then .wait (.logic tasks.toNat run)
      else okWith (s.askTasks run tasks start).tasksStand) := by
  have checks : firstBad [(0, !(run && (namedTasks tasks).any fun n => s.fld 0x901 n 0 (·.u8 0) != 1)),
      (1, if run then decide (start.toNat ≤ 1) else start == 0), (2, (0 : U16) == 0)] = none := by
    cases run with
    | false => simpa [firstBad, State.TaskFieldsOk] using good
    | true => simpa [firstBad, State.TaskFieldsOk, mem_namedTasks] using And.symm good
  unfold namedTasks at checks
  unfold State.logicCmd
  dsimp only
  rw [checks]
  exact (apply_ite (Prod.mk (s.askTasks run tasks start)) _ _ _).symm

variable {dt : Nat} {h : CmdHead} {c : HostCmd}

/-- A command that is carried out on the tasks waits where a named one has something before it, and is else answered at once. -/
theorem State.goOn_logicCmd (takes : (s.arrived dt).takes h c = true)
    (isCmd : ∀ o : Op, o.cmd = c → ∀ u : State, u.carryOut o = u.logicCmd run tasks start 0)
    (good : (s.arrived dt).TaskFieldsOk run tasks start) :
    let u := s.arrived dt
    let v := (u.begun h c).askTasks run tasks start
    ((∃ n, (n < 8 ∧ bitOf tasks.toNat n = true) ∧ (v.task n).due run = true) →
      goOn dt (State.hostRow h c) s = .next (s.startsWait dt h c (.logic tasks.toNat run) fun _ => v)) ∧
    ((∀ n, n < 8 ∧ bitOf tasks.toNat n = true → (v.task n).due run = false) →
      goOn dt (State.hostRow h c) s = .next (s.endsOk dt h c u.tasksStand fun _ => v)) := by
  intro u v
  have ops : v.gaf.ops = [u.opFor h c] := congrArg Gaffer.ops (State.askTasks_gaf ..)
  have out : (u.begun h c).carryOut (u.opFor h c) = _ := (isCmd _ rfl _).trans (State.logicCmd_accepted (u.begun h c) good)
  refine ⟨fun ⟨n, named, due⟩ => ?waits, fun quiet => ?answers⟩
  case waits =>
    rw [if_pos (List.any_eq_true.mpr ⟨n, mem_namedTasks.mpr named, due⟩)] at out
    exact State.goOn_waits dt h c s _ (fun _ => v) takes out Wait.noConfusion ops
  case answers =>
    have none_ : ¬ ((namedTasks tasks).any fun n => (v.task n).due run) = true := fun found => by
      obtain ⟨n, mem, due⟩ := List.any_eq_true.mp found
      exact Bool.false_ne_true ((quiet n (mem_namedTasks.mp mem)).symm.trans due)
    rw [if_neg none_, State.askTasks_tasksStand] at out
    exact State.goOn_ends dt h c s _ _ _ _ _ (fun _ => v) takes out ops

end

/-- A device in service whose tasks 0 and 1 are enabled, with task 0 in a state. -/
def taskDevice (t : Task) : State :=
  { convDevice { } with
    cfg := [{ rtype := 0x901, obj := 0, body := 1 :: zeros 23 }, { rtype := 0x901, obj := 1, body := 1 :: zeros 23 }]
    log := { tasks := [(0, t)] } }

/-- It takes both commands for its tasks, and LOGIC_RUN for one that it does not have. -/
theorem taskDevice_takes :
    let h : CmdHead := { mb := 0, tag := 7 }
    let u (running : Bool) := (taskDevice { running }).arrived 0
    (u true).takes h (.logicRun 3 1 0) = true ∧ (u true).takes h (.logicRun 1 0 0) = true ∧ (u true).takes h (.logicRun 4 0 0) = true ∧
    (u true).takes h (.logicStop 3 0 0) = true ∧ (u true).takes h (.logicStop 2 0 0) = true ∧
    (u true).fld 0x901 0 0 (·.u8 0) = 1 ∧ (u true).fld 0x901 1 0 (·.u8 0) = 1 ∧ (u true).fld 0x901 2 0 (·.u8 0) ≠ 1 := by decide

/-- Where its task 0 runs, a start of both tasks waits for task 1 and a stop for task 0, and a start of task 0 or a stop of task 1 finds
nothing to do. -/
theorem taskDevice_due :
    let v (run : Bool) (tasks : Byte) := ((taskDevice { running := true }).arrived 0).askTasks run tasks 0
    ((v true 3).task 0).due true = false ∧ ((v true 3).task 1).due true = true ∧
    ((v false 3).task 0).due false = true ∧ ((v false 3).task 1).due false = false ∧
    ((v true 1).task 0).due true = false ∧ ((v false 2).task 1).due false = false := by decide

/-- Settles O39: both commands ask the named tasks one by one, and answer by whether one of them then has a start or a stop before it. -/
theorem taskCommands : Obligations.TaskCommands := by
  intro dt h tasks start s r p u named
  refine ⟨fun takes range enabled => ?run, fun takes ⟨n, name, off⟩ => ?disabled, fun takes => ?stop⟩
  case run =>
    obtain ⟨waits, answers⟩ := State.goOn_logicCmd (run := true) s takes (fun o is_ _ => by unfold State.carryOut; rw [is_]) ⟨range, enabled⟩
    exact ⟨_, State.askTasks_task_run tasks start (u.begun h r), waits,
      fun quiet => answers fun n name => Option.isSome_eq_false_iff.mpr (Option.isNone_iff_eq_none.mpr (quiet n name))⟩
  case disabled =>
    exact State.goOn_endsNot dt h r s _ _ takes (State.logicCmd_disabled tasks start (u.begun h r) name off)
  case stop =>
    obtain ⟨waits, answers⟩ := State.goOn_logicCmd (run := false) s takes (fun o is_ _ => by unfold State.carryOut; rw [is_]) rfl
    exact ⟨_, State.askTasks_task_stop tasks 0 (u.begun h p), waits, answers⟩

end Sys2Proof.Machine
end

section
/-!
PROOF. What EVENT_ACK acknowledges, what that frees in the event queue, and the counts that it returns (R397, R398).
-/
namespace Sys2Proof.Machine

/-! ### Freeing entries (R397) -/

/-- Freeing entries changes the event system alone. -/
theorem State.freeEntries_eq (s : State) : ∃ e, s.freeEntries = { s with ev := e } := by
  unfold State.freeEntries
  exact State.refill_eq 600 _

@[simp] theorem State.freeEntries_gaf (s : State) : s.freeEntries.gaf = s.gaf := by
  obtain ⟨e, freed⟩ := State.freeEntries_eq s
  rw [freed]

/-! ### EVENT_ACK (R398) -/

/-- The entries up to `ack` count as acknowledged. -/
def State.ackEntries (ack : U32) (s : State) : State :=
  { s with ev := { s.ev with
      lastAck := ack, queue := s.ev.queue.map fun e => if seqLe e.seq ack then { e with acked := true } else e } }

/-- The inline data of EVENT_ACK where no alarm entry is written: the counts as they stand (R398). -/
def State.eventCounts (s : State) : Bytes :=
  packLe [(4, s.ev.nextSeq.toNat), (4, (s.ev.queue.head?.elim s.ev.nextSeq (·.seq)).toNat), (2, s.ev.queue.length),
    (2, (s.ev.alarms.filter fun a => !a.raised.isEmpty).length), (2, (s.ev.alarms.filter (·.unack)).length), (2, 0), (4, s.ev.lost), (20, 0)]

section
variable {ack : U32} {buf : BufDesc} {path : Path} {s : State}

/-- EVENT_ACK with ACK_VALID alone acknowledges, frees, and then returns the counts. -/
theorem State.eventAck_known (known : seqLe ack (s.ev.nextSeq - 1) = true) (good : bufBad buf 8 path = none) :
    s.eventAck ack 1 buf path =
      (s.ackEntries ack).freeEntries.deliver buf [] (s.ackEntries ack).freeEntries.eventCounts := by
  unfold State.eventAck
  rw [known, good]
  rfl

/-- An ACK_SEQ beyond the newest entry is BAD_FIELD at its offset. -/
theorem State.eventAck_beyond (beyond : seqLe ack (s.ev.nextSeq - 1) = false) : s.eventAck ack 1 buf path = (s, badAt 0) := by
  unfold State.eventAck
  rw [beyond]
  rfl

end

/-- A device in service with two entries in its queue that are not acknowledged, and that the record writer has passed or not. -/
def ackDevice (written : Bool) : State :=
  let entry (n : U32) : QEntry := { seq := n, ev := mkEv 0x06 0 0 [], origin := 0, at_ := 0, written }
  { convDevice { } with ev := { nextSeq := 2, queue := [entry 0, entry 1] } }

/-- It takes an EVENT_ACK of the older entry, which frees that one alone and only where the record writer has passed it, and an EVENT_ACK
of an entry yet to come. -/
theorem ackDevice_frees :
    let h : CmdHead := { mb := 0, tag := 7 }
    let buf : BufDesc := { addr := 0, len := 0, kind := 0 }
    let u (written : Bool) := (ackDevice written).arrived 0
    (u true).takes h (.eventAck 0 1 buf) = true ∧ (u true).takes h (.eventAck 2 1 buf) = true ∧ bufBad buf 8 h.path = none ∧
    seqLe 0 ((u true).ev.nextSeq - 1) = true ∧ seqLe 2 ((u true).ev.nextSeq - 1) = false ∧
    ((u true).ackEntries 0).freeEntries.ev.queue.map (·.seq) = [1] ∧
    ((u false).ackEntries 0).freeEntries.ev.queue.map (·.seq) = [0, 1] := by decide

/-- Settles O29: an EVENT_ACK taken alone answers what its lemmas say, and acknowledging and freeing leave its operation in flight. -/
theorem eventAckFrees : Obligations.EventAckFrees := by
  intro dt h ack buf s c b acked v takes good
  refine ⟨fun known => ?acknowledges, fun beyond => ?refused⟩
  case acknowledges =>
    obtain ⟨m, n, kept, flash⟩ := State.deliver_eq buf [] v.eventCounts v
    have gaf : v.gaf = b.gaf := State.freeEntries_gaf acked
    have ops : (v.deliver buf [] v.eventCounts).1.gaf.ops = [(s.arrived dt).opFor h c] := by
      rw [kept]
      exact congrArg Gaffer.ops gaf
    exact State.goOn_reply dt h c s _ takes (State.eventAck_known (s := b) known good) flash ops
  case refused =>
    exact State.goOn_endsNot dt h c s _ _ takes (State.eventAck_beyond (s := b) beyond)

end Sys2Proof.Machine
end

section
/-!
PROOF. PAIR_REVERT (R430), and the limit of a host access that is not answered (R52).
-/
namespace Sys2Proof.Machine

/-! ### PAIR_REVERT (R430) -/

section
variable (s : State)

/-- TRANSFER_NOW asks for the role where the partner and the standby allow it. -/
theorem State.pairRevert_transfer (paired : s.paired = true) (ready : s.standbyReady = true) :
    s.pairRevert 1 0 = (s.modPair fun p => { p with reqTransfer := true, byRevert := true }, .wait .pair) := by
  have can : ¬ (!s.paired || !s.standbyReady) = true := by simp [paired, ready]
  exact if_neg can

/-- Without a partner, or with a standby that is not READY, TRANSFER_NOW is refused. -/
theorem State.pairRevert_noStandby (none_ : s.paired = false ∨ s.standbyReady = false) : s.pairRevert 1 0 = (s, noRes 0xC01) := by
  have cannot : (!s.paired || !s.standbyReady) = true := by
    rcases none_ with alone | unready
    · rw [alone]; rfl
    · rw [unready, Bool.not_false, Bool.or_true]
  exact if_pos cannot

theorem State.pairRevert_setInhibit : s.pairRevert 2 0 = (s.modPair fun p => { p with inhibit := true }, okNone) := rfl

theorem State.pairRevert_clearInhibit : s.pairRevert 3 0 = (s.modPair fun p => { p with inhibit := false }, okNone) := rfl

end

/-! ### The limit of a host access (R52) -/

/-- Between two states the bytes of host memory within a buffer, and the counter of free values, may have changed, and nothing else. -/
def BufferOnly (b : Option BufDesc) (s t : State) : Prop :=
  t = { s with hostMem := t.hostMem, free := t.free } ∧ (b = none → t.hostMem = s.hostMem) ∧
  ∀ d, b = some d → ∀ a, (a < d.addr.toNat ∨ d.addr.toNat + d.len.toNat ≤ a) → Mem.wf 0 s.hostMem = true →
    Mem.read 0 t.hostMem a = Mem.read 0 s.hostMem a

theorem spoilBuf_bufferOnly (b : BufDesc) (s : State) : BufferOnly (some b) s (spoilBuf b s) := by
  unfold spoilBuf
  split
  · refine ⟨rfl, fun none_ => (nomatch none_), fun d is_ a outside wf => ?_⟩
    cases is_
    exact Mem.read_writeBytes_outside 0 _ _ a _ wf (by simpa using outside)
  · exact ⟨rfl, fun _ => rfl, fun _ _ _ _ _ => rfl⟩

/-- The bytes of a command's buffer are undefined, where it has one. -/
def State.spoilt (b : Option BufDesc) (s : State) : State := b.elim s fun d => spoilBuf d s

theorem State.spoilt_bufferOnly (b : Option BufDesc) (s : State) : BufferOnly b s (s.spoilt b) := by
  cases b with
  | none => exact ⟨rfl, fun _ => rfl, fun _ is_ => nomatch is_⟩
  | some d => exact spoilBuf_bufferOnly d s

section
variable {o : Op} {t : Fine} {s : State} (ops : s.gaf.ops = [o]) (out : o.outcome = none) (wait : o.wait = .host t)
include ops out wait

/-- The one operation in flight, whose access has had its 10 ms, ends with TIMEOUT over its spoilt buffer. -/
theorem State.hostTimeout_due (run : s.part.inReset = false) (due : t + 10000000 * nsF ≤ s.now) :
    s.hostTimeout o.h.tag = (State.finished o .timeout (s.elapsedUs t) [] false [] (s.spoilt o.cmd.outBuf)).netOut := by
  obtain ⟨only, -⟩ := s.spoilt_bufferOnly o.cmd.outBuf
  have inFlight : (s.spoilt o.cmd.outBuf).gaf.ops = [o] := by rw [only]; exact ops
  have elapsed : (s.spoilt o.cmd.outBuf).elapsedUs t = s.elapsedUs t := by rw [only]; rfl
  have found : s.gaf.ops.find? (fun p => p.h.tag == o.h.tag && p.outcome.isNone) = some o := by simp [ops, out]
  have passed : ¬ (s.part.inReset || decide (s.now < t + 10000000 * nsF)) = true := by simp [run, due]
  unfold State.hostTimeout
  rw [found]
  dsimp only
  rw [wait]
  dsimp only
  rw [if_neg passed, ← elapsed]
  exact State.settleOut_finishOp o _ _ _ _ inFlight out

/-- Before the 10 ms have passed nothing happens, whichever tag is named. -/
theorem State.hostTimeout_early (early : s.now < t + 10000000 * nsF) (tag : U16) : s.hostTimeout tag = s := by
  have waits : (s.part.inReset || decide (s.now < t + 10000000 * nsF)) = true := by simp [early]
  unfold State.hostTimeout
  rw [ops]
  by_cases named : o.h.tag = tag
  · simp only [List.find?_cons, named, out, wait, waits, beq_self_eq_true, Option.isNone_none, Bool.and_self, if_true]
  · simp only [List.find?_cons, beq_eq_false_iff_ne.mpr named, Bool.false_and, List.find?_nil]

end

/-- A device in service, active in a pair whose standby shows a STATE in its heartbeat. -/
def pairDevice (state : Fin 7) : State :=
  { convDevice { } with cfg := [{ rtype := 0xC01, obj := 0, body := zeros 16 }], pair := { role := .active, partner := some { state } } }

/-- It takes each OP of PAIR_REVERT where its standby is READY (STATE 3), and TRANSFER_NOW also where the standby is not, or where there
is no partner. -/
theorem pairDevice_takes :
    let h : CmdHead := { mb := 0, tag := 7 }
    let u (state : Fin 7) := (pairDevice state).arrived 0
    let alone := (convDevice { }).arrived 0
    (u 3).takes h (.pairRevert 1 0) = true ∧ (u 3).paired = true ∧ (u 3).standbyReady = true ∧
    (u 2).takes h (.pairRevert 1 0) = true ∧ (u 2).paired = true ∧ (u 2).standbyReady = false ∧
    alone.takes h (.pairRevert 1 0) = true ∧ alone.paired = false ∧
    (u 3).takes h (.pairRevert 2 0) = true ∧ (u 3).takes h (.pairRevert 3 0) = true := by decide

/-- An EVENT_ACK that has waited since instant 0 for its access to a buffer of 8 bytes at address 4. -/
def accessOp : Op :=
  { seq := 0, h := { mb := 0, tag := 7 }, cmd := .eventAck 0 0 { addr := 4, len := 8, kind := 1 }, wait := .host 0, started := true }

/-- A device at an instant with that operation in flight, whose host memory holds a byte below the buffer and one above it. -/
def accessDevice (now : Fine) : State :=
  { convDevice { } with
    gaf := { (convDevice { }).gaf with ops := [accessOp] }, hostMem := [(3, 1), (12, 2)],
    time := { domA := { count := now * 65536 } } }

/-- At 10 ms the access has had its time, and 1/65536 ns before it has not. -/
theorem accessDevice_waits :
    let u (now : Fine) := (accessDevice now).arrived 0
    (u 655360000000).gaf.ops = [accessOp] ∧ (u 655360000000).part.inReset = false ∧ (u 655360000000).now = 655360000000 ∧
    (u 655359999999).gaf.ops = [accessOp] ∧ (u 655359999999).now = 655359999999 ∧
    Mem.wf 0 (u 655360000000).hostMem = true := by decide

/-- The bytes beside its buffer outlast the TIMEOUT. -/
theorem accessDevice_keeps :
    let v := ((accessDevice 655360000000).arrived 0).spoilt accessOp.cmd.outBuf
    Mem.read 0 v.hostMem 3 = 1 ∧ Mem.read 0 v.hostMem 12 = 2 := by
  obtain ⟨-, -, outside⟩ := ((accessDevice 655360000000).arrived 0).spoilt_bufferOnly accessOp.cmd.outBuf
  exact ⟨outside _ rfl 3 (.inl (by decide)) (by decide), outside _ rfl 12 (.inr (by decide)) (by decide)⟩

/-- Settles O40: each OP of PAIR_REVERT is one answer, and a host access ends at its limit over a buffer that alone is spoilt. How
TRANSFER_NOW asks for the role is the model's reading (log entry 35). -/
theorem pairCommandsAndTimeout : Obligations.PairCommandsAndTimeout := by
  refine ⟨?revert, ?timeout⟩
  case revert =>
    intro dt h s k u
    refine ⟨fun takes paired ready => ?transfer, fun takes none_ => ?refused, fun takes => ?set, fun takes => ?clear⟩
    case transfer =>
      exact State.goOn_waits dt h (k 1) s .pair (State.modPair fun p => { p with reqTransfer := true, byRevert := true }) takes
        (State.pairRevert_transfer (u.begun h (k 1)) paired ready) Wait.noConfusion rfl
    case refused =>
      exact State.goOn_endsNot dt h (k 1) s _ _ takes (State.pairRevert_noStandby (u.begun h (k 1)) none_)
    case set =>
      exact State.goOn_ends dt h (k 2) s _ _ _ _ _ (State.modPair fun p => { p with inhibit := true }) takes
        (State.pairRevert_setInhibit (u.begun h (k 2))) rfl
    case clear =>
      exact State.goOn_ends dt h (k 3) s _ _ _ _ _ (State.modPair fun p => { p with inhibit := false }) takes
        (State.pairRevert_clearInhibit (u.begun h (k 3))) rfl
  case timeout =>
    intro dt o t s u run ops out wait
    refine ⟨fun due => ?ends, fun early tag => goOn_of_eq (State.hostTimeout_early ops out wait early tag)⟩
    case ends =>
      obtain ⟨only, noBuffer, outside⟩ := u.spoilt_bufferOnly o.cmd.outBuf
      have acts := State.hostTimeout_due ops out wait run due
      rw [only] at acts
      exact ⟨_, _, goOn_of_eq acts, noBuffer, outside⟩

end Sys2Proof.Machine
end

section
/-!
PROOF. The queue (log entry 2) and the JTAG port (R479).
-/
namespace Sys2Proof.Machine

/-- Settles O1: a step reads the queue and nothing else. -/
theorem stepTakesTheFront : Obligations.StepTakesTheFront := fun _ _ _ => rfl

/-- Settles O2: the model's choice for an empty queue (log entry 2). -/
theorem emptyQueueIdles : Obligations.EmptyQueueIdles := by
  intro s empty
  unfold step
  rw [empty]

/-- Settles O44: closing a command leaves the instruction register, which alone decides what is read. -/
theorem jtagPort : Obligations.JtagPort := by
  intro dt ir s
  refine ⟨_, goOn_of_eq rfl, State.closed_part_jtagIr _ _, ?_, rfl⟩
  unfold State.jtagId
  rw [State.closed_part_jtagIr]

end Sys2Proof.Machine
end

section
/-!
PROOF. FW_UPDATE and the end of a flash operation (R456, R457): the field checks of each operation, what each does to the store, and how the
flash ends the one that waits for it.
-/
namespace Sys2Proof.Machine

/-! ### The field checks (R457) -/

section
variable {off : Nat} {buf : BufDesc}

/-- WRITE of whole blocks that stay within the slot, from host memory, passes the checks. -/
theorem fwChecks_write (verified : Bool) (kind : buf.kind = 1) (rsv : buf.rsv = 0) (addr : buf.addr.toNat % 4 = 0)
    (len : buf.len.toNat % 4096 = 0) (start : off % 4096 = 0) (most : buf.len.toNat ≤ 1048576) (fits : off + buf.len.toNat ≤ 29360128) :
    firstBad (fwChecks 1 0 off buf verified) = none := by
  have inSlot : off ≤ 29360128 := by omega
  simp [firstBad, fwChecks, within, kind, rsv, addr, len, start, most, fits, inSlot]

/-- An operation without data passes the checks, ACTIVATE after a good VERIFY alone. -/
theorem fwChecks_noData {n : Nat} {verified : Bool} (least : 2 ≤ n) (most : n ≤ 5) (ready : n ≠ 3 ∨ verified = true)
    (addr : buf.addr = 0) (kind : buf.kind = 0) (rsv : buf.rsv = 0) : firstBad (fwChecks n 0 off buf verified) = none := by
  have known : within 1 5 n = true := decide_eq_true ⟨by omega, most⟩
  have noWrite : n ≠ 1 := by omega
  simp [firstBad, fwChecks, known, noWrite, ready, addr, kind, rsv]

/-- ACTIVATE of an image that is not verified is refused at OP. -/
theorem fwChecks_activateUnverified : firstBad (fwChecks 3 0 off buf false) = some 0 := rfl

end

/-! ### The operations (R457) -/

section
variable {s : State} (fresh : ∀ o ∈ s.gaf.ops, o.started = false) {op : Byte} {rsv : BitVec 24} {off : U32} {buf : BufDesc}
include fresh

/-- No operation that has yet to start occupies the flash. -/
theorem State.flash_free : (s.gaf.ops.find? fun o => o.wait == .flash && o.started && o.outcome.isNone) = none := by
  rw [List.find?_eq_none]
  intro o inFlight
  rw [fresh o inFlight]
  simp

/-- Under PWR_WARN every operation but VERIFY is BUSY. -/
theorem State.fwUpdate_warned (warn : s.pwr.warn = true) (known : within 1 5 op.toNat = true) (writes : op.toNat ≠ 2) :
    s.fwUpdate op rsv off buf = (s, busy 0x10) := by
  unfold State.fwUpdate
  rw [State.flash_free fresh]
  exact if_pos (by simp [warn, known, writes])

/-- A bad field is named. -/
theorem State.fwUpdate_refused (warn : s.pwr.warn = false) {e : Nat}
    (bad : firstBad (fwChecks op.toNat rsv off.toNat buf s.store.verified) = some e) : s.fwUpdate op rsv off buf = (s, badAt e) := by
  simp only [State.fwUpdate, State.flash_free fresh, warn, bad]
  rfl

/-- VERIFY occupies the flash, whatever PWR_WARN is. -/
theorem State.fwUpdate_verify (good : firstBad (fwChecks (2 : Byte).toNat rsv off.toNat buf s.store.verified) = none) :
    s.fwUpdate 2 rsv off buf = (s.modStore fun st => { st with job := some .verify }, .wait .flash) := by
  unfold State.fwUpdate
  rw [State.flash_free fresh]
  dsimp only
  rw [good]
  exact if_neg (by simp)

variable (calm : s.pwr.warn = false)
include calm

/-- WRITE takes its bytes and occupies the flash. -/
theorem State.fwUpdate_write (good : firstBad (fwChecks (1 : Byte).toNat rsv off.toNat buf s.store.verified) = none) :
    s.fwUpdate 1 rsv off buf =
      (s.modStore fun st => { st with verified := false, job := some (.write off.toNat (s.fwData buf)) }, .wait .flash) := by
  simp only [State.fwUpdate, State.flash_free fresh, calm, good]
  rfl

/-- ERASE occupies the flash. -/
theorem State.fwUpdate_erase (good : firstBad (fwChecks (5 : Byte).toNat rsv off.toNat buf s.store.verified) = none) :
    s.fwUpdate 5 rsv off buf = (s.modStore fun st => { st with verified := false, job := some .erase }, .wait .flash) := by
  simp only [State.fwUpdate, State.flash_free fresh, calm, good]
  rfl

/-- ACTIVATE makes the slot that is not running ACTIVE, on trial. -/
theorem State.fwUpdate_activate (good : firstBad (fwChecks (3 : Byte).toNat rsv off.toNat buf s.store.verified) = none) :
    s.fwUpdate 3 rsv off buf =
      (s.modStore fun st => { st with active := !s.gaf.image, trial := true, activateReset := true, verified := false }, okNone) := by
  simp only [State.fwUpdate, State.flash_free fresh, calm, good]
  rfl

/-- CONFIRM ends the trial of the running image and raises the security counter to its SEC_VER. -/
theorem State.fwUpdate_confirm (good : firstBad (fwChecks (4 : Byte).toNat rsv off.toNat buf s.store.verified) = none)
    (trial : s.store.trial = true) (image : s.gaf.romHold = false) : s.fwUpdate 4 rsv off buf =
      let sec := BitVec.ofNat 32 (imageWord (s.store.image s.gaf.image) 0xC)
      (s.modStore fun st => { st with trial := false, secVer := sec, otpSec := if st.otpSec.toNat < sec.toNat then sec else st.otpSec },
        okNone) := by
  simp only [State.fwUpdate, State.flash_free fresh, calm, good, trial, image]
  rfl

/-- CONFIRM with no image on trial does nothing. -/
theorem State.fwUpdate_confirmNothing (good : firstBad (fwChecks (4 : Byte).toNat rsv off.toNat buf s.store.verified) = none)
    (none_ : s.store.trial = false) : s.fwUpdate 4 rsv off buf = (s, okNone) := by
  simp only [State.fwUpdate, State.flash_free fresh, calm, good, none_]
  rfl

end

/-- A command that came alone has yet to start. -/
theorem State.begun_unstarted (h : CmdHead) (c : HostCmd) (u : State) : ∀ o ∈ (u.begun h c).gaf.ops, o.started = false := by
  intro o inFlight
  rw [List.mem_singleton.mp inFlight]
  rfl

/-- With its link up the device meets the host as the host is. -/
theorem State.hostMeets_linkUp {b : BufDesc} {s : State} (link : s.part.pcieUp = true) : s.hostMeets b = b.host := if_pos link

/-- A command over PCIe, or any with the link up, begins with the link up. -/
theorem State.begun_linkUp {h : CmdHead} (c : HostCmd) {u : State} (link : u.part.pcieUp = true ∨ h.path = .pcie) :
    (u.begun h c).part.pcieUp = true := by
  obtain up | pcie := link
  · exact (congrArg (· || _) up).trans (Bool.true_or _)
  · exact (congrArg (fun p => _ || p == Path.pcie) pcie).trans (Bool.or_true _)

/-- A device in service takes a WRITE of one block, whose bytes the host has put into its buffer. -/
theorem convDevice_takesBlock :
    let h : CmdHead := { mb := 0, tag := 7 }
    let buf : BufDesc := { addr := 0x1000, len := 4096, kind := 1 }
    let u := ((convDevice { }).arrived 0).hostPut buf [0x34, 0x36]
    u.takes h (.fwUpdate 1 0 8192 buf [0x34, 0x36]) = true ∧ u.pwr.warn = false ∧ buf.host = .answers ∧ u.part.pcieUp = true ∧
    Mem.readBytes 0 u.hostMem 0x1000 3 = [0x34, 0x36, 0] := by decide

/-- Settles O30: FW_UPDATE taken alone finds the flash free, and each operation is one lemma. -/
theorem firmwareCommands : Obligations.FirmwareCommands := by
  refine ⟨?write, ?others⟩
  case write =>
    intro dt h off buf img s c u takes calm kind rsv addr len start most fits answers link
    have good := fwChecks_write u.store.verified kind rsv addr len start most fits
    have written := State.fwUpdate_write (State.begun_unstarted h c u) calm good
    have data : (u.begun h c).fwData buf = Mem.readBytes 0 u.hostMem buf.addr.toNat buf.len.toNat := if_pos kind
    have met : (u.begun h c).hostMeets buf = .answers := (State.hostMeets_linkUp (State.begun_linkUp c link)).trans answers
    rw [data] at written
    exact goOn_of_eq (State.hostRow_flash h 1 0 off buf img u _ takes written (fun _ _ => met) rfl)
  case others =>
    intro dt h off buf s c u addr kind rsv
    have fresh (n : Byte) := State.begun_unstarted h (c n) u
    have good (n : Byte) (least : 2 ≤ n.toNat) (most : n.toNat ≤ 5) (ready : n.toNat ≠ 3 ∨ u.store.verified = true) :
        firstBad (fwChecks n.toNat 0 off.toNat buf u.store.verified) = none := fwChecks_noData least most ready addr kind rsv
    refine ⟨fun takes => ?verify, fun takes calm => ?erase, fun takes warn => ?warned, fun takes calm verified => ?activate,
      fun takes calm unverified => ?unverified, fun takes calm trial image => ?confirm, fun takes calm none_ => ?nothing⟩
    case verify =>
      have starts := State.fwUpdate_verify (fresh 2) (good 2 (by decide) (by decide) (.inl (by decide)))
      exact goOn_of_eq (State.hostRow_flash h 2 0 off buf [] u _ takes starts (fun write => absurd write (by decide)) rfl)
    case erase =>
      have starts := State.fwUpdate_erase (fresh 5) calm (good 5 (by decide) (by decide) (.inl (by decide)))
      exact goOn_of_eq (State.hostRow_flash h 5 0 off buf [] u _ takes starts (fun write => absurd write (by decide)) rfl)
    case warned =>
      exact State.goOn_endsNot dt h (c 5) s _ _ takes (State.fwUpdate_warned (fresh 5) warn (by decide) (by decide))
    case activate =>
      exact State.goOn_ends dt h (c 3) s _ _ _ _ _ _ takes
        (State.fwUpdate_activate (fresh 3) calm (good 3 (by decide) (by decide) (.inr verified))) rfl
    case unverified =>
      have bad : firstBad (fwChecks (3 : Byte).toNat 0 off.toNat buf u.store.verified) = some 0 := by
        rw [unverified]
        exact fwChecks_activateUnverified
      exact State.goOn_endsNot dt h (c 3) s _ _ takes (State.fwUpdate_refused (fresh 3) calm bad)
    case confirm =>
      exact State.goOn_ends dt h (c 4) s _ _ _ _ _ _ takes
        (State.fwUpdate_confirm (fresh 4) calm (good 4 (by decide) (by decide) (.inl (by decide))) trial image) rfl
    case nothing =>
      exact State.goOn_ends dt h (c 4) s _ _ _ _ _ _ takes
        (State.fwUpdate_confirmNothing (fresh 4) calm (good 4 (by decide) (by decide) (.inl (by decide))) none_) rfl

/-! ### The end of a flash operation (R457) -/

section
variable {o : Op} {s : State} (run : s.part.inReset = false) (ops : s.gaf.ops = [o]) (started : o.started = true) (out : o.outcome = none)
  (wait : o.wait = .flash) (crypto : Bool)
include ops started out wait

/-- The one operation in flight, which waits for the flash, ends. -/
theorem State.finishWaiting_flash (f : Store → Store) (r : Result) (data : Bytes) :
    (s.modStore f).finishWaiting (fun o => o.wait == .flash) (fun _ => (r, 0, data)) = (s.modStore f).finished o r 0 data false [] :=
  State.finishWaiting_one o _ _ (s.modStore f) ops started out (beq_iff_eq.mpr wait)

include run

/-- A WRITE programs its bytes over what stood in the slot that is not running (log entry 33). -/
theorem State.flashDone_write {off : Nat} {data : Bytes} (job : s.store.job = some (.write off data)) :
    let slot := !s.gaf.image
    s.flashDone crypto = State.finished o .ok 0 [] false [] (s.modStore fun st =>
      { st.setImage slot (Mem.writeBytes 0xFF (s.store.image slot) off data) with job := none }) := by
  unfold State.flashDone
  rw [run, job]
  exact State.finishWaiting_flash ops started out wait _ _ _

/-- An ERASE leaves the slot that is not running erased. -/
theorem State.flashDone_erase (job : s.store.job = some .erase) :
    s.flashDone crypto = State.finished o .ok 0 [] false [] (s.modStore fun st => { st.setImage (!s.gaf.image) [] with job := none }) := by
  unfold State.flashDone
  rw [run, job]
  exact State.finishWaiting_flash ops started out wait _ _ _

variable (job : s.store.job = some .verify)
include job

/-- A VERIFY of a valid image answers its VERSION and SEC_VER. -/
theorem State.flashDone_verified (good : imageValid (s.store.image !s.gaf.image) s.store.otpSec crypto = true) :
    let m := s.store.image !s.gaf.image
    s.flashDone crypto = State.finished o .ok 0 (packLe [(4, imageWord m 8), (4, imageWord m 0xC)]) false []
      (s.modStore fun st => { st with job := none, verified := true }) := by
  unfold State.flashDone
  rw [run, job]
  dsimp only
  rw [good]
  exact State.finishWaiting_flash ops started out wait _ _ _

/-- A VERIFY of an image that fails a check of R456 is AUTH_FAIL. -/
theorem State.flashDone_rejected (bad : imageValid (s.store.image !s.gaf.image) s.store.otpSec crypto = false) :
    s.flashDone crypto = State.finished o .authFail 0 [] false [] (s.modStore fun st => { st with job := none, verified := false }) := by
  unfold State.flashDone
  rw [run, job]
  dsimp only
  rw [bad]
  exact State.finishWaiting_flash ops started out wait _ _ _

end

/-- A device in service with an image in the slot that is not running, slot B, and an operation that waits for the flash. -/
def flashDevice (job : FwJob) : State :=
  { convDevice { } with
    gaf := { (convDevice { }).gaf with
      ops := [{ seq := 0, h := { mb := 0, tag := 7 }, cmd := .statusGet, wait := .flash, started := true }] }
    store := { slotB := Mem.writeBytes 0xFF [] 0 (packLe [(4, 0x58473634), (4, 1), (4, 7), (4, 2), (4, 0)]), job := some job } }

/-- Its image has VERSION 7 and SEC_VER 2, which is valid where the counter is at most 2 and the signature and hashes verify. -/
theorem flashDevice_image :
    let u := (flashDevice .verify).arrived 0
    let m := u.store.image !u.gaf.image
    u.part.inReset = false ∧ u.store.job = some .verify ∧ imageWord m 8 = 7 ∧ imageWord m 0xC = 2 ∧ imageValid m u.store.otpSec true = true ∧
    imageValid m 2 true = true ∧ imageValid m 3 true = false ∧ imageValid m u.store.otpSec false = false := by decide

/-- Settles O31: the end of each kind of flash operation is one lemma. That a WRITE stores its bytes whatever stood there is the model's
reading (log entry 33). -/
theorem flashOperationEnds : Obligations.FlashOperationEnds := by
  intro dt crypto o s u slot m good run ops started out wait
  exact ⟨fun _ _ job => goOn_of_eq (State.flashDone_write run ops started out wait crypto job),
    fun job => goOn_of_eq (State.flashDone_erase run ops started out wait crypto job),
    fun job valid => goOn_of_eq (State.flashDone_verified run ops started out wait crypto job valid),
    fun job invalid => goOn_of_eq (State.flashDone_rejected run ops started out wait crypto job invalid)⟩

end Sys2Proof.Machine
end

section
/-!
PROOF. Shedding (R442 to R446): what is demanded, that the stage rises to a target formed anew, and that it falls a step where the hold has
passed.
-/
namespace Sys2Proof.Machine

/-! ### What is demanded (R444) -/

section
variable {v : State}

/-- The target is at least what any monitor demands. -/
theorem State.le_demanded {d : Nat × Nat} (is_ : d ∈ v.demands) : d.2 ≤ v.demanded := (foldl_max_le v.demands 0).2.1 d is_

/-- PWR_WARN demands its stage. -/
theorem State.warnStage_le_demanded (warn : v.pwr.warn = true) : v.warnStage ≤ v.demanded := by
  refine State.le_demanded (d := (0xFF, v.warnStage)) (List.mem_append_right _ ?_)
  rw [warn]
  exact List.mem_singleton_self _

/-- Every rail is a monitor. -/
theorem State.rail_demand_le {r : Rail} (is_ : r ∈ v.pwr.rails) : r.demand v.now v.warnDwell v.shedDwell ≤ v.demanded := by
  obtain ⟨i, at_⟩ := List.mem_iff_getElem?.mp is_
  have numbered : (r, i) ∈ v.pwr.rails.zipIdx := List.mem_zipIdx_iff_getElem?.mpr at_
  exact State.le_demanded (List.mem_append_left _ (List.mem_map_of_mem numbered))

/-- With every rail in band 0 and PWR_WARN low nothing is demanded. -/
theorem State.demanded_none (quiet : ∀ r ∈ v.pwr.rails, r.band = 0) (calm : v.pwr.warn = false) : v.demanded = 0 := by
  refine (foldl_max_le v.demands 0).2.2 fun d is_ => ?_
  obtain rail | warn := List.mem_append.mp is_
  · obtain ⟨⟨r, i⟩, numbered, rfl⟩ := List.mem_map.mp rail
    exact Rail.demand_band0 r _ _ _ (quiet r (List.fst_mem_of_mem_zipIdx numbered))
  · rw [List.mem_singleton.mp warn, calm]
    rfl

end

/-! ### The stage rises (R444) -/

/-- `t` has the monitors of `p` and the target that they demand in `u`. Its stage has risen to that and not fallen with it, and the hold of
R446 runs where the target lies below it. -/
def State.Risen (u : State) (p : Power) (t : State) : Prop :=
  let need := State.demanded { u with pwr := p }
  t.pwr.rails = p.rails ∧ t.pwr.warn = p.warn ∧ t.pwr.target = need ∧ t.pwr.stage = max u.pwr.stage need ∧
  (u.pwr.stage ≤ need → t.pwr.below = none) ∧
  (need < u.pwr.stage → t.pwr.below = some (if u.pwr.target < need then u.now else u.pwr.below.getD u.now))

section
variable {u : State}

/-- Forming the target anew raises the stage to it, with whatever monitors. -/
theorem State.risen_of_retarget {p : Power} {t : State} (stage : p.stage = u.pwr.stage) (target : p.target = u.pwr.target)
    (below : p.below = u.pwr.below) (is_ : t.pwr = (State.retarget { u with pwr := p }).pwr) : u.Risen p t := by
  obtain ⟨holders, b, after, reached, held⟩ := State.retarget_pwr { u with pwr := p }
  rw [after] at is_
  dsimp only at is_ reached held
  rw [stage] at is_ reached held
  rw [target, below] at held
  unfold State.Risen
  rw [is_]
  exact ⟨rfl, rfl, rfl, rfl, fun le => reached (by rw [Nat.max_eq_right le]), fun lt => (held lt).trans (apply_ite some _ _ _).symm⟩

variable (run : u.part.inReset = false)
include run

/-- A sample moves every monitor, and the target is formed from that (R442). -/
theorem State.railSample_run (levels : List Nat) : u.railSample levels = State.retarget { u with
    pwr := { u.pwr with rails := u.pwr.rails.zipIdx.map fun r => r.1.sample r.2 u.now (levels.getD r.2 r.1.level) } } :=
  if_neg (by rw [run]; exact Bool.false_ne_true)

/-- PWR_WARN takes its level, and the target is formed from that (R443). -/
theorem State.powerWarn_run (level : Bool) : u.powerWarn level = State.retarget { u with
    pwr := { u.pwr with warn := level, warnSeen := u.pwr.warnSeen || level } } :=
  if_neg (Bool.eq_false_iff.mp run)

end

/-- In reset a sample changes no stage (R447). -/
theorem State.railSample_reset_stage {u : State} (reset : u.part.inReset = true) (levels : List Nat) :
    (u.railSample levels).pwr.stage = u.pwr.stage := by
  unfold State.railSample
  rw [reset]
  rfl

/-- What a write to flash waited for leaves the power state. -/
theorem execPwrWarn_pwr (dt : Nat) (level : Bool) (s : State) :
    ∃ t, execPwrWarn dt level s = .next t ∧ t.pwr = ((s.arrived dt).powerWarn level).pwr := by
  refine ⟨_, goOn_of_eq rfl, ?_⟩
  rw [State.closed_pwr]
  dsimp only
  split
  · rfl
  · rw [State.casWrite_pwr, State.leapWrite_pwr]

/-- In reset an effect of its own instant does not happen. -/
theorem goOn_inReset {dt : Nat} {f : State → State} {s : State} (reset : (s.arrived dt).part.inReset = true) :
    goOn dt (State.outOfReset f) s = .next (s.closed (s.arrived dt)) := goOn_of_eq (if_pos reset)

/-! ### The stage falls (R446) -/

section
variable {u : State}

/-- Where the hold has passed the stage falls by one, and the hold starts again where the target lies lower still. -/
theorem State.fall_pwr {b : Fine} (pos : 0 < u.pwr.stage) (below : u.pwr.below = some b) (passed : b + u.recoverHold ≤ u.now) :
    u.fall.pwr = { u.pwr with
      stage := u.pwr.stage - 1, holders := u.pwr.holders.erase u.pwr.stage
      below := if u.pwr.target < u.pwr.stage - 1 then some u.now else none } := by
  unfold State.fall
  rw [if_pos (hold_over _ _ _ _ _ pos below passed), State.unshedAction_pwr]
  rfl

/-- Before that, and where no stage is in force, nothing falls. -/
theorem State.fall_holds (holds : u.pwr.stage = 0 ∨ ∀ b, u.pwr.below = some b → u.now < b + u.recoverHold) : u.fall = u :=
  if_neg (hold_runs _ _ _ _ holds)

end

/-- A device at an instant in stage 2, whose target has lain at 0 since instant 0. -/
def shedDevice (now : Fine) : State :=
  { convDevice { } with pwr := { stage := 2, below := some 0 }, time := { domA := { count := now * 65536 } } }

/-- After 1 s its hold has passed, and 1/65536 ns sooner it has not. -/
theorem shedDevice_holds :
    let u (now : Fine) := (shedDevice now).arrived 0
    (u 65536000000000).part.inReset = false ∧ (u 65536000000000).pwr.stage = 2 ∧ (u 65536000000000).pwr.below = some 0 ∧
    0 + (u 65536000000000).recoverHold ≤ (u 65536000000000).now ∧
    (u 65535999999999).now < 0 + (u 65535999999999).recoverHold := by decide

/-- A rail at 0 mV goes to band 3 with its fourth sample, and not sooner. -/
theorem railSample_fourth :
    let low (n : Nat) : Rail := (Rail.sample 0 0 0)^[n] { level := 750 }
    (low 3).band = 0 ∧ (low 4).band = 3 ∧ (low 4).demand 0 0 0 = 5 := by decide

/-- Settles O47: each report forms the target anew, from monitors of its own; the fall and the demands are one lemma for each case. -/
theorem powerStages : Obligations.PowerStages := by
  refine ⟨?stages, ?demands⟩
  case stages =>
    intro dt levels level s u sampled warned risen
    have dwell (run : u.part.inReset = false) : ∃ t, goOn dt (State.outOfReset State.retarget) s = .next t ∧ risen u.pwr t :=
      ⟨_, goOn_outOfReset run rfl, State.risen_of_retarget (p := u.pwr) rfl rfl rfl (State.closed_pwr _ _)⟩
    refine ⟨fun run => ⟨?sample, ?warn, dwell run, dwell run, ?falls, ?holds⟩, fun reset => ⟨goOn_inReset reset, goOn_inReset reset,
      goOn_inReset reset, ?resetSample⟩⟩
    case sample =>
      exact ⟨_, goOn_of_eq (State.railSample_run run levels), State.risen_of_retarget rfl rfl rfl (State.closed_pwr _ _)⟩
    case warn =>
      obtain ⟨t, goes, power⟩ := execPwrWarn_pwr dt level s
      rw [State.powerWarn_run run] at power
      exact ⟨t, goes, State.risen_of_retarget rfl rfl rfl power⟩
    case falls =>
      intro b pos below passed
      refine ⟨_, goOn_outOfReset run rfl, ?_⟩
      rw [State.closed_pwr, State.fall_pwr pos below passed]
      exact ⟨rfl, rfl, rfl, rfl⟩
    case holds =>
      exact fun holds => goOn_outOfReset run (State.fall_holds holds)
    case resetSample =>
      refine ⟨_, goOn_of_eq rfl, ?_⟩
      rw [State.closed_pwr]
      exact State.railSample_reset_stage reset levels
  case demands =>
    exact fun v => ⟨State.warnStage_le_demanded, fun r is_ => Rail.demand_bounds r _ _ _ _ (State.rail_demand_le is_), State.demanded_none⟩

end Sys2Proof.Machine
end
